-- ==== Sys2Proof/Word.lean ====
section
/-! DEFINITION. The plainest words of the JF-6130 model: bytes, numbered objects, lines. -/

namespace Sys2Proof

/-- One byte of a line, a frame or an image. -/
abbrev Byte := BitVec 8

/-- A station-time reading or stamp: an unsigned 64-bit count of nanoseconds (R1). -/
abbrev Stamp := BitVec 64

/-- A station site, 0 to 7. -/
abbrev Site := Fin 8

/-- A path port, 0 to 5. -/
abbrev PortNo := Fin 6

/-- A path, 0 to 15. -/
abbrev PathNo := Fin 16

/-- A hop, 0 to 95. -/
abbrev HopNo := Fin 96

/-- A transmit ring, T0 to T3. -/
abbrev RingNo := Fin 4

/-- An entry of the window table, 0 to 15. -/
abbrev EntryNo := Fin 16

/-- A command block, 0 to 7. -/
abbrev BlockNo := Fin 8

/-- One line of a write: 64 bytes, each present exactly when its byte enable is set (R78). -/
abbrev WLine := List (Option Byte)

/-- The two classes of a message. -/
inductive MsgClass where
  | urgent
  | bulk
  deriving DecidableEq, Repr

end Sys2Proof
end

