-- ==== Sys2Proof/Syntax.lean ====
section
/-! DEFINITION. The commands of the block: one constructor for each row of spec/opcode_table.json. -/

namespace Sys2Proof

/-- A request at either memory-side port (R78): 1 to 4 consecutive lines, named by the number of the first
(its 36-bit address divided by 64). -/
inductive MemReq where
  | read (line count : Nat)
  | write (line : Nat) (lines : List WLine)
  deriving DecidableEq, Repr

/-- The events and commands of the block. A command row of the Command Unit carries no operand: its
parameters are those of the oldest pending command block's copy (R158, R159). -/
inductive Instr where
  /-- The characters of one announcement, 0x24 first, as its last is received (R4). -/
  | announcement (chars : List Byte)
  | secondPulse
  | pulseMissingExpiry
  | holdoverExpiry
  | request (r : MemReq)
  | requestHead
  | memoryGrant
  /-- Message memory's answer to the oldest outstanding request, a forwarded one: OK or ERROR, and the
  lines read (R79). -/
  | forwardedResponse (ok : Bool) (data : List (List Byte))
  | ownGroupJoin
  /-- Message memory's answer to the oldest outstanding request, an own one (R91). -/
  | ownResponse (ok : Bool) (data : List Byte)
  /-- RS takes the waiting request of the record whose header line is named (R68). -/
  | selection (hdr : Nat)
  /-- RS takes the next message of the oldest batch from the port (R73). -/
  | reselection (port : PortNo)
  | frameComplete (port : PortNo)
  | holdoffExpiry (port : PortNo)
  | linkUp (port : PortNo)
  | linkLost (port : PortNo)
  /-- The last byte of a frame is received: the frame's bytes, header to delimiter (R129). -/
  | frameArrival (port : PortNo) (bytes : List Byte)
  | reportTimerExpiry (hop : HopNo)
  | probeTimerExpiry (path : PathNo)
  | silenceTimerExpiry (path : PathNo)
  | probeLifetimeExpiry (path : PathNo)
  | holeTimerExpiry (site : Site) (cls : MsgClass)
  | badCommand
  | setWindow
  | setPort
  | setHops
  | setPath
  | enablePath
  | disablePath
  | setRoute
  | setEpoch
  | setTime
  | setTiming
  | setNotify
  | readPath
  | readHop
  | readRoute
  | readPort
  | readTime
  | readGuard
  | clearExtremes
  | resyncSite
  | loopback
  | loopbackTimerExpiry
  | saveConfig
  | flashStageComplete
  | flashFailure
  | saveTimerExpiry
  | resetStation
  | resetInput
  /-- The straps' value, and what the flash answers: nothing, or the bytes of its image area (R168, R169). -/
  | startUpOrder (straps : Fin 8) (flash : Option (List Byte))
  | ready
  | frameReceptionStart (port : PortNo)
  deriving DecidableEq, Repr

end Sys2Proof
end

