-- ==== Sys2Proof/Decode.lean ====
section
/-! DEFINITION. The decoding of table words: the rows of the table give no bits, so no word spells a command. -/

namespace Sys2Proof

/-- The command a word spells by the table's bits: none, for no row has bits. -/
def decodeTableWord (_nbits _w : Nat) : Option Instr := none

end Sys2Proof
end

