-- ==== Sys2Proof/Config.lean ====
section
/-! DEFINITION. What one unit fixes, and the free values the manual leaves open (no bodies: nothing can be
proved of their values). -/

namespace Sys2Proof.Config

/-- The unit serial fixed in the part (R170, R172). -/
opaque unitSerial : BitVec 64

/-- The revision of the capability table, which R172 names and does not give (assumption 6). -/
opaque tableRevision : BitVec 16

/-- The revision of a parameter block, by its id, which R172 names and does not give (assumption 6). -/
opaque blockRevision : Nat → BitVec 16

/-- A result field whose content the manual does not state, because the value it shows is absent
(assumption 7). The argument is a count that never repeats within a run. -/
opaque absentField : Nat → BitVec 64

/-- The path rate of an OFF path over a RADIO port none of whose hops exist: the least of no rates, which
R39 does not state (assumption 8). -/
opaque rateOfNoHops : Nat

end Sys2Proof.Config
end

