-- ==== Sys2Proof/Machine/State.lean ====
section
/-! DEFINITION. The state of the JF-6130, block by block, and its value right after power-on reset. -/

namespace Sys2Proof.Machine

/-- Why the block stops with a fault. -/
inductive Fault where
  /-- Raised by REQUEST: the request's lines run past the 36-bit address space, whose addresses beyond the
  end do not exist. Safe: the model stops. -/
  | addressOutsideSpace
  deriving DecidableEq, Repr

/-- Why a command is refused. -/
inductive Refusal where
  /-- Raised by the dispatch for a command without a meaning. Safe. -/
  | notModelled (mnemonic : String)
  /-- Raised by REQUEST for a request no memory port carries: not 1 to 4 lines, or a line that is not
  64 bytes (R78). Safe. -/
  | illFormedRequest
  /-- Raised by FORWARDED_RESPONSE and OWN_RESPONSE for a read answered OK with anything but the lines
  asked for, 64 bytes each (R78). Safe. -/
  | illFormedResponse
  deriving DecidableEq, Repr

/-! ## Time Unit -/

/-- The five time states (1.4). -/
inductive TimeState where
  | unset | acquiring | locked | holdover | free
  deriving DecidableEq, Repr

/-- The Time Unit's record (1.2). -/
structure TimeUnit where
  /-- Station time, as it reads (R1). -/
  station : Stamp
  /-- The part of station time below 1 ns, in 10⁻⁹ ns: the model's own, 0 to 999,999,999. -/
  frac : Nat
  state : TimeState
  /-- The integral term I, in ppb. -/
  integral : Int
  /-- The rate adjustment adj, in ppb. -/
  adj : Int
  goodRun : Nat
  /-- The last accepted pulse, an interval-clock reading. -/
  lastPulse : Option Nat
  /-- The expiry of the pulse-missing timer, absent while it is stopped. -/
  missingDue : Option Nat
  /-- The announcement's seconds count, and whether it is valid. -/
  annSeconds : Nat
  annValid : Bool
  /-- The seconds count assigned to the last pulse handled. -/
  prevSeconds : Option Nat
  holdoverStart : Option Nat
  /-- The expiry of the holdover timer, absent while it is stopped. -/
  holdoverDue : Option Nat
  /-- The holdover limit, in seconds. -/
  limit : Nat
  /-- The last phase error, signed 64-bit ns. -/
  lastError : Int
  /-- The step count. -/
  steps : BitVec 32
  deriving DecidableEq, Repr

/-! ## Fade Monitor -/

/-- The four hop states (2.4). -/
inductive HopState where
  | unknown | clear | fading | down
  deriving DecidableEq, Repr

/-- A hop record (2.2). -/
structure HopRec where
  /-- The port and the position (from 1) of the hop; absent when unassigned. -/
  place : Option (PortNo × Nat)
  /-- The fade threshold, in tenths of a dBm. -/
  fade : Int
  /-- The down threshold. -/
  down : Int
  /-- The hysteresis. -/
  hyst : Int
  /-- The debounce setting D. -/
  debounce : Nat
  state : HopState
  /-- The debounce count. -/
  count : Nat
  last : Option Int
  /-- The minimum and the maximum level since the extremes were last cleared. -/
  minLevel : Int
  maxLevel : Int
  /-- Extremes valid. -/
  extremes : Bool
  /-- The modulation step, 0 to 7. -/
  step : Nat
  /-- The time of the last report, an interval-clock reading. -/
  lastReport : Option Nat
  /-- The expiry of the report timer, absent while it is stopped. -/
  reportDue : Option Nat
  deriving DecidableEq, Repr

inductive PortKind where
  | radio | fibre
  deriving DecidableEq, Repr

/-- The settings of a port that the Fade Monitor holds (R19, R31, R33). -/
structure PortRec where
  kind : PortKind
  /-- The chain, counted outward from the station. -/
  chain : List HopNo
  /-- The step-rate table: entry i is the rate at step i + 1, in bytes per millisecond. -/
  rates : Vector Nat 7
  fibreRate : Nat
  /-- The report timeout, in milliseconds. -/
  timeoutMs : Nat
  deriving DecidableEq, Repr

/-! ## Path Monitor -/

inductive PathState where
  | off | down | probing | up
  deriving DecidableEq, Repr

/-- How a sample measured the forward delay (R52). -/
inductive Method where
  | clock | half
  deriving DecidableEq, Repr

/-- An entry of an outstanding-probe list. -/
structure Probe where
  id : Byte
  t1 : Stamp
  /-- The interval-clock reading at the probe's egress. -/
  sentAt : Nat
  deriving DecidableEq, Repr

/-- The nine counters of a path (R57). -/
structure PathCounters where
  sent : BitVec 32
  lost : BitVec 32
  replaced : BitVec 32
  unmatched : BitVec 32
  samples : BitVec 32
  invalid : BitVec 32
  outliers : BitVec 32
  reseeds : BitVec 32
  duplicates : BitVec 32
  deriving DecidableEq, Repr

/-- A path record (3.1). -/
structure PathRec where
  configured : Bool
  port : PortNo
  site : Site
  /-- The number of chain hops crossed. -/
  drop : Nat
  /-- A, the normal probe interval in µs. -/
  normal : Nat
  /-- B, the fast probe interval in µs. -/
  fast : Nat
  /-- N, the silence exponent. -/
  silence : Nat
  /-- k, the filter shift. -/
  shift : Nat
  /-- O, the outlier limit in ns. -/
  outlier : Nat
  /-- F, the fade unit in ns. -/
  fadeUnit : Nat
  state : PathState
  seeded : Bool
  /-- est and rtt_est, in ns. -/
  est : Nat
  rttEst : Nat
  method : Option Method
  /-- The outlier run. -/
  run : Nat
  /-- The outstanding probes, oldest first. -/
  outstanding : List Probe
  nextId : Byte
  /-- The expiries of the probe timer and of the silence timer, absent while stopped. -/
  probeDue : Option Nat
  silenceDue : Option Nat
  /-- The fading count. -/
  fading : Nat
  /-- The path rate, in bytes per millisecond. -/
  rate : Nat
  /-- The last trailing lag (signed ns) with its time. -/
  lag : Option (BitVec 64 × Stamp)
  counters : PathCounters
  deriving DecidableEq, Repr

/-! ## Route Selector -/

inductive DualMode where
  | off | onFade | always
  deriving DecidableEq, Repr

/-- The seven counters of a route (R76). -/
structure RouteCounters where
  placed : BitVec 32
  switches : BitVec 32
  fallbacks : BitVec 32
  duals : BitVec 32
  refused : BitVec 32
  rerouted : BitVec 32
  flushed : BitVec 32
  deriving DecidableEq, Repr

/-- A route record (4.1). -/
structure RouteRec where
  cands : List PathNo
  dual : DualMode
  /-- The hysteresis H, in ns. -/
  hyst : Nat
  current : Option PathNo
  /-- LIVE, or DARK. -/
  live : Bool
  nextUrgent : BitVec 32
  nextBulk : BitVec 32
  counters : RouteCounters
  deriving DecidableEq, Repr

/-- One copy of a message, as a port holds it (R69, 7.1). -/
structure Msg where
  site : Site
  cls : MsgClass
  epoch : BitVec 32
  seq : BitVec 32
  /-- The copy index: false for the primary, true for the dual copy. -/
  dual : Bool
  capture : Stamp
  payload : List Byte
  /-- The identity of the slot: the number of its header line. -/
  slot : Nat
  path : PathNo
  /-- The placement mark (R64). -/
  mark : BitVec 64
  deriving DecidableEq, Repr

/-- A displacement batch, in the order RS takes it (R72). -/
structure Batch where
  port : PortNo
  msgs : List Msg
  deriving DecidableEq, Repr

structure RouteSelector where
  /-- The routes by site; the own site's is never used. -/
  routes : Vector RouteRec 8
  epoch : BitVec 32
  /-- The placement counter (R64). -/
  placement : BitVec 64
  /-- The batches RS has not wholly taken, oldest first. -/
  batches : List Batch
  deriving DecidableEq, Repr

/-! ## Port Transmitters -/

/-- A frame of the urgent queue: a MSG frame, or a TEST frame of a run (R113). -/
inductive UFrame where
  | msg (m : Msg)
  | test (run : Byte) (index : Nat)
  deriving DecidableEq, Repr

/-- A bulk frame (R114). -/
structure BulkFrame where
  path : PathNo
  msgs : List Msg
  deriving DecidableEq, Repr

/-- What is on the line: a frame, or one fragment of a bulk frame, abandoned or not (R123). -/
inductive LineItem where
  | probeBack (dst : Site) (id : Byte) (t2 : Stamp)
  | probe (path : PathNo) (id : Byte)
  | msg (m : Msg)
  | test (run : Byte) (index : Nat)
  | frag (frame : BulkFrame) (id : Byte) (index : Nat) (abandoned : Bool)
  deriving DecidableEq, Repr

/-- The bulk context (7.1). -/
structure BulkContext where
  frame : BulkFrame
  id : Byte
  next : Nat
  /-- The cumulative suspension, in ns. -/
  suspended : Nat
  /-- The suspension start, in ns, while the frame is suspended. -/
  since : Option Nat
  deriving DecidableEq, Repr

inductive TxState where
  | idle | urgent | bulk | holdoff
  deriving DecidableEq, Repr

/-- The eight counters of a transmitter (R128). -/
structure TxCounters where
  urgentSent : BitVec 32
  bulkSent : BitVec 32
  fragments : BitVec 32
  suspensions : BitVec 32
  ceilingHolds : BitVec 32
  aborts : BitVec 32
  displaced : BitVec 32
  dropped : BitVec 32
  deriving DecidableEq, Repr

/-- A PROBE-BACK in the probe-back slot. -/
structure ProbeBack where
  dst : Site
  id : Byte
  t2 : Stamp
  deriving DecidableEq, Repr

/-- A port transmitter (7.1). Its link flag is `State.link`. -/
structure Transmitter where
  urgent : List UFrame
  bulk : List BulkFrame
  probe : Option (PathNo × Byte)
  probeBack : Option ProbeBack
  /-- The frame or fragment in transmission, with its start stamp. -/
  line : Option (LineItem × Stamp)
  ctx : Option BulkContext
  state : TxState
  /-- The expiry of the holdoff timer in ns of the oscillator, absent while it is stopped. -/
  holdoffDue : Option Nat
  /-- The bulk id counter. -/
  bulkId : Byte
  holdoffCode : Nat
  ceilingCode : Nat
  counters : TxCounters
  deriving DecidableEq, Repr

/-! ## Frame Receivers -/

/-- A reassembly context (8.4). -/
structure Reassembly where
  site : Site
  path : PathNo
  id : Byte
  next : Nat
  arrival : Stamp
  /-- The message lengths, as many as the message count. -/
  lengths : List Nat
  /-- The copy mask. -/
  copies : Byte
  bytes : List Byte
  deriving DecidableEq, Repr

/-- The ten port counters (R138). -/
structure RxCounters where
  good : BitVec 32
  crc : BitVec 32
  length : BitVec 32
  misdirected : BitVec 32
  unknownPath : BitVec 32
  breaks : BitVec 32
  bulk : BitVec 32
  answered : BitVec 32
  testDiscards : BitVec 32
  aborted : BitVec 32
  deriving DecidableEq, Repr

structure Receiver where
  ctx : Option Reassembly
  /-- The frame in reception: its arrival stamp and the traceable flag taken with it (R129). -/
  reception : Option (Stamp × Bool)
  counters : RxCounters
  deriving DecidableEq, Repr

/-! ## Capture Unit -/

/-- The outcome codes of a destination (12.6). -/
inductive DestOutcome where
  | sent | sentDual | rerouted | noRoute | queueFull | badLength | flushed | noEpoch | reset
  deriving DecidableEq, Repr

/-- The condition of a primary copy (R105). -/
inductive PrimaryState where
  | queued | sent | flushed
  deriving DecidableEq, Repr

/-- The condition of a dual copy (R105). -/
inductive DualState where
  | absent | queued | sent | dropped
  deriving DecidableEq, Repr

/-- One destination entry of a message record. -/
inductive Dest where
  /-- The site is no destination. -/
  | none
  /-- Its selection has not been answered yet. -/
  | waiting
  /-- Queued: its primary, whether it was ever re-selected, its dual copy. -/
  | live (primary : PrimaryState) (reselected : Bool) (dual : DualState)
  | settled (o : DestOutcome)
  deriving DecidableEq, Repr

inductive RecordPhase where
  | assembling | routing | closing
  deriving DecidableEq, Repr

/-- A message record (R99). -/
structure Record where
  /-- The number of the slot's header line. -/
  hdr : Nat
  ring : RingNo
  slot : Nat
  /-- The posting lap code. -/
  code : Byte
  capture : Stamp
  len : Nat
  mask : Byte
  cls : MsgClass
  force : Bool
  /-- Bytes 32 to 63 of the header line, those the posting write enabled present; the bytes a capture read returned
  in their place (R103); empty once the payload is dropped (R104). -/
  head : WLine
  /-- The body line's payload bytes, once those the length needs are all known. -/
  body : Option (List Byte)
  phase : RecordPhase
  dests : Vector Dest 8
  /-- Whether the egress time has been written. -/
  egress : Bool
  deriving DecidableEq, Repr

/-- A slot of a slot table (R96). -/
structure Slot where
  inFlight : Bool
  /-- The expected lap: true for lap 1. -/
  lap : Bool
  deriving DecidableEq, Repr

/-- A ring's slot table: the page range it was built for, and its slots. -/
structure RingTable where
  base : Nat
  limit : Nat
  slots : List Slot
  deriving DecidableEq, Repr

/-- A catch-buffer entry: a body line; a byte is present exactly when it is marked valid (R101). -/
structure CatchEntry where
  line : Nat
  bytes : WLine
  deriving DecidableEq, Repr

structure CaptureUnit where
  rings : Vector (Option RingTable) 4
  /-- The catch buffer, oldest first. -/
  buffer : List CatchEntry
  /-- The open message records, in order of opening. -/
  records : List Record
  deriving DecidableEq, Repr

/-! ## Memory Interposer -/

/-- The kind of an address window. A disabled entry may hold a code that names no kind (R82), and so may an
enabled one: no check of a command refuses it (R174, assumption 16). -/
inductive WinKind where
  | transmit | receive | control | descriptor | guard
  | other (code : Byte)
  deriving DecidableEq, Repr

/-- An entry of the window table (5.3). -/
structure Window where
  enabled : Bool
  /-- The first and the last page of the range. -/
  base : Nat
  limit : Nat
  kind : WinKind
  /-- The ring number or the site. -/
  param : Nat
  readBlock : Bool
  writeBlock : Bool
  deriving DecidableEq, Repr

/-- Why a block placed an own request: where its answer goes. -/
inductive OwnTag where
  | egress (hdr : Nat)
  | outcomes (hdr : Nat)
  | done (hdr : Nat)
  | captureHead (hdr : Nat)
  | captureBody (hdr : Nat)
  | receiveSlot
  | ringStart
  | completion (block : BlockNo)
  | refresh (block : BlockNo)
  | causeLine
  | summary
  | hopsLow
  | hopsHigh
  | timeLine
  | listRead
  /-- A write of the start-up order. -/
  | startUp
  /-- The start-up order's read of a block's tag. -/
  | tagRead (block : BlockNo)
  deriving DecidableEq, Repr

/-- One line request of the part: a read, or a write. -/
structure OwnReq where
  /-- A number of the model's own, by which a hold names the write. -/
  id : Nat
  line : Nat
  /-- The bytes written; absent for a read. -/
  write : Option WLine
  tag : OwnTag
  deriving DecidableEq, Repr

/-- What happens as a group joins the own-request queue. -/
inductive JoinAct where
  | nothing
  /-- COMMAND_DONE is raised (R161). -/
  | commandDone
  /-- Ready is set (R171). -/
  | ready
  deriving DecidableEq, Repr

/-- A group of own requests that joins whole (R90). -/
structure Group where
  reqs : List OwnReq
  act : JoinAct
  deriving DecidableEq, Repr

/-- A request outstanding at message memory. -/
inductive Outstanding where
  /-- A forwarded one: the number of lines read (0 for a write), and whether its first line is the cause
  line of the control page, read with a re-raise record open. -/
  | forwarded (lines : Nat) (cause : Bool)
  | own (r : OwnReq)
  deriving DecidableEq, Repr

/-- One memory request made from the head: its lines and the window entry it was classified in. -/
structure Part where
  req : MemReq
  /-- The window entry as it stood when the request became the head; absent when plain. -/
  win : Option Window
  deriving DecidableEq, Repr

/-- The head of the requester port, once classified and to be forwarded. -/
structure Head where
  /-- The parts still to be granted, in order. -/
  parts : List Part
  /-- The own writes the first part is held on. -/
  held : List Nat
  deriving DecidableEq, Repr

/-- What is known of the answer to one part of a processor request. -/
inductive PartAnswer where
  | waiting
  | known (ok : Bool) (data : List (List Byte))
  deriving DecidableEq, Repr

/-- Why a processor request violates a guard (R84). -/
inductive ViolationReason where
  | blocked | statusWrite | descriptorWrite
  deriving DecidableEq, Repr

/-- The first guard violation. -/
structure Violation where
  line : Nat
  write : Bool
  entry : EntryNo
  reason : ViolationReason
  deriving DecidableEq, Repr

structure Interposer where
  windows : Vector Window 16
  /-- Requests taken and not yet the head, oldest first. -/
  queue : List MemReq
  head : Option Head
  /-- The answers still owed to the processor, in request order, each by its parts. -/
  answers : List (List PartAnswer)
  /-- The own-request queue, oldest first. -/
  own : List OwnReq
  /-- The groups waiting for room, in the order they began to wait. -/
  waiting : List Group
  /-- The requests outstanding at message memory, in the order issued. -/
  outstanding : List Outstanding
  /-- Whether the forwarded stream had the last grant. -/
  lastForwarded : Bool
  violation : Option Violation
  violations : BitVec 32
  /-- The next number an own request takes. -/
  nextId : Nat
  deriving DecidableEq, Repr

/-! ## Receive Merge Unit -/

/-- A position of a receive window (9.1). -/
inductive Position where
  | accepted (arrival : Stamp) (path : PathNo)
  | hole (since : Nat)
  | lost
  deriving DecidableEq, Repr

/-- A receive window. Its top is absent exactly when the current epoch is 0. -/
structure RxWindow where
  epoch : BitVec 32
  prevEpoch : BitVec 32
  top : Option (BitVec 32)
  /-- The position map from top downward: entry v is the number top − v, absent where the number holds no
  position. At most 256 entries. -/
  map : List (Option Position)
  /-- The expiry of the hole timer, absent while it is stopped. -/
  holeDue : Option Nat
  /-- The hole timeout, in µs. -/
  timeout : Nat
  deriving DecidableEq, Repr

inductive GapCause where
  | overflow | timeout | mixed
  deriving DecidableEq, Repr

/-- A GAP or RESTART record (9.3). -/
inductive RingRecord where
  | gap (cls : MsgClass) (epoch first : BitVec 32) (count : Nat) (cause : GapCause) (overflow : Bool)
  | restart (cls : MsgClass) (epoch prev first : BitVec 32) (overflow : Bool)
  deriving DecidableEq, Repr

/-- A receive ring (9.2). -/
structure RxRing where
  /-- The first line of the window, and N; absent while no enabled RECEIVE window names the site. -/
  place : Option (Nat × Nat)
  producer : Nat
  /-- The lap: true for lap 1. -/
  lap : Bool
  consumer : Nat
  /-- The pending list, oldest first. -/
  pending : List RingRecord
  deriving DecidableEq, Repr

/-- What the RMU keeps for one site. -/
structure RxSite where
  urgent : RxWindow
  bulk : RxWindow
  ring : RxRing
  deriving DecidableEq, Repr

/-! ## Command Unit -/

/-- The states of a command block's record (10.2). -/
inductive BlockState where
  | idle | pending | executing | saving | closing
  deriving DecidableEq, Repr

/-- The error codes (12.6), 0 with DONE. -/
inductive ErrorCode where
  | none | badCommand | badParam | badIssue | notOff | memoryError | busyState | storeFail
  deriving DecidableEq, Repr

/-- The record of a command block (10.2). -/
structure Block where
  state : BlockState
  lastTag : Byte
  overrun : Bool
  /-- The copy of the 64 bytes that issued the command. -/
  copy : List Byte
  /-- The error and the remaining count of the completion a CLOSING block has formed. -/
  error : ErrorCode
  remaining : Nat
  /-- Noted aborted by a station reset (R167). -/
  aborted : Bool
  deriving DecidableEq, Repr

/-- The loopback context (R139). -/
structure Loopback where
  port : PortNo
  /-- The next index to send and the next index expected back. -/
  nextSend : Nat
  expected : Nat
  sent : Nat
  returned : Nat
  mismatched : Nat
  crcErrors : Nat
  /-- Frame 0's egress stamp and its return's arrival stamp. -/
  egress0 : Option Stamp
  arrival0 : Option Stamp
  /-- The expiry of the 10 ms timer. -/
  due : Nat
  deriving DecidableEq, Repr

/-- What a command that is still being carried out waits on (R159). -/
inductive Exec where
  /-- SET_PORT's list: the next line to read, and the bytes read so far. -/
  | portList (block : BlockNo) (line : Nat) (bytes : List Byte)
  /-- SET_HOPS' list: the next line to read, the bytes read and not yet applied, the records left. -/
  | hopList (block : BlockNo) (line : Nat) (bytes : List Byte) (left : Nat)
  | loopback (block : BlockNo) (l : Loopback)
  | reset (block : BlockNo)
  deriving DecidableEq, Repr

/-- The stages of a save (R173). -/
inductive SaveStage where
  | erase | program | header
  deriving DecidableEq, Repr

structure Save where
  block : BlockNo
  /-- The image being written. -/
  image : List Byte
  stage : SaveStage
  /-- The expiry of the 60 ms timer. -/
  due : Nat
  deriving DecidableEq, Repr

structure CommandUnit where
  blocks : Vector Block 8
  /-- The pending list, oldest first. -/
  pending : List BlockNo
  exec : Option Exec
  /-- The cause set and the enable set: bit n is cause n. -/
  causes : BitVec 9
  enables : BitVec 9
  /-- The open re-raise records, oldest read first (R164). -/
  reRaise : List (BitVec 9)
  /-- The cause set after each change not yet written to the cause line. Empty between events. -/
  changes : List (BitVec 9)
  /-- Whether lines 2, 3 and 4 are stale (R166). -/
  staleSummary : Bool
  staleLow : Bool
  staleHigh : Bool
  /-- Whether the status area of this start-up has been written, so that changes form writes. -/
  statusOn : Bool
  /-- The loopback run number. -/
  runNo : Byte
  save : Option Save
  deriving DecidableEq, Repr

/-! ## Start-up -/

/-- How far the part has started. -/
inductive Phase where
  /-- The reset input is asserted. -/
  | inReset
  /-- The start-up order runs. -/
  | starting
  | ready
  /-- A station reset waits for the own-request queue to drain. -/
  | resetting
  deriving DecidableEq, Repr

inductive ImageResult where
  | accepted | noFlash | badSignature | badLength | badCrc
  deriving DecidableEq, Repr

/-- The state of a block type in the start-up status (R170). -/
inductive TypeState where
  | absent | applied | badLength | duplicate
  deriving DecidableEq, Repr

/-- The start-up status (R170). -/
structure StartStatus where
  /-- STATION_RESET, or POWER_ON. -/
  stationReset : Bool
  straps : Nat
  result : ImageResult
  blocks : Nat
  foreign : Bool
  badType : Option Nat
  states : Vector TypeState 8
  refused : Vector Nat 8
  deriving DecidableEq, Repr

structure StartUp where
  phase : Phase
  /-- The step of the start-up order being run, 3 to 8; 0 outside it. -/
  step : Nat
  /-- The own requests of the step not yet answered. -/
  left : Nat
  /-- The start-up count. -/
  count : BitVec 32
  status : StartStatus
  deriving DecidableEq, Repr

/-! ## What the part puts out -/

/-- What the part did at its pins during the last step. -/
inductive OutEvent where
  /-- A response at the requester port: OK or ERROR, and the lines read. -/
  | response (ok : Bool) (data : List (List Byte))
  /-- A request issued at the memory port. -/
  | memory (r : MemReq)
  /-- The bytes of a frame or fragment started on a path port. -/
  | frame (port : PortNo) (bytes : List Byte)
  /-- The frame or fragment on a path port is ended so that it fails its check. -/
  | abort (port : PortNo)
  /-- A run of bytes of the image area is erased. -/
  | flashErase (offset length : Nat)
  | flashProgram (offset : Nat) (bytes : List Byte)
  deriving DecidableEq, Repr

/-- The state of the part. -/
structure State where
  /-- The commands that wait, first in, first out: the model's own. -/
  pending : List Instr
  /-- What the last step put out at the pins: the model's own. -/
  out : List OutEvent
  /-- How many free values have been taken: the model's own. -/
  freeCount : Nat
  startUp : StartUp
  /-- The own site. -/
  ownSite : Site
  /-- The interval clock, in µs (R2). -/
  clock : BitVec 64
  /-- The nanoseconds of the oscillator since the interval clock last advanced, 0 to 999. -/
  subMicro : Nat
  /-- The link indications of the terminals: inputs. -/
  linkInput : Vector Bool 6
  /-- The link flags (R45, R112). -/
  link : Vector Bool 6
  tu : TimeUnit
  hops : Vector HopRec 96
  ports : Vector PortRec 6
  paths : Vector PathRec 16
  rs : RouteSelector
  tx : Vector Transmitter 6
  rx : Vector Receiver 6
  cu : CaptureUnit
  mi : Interposer
  rmu : Vector RxSite 8
  cmd : CommandUnit
  deriving DecidableEq, Repr

/-! ## Values after power-on reset -/

def TimeUnit.reset : TimeUnit where
  station := 0
  frac := 0
  state := .unset
  integral := 0
  adj := 0
  goodRun := 0
  lastPulse := none
  missingDue := none
  annSeconds := 0
  annValid := false
  prevSeconds := none
  holdoverStart := none
  holdoverDue := none
  limit := 30
  lastError := 0
  steps := 0

def HopRec.reset : HopRec where
  place := none
  fade := -650
  down := -800
  hyst := 30
  debounce := 2
  state := .unknown
  count := 0
  last := none
  minLevel := 0
  maxLevel := 0
  extremes := false
  step := 0
  lastReport := none
  reportDue := none

/-- The default step-rate table (R33). -/
def defaultRates : Vector Nat 7 := #v[1560, 3125, 6250, 9375, 12500, 15625, 18750]

def PortRec.reset : PortRec where
  kind := .radio
  chain := []
  rates := defaultRates
  fibreRate := 125000
  timeoutMs := 50

def PathCounters.zero : PathCounters := ⟨0, 0, 0, 0, 0, 0, 0, 0, 0⟩

def PathRec.reset : PathRec where
  configured := false
  port := 0
  site := 0
  drop := 0
  normal := 1000
  fast := 100
  silence := 12
  shift := 3
  outlier := 50000
  fadeUnit := 8000
  state := .off
  seeded := false
  est := 0
  rttEst := 0
  method := none
  run := 0
  outstanding := []
  nextId := 0
  probeDue := none
  silenceDue := none
  fading := 0
  rate := 0
  lag := none
  counters := PathCounters.zero

def RouteRec.reset : RouteRec where
  cands := []
  dual := .off
  hyst := 2000
  current := none
  live := false
  nextUrgent := 0
  nextBulk := 0
  counters := ⟨0, 0, 0, 0, 0, 0, 0⟩

def RouteSelector.reset : RouteSelector where
  routes := Vector.replicate 8 RouteRec.reset
  epoch := 0
  placement := 0
  batches := []

def Transmitter.reset : Transmitter where
  urgent := []
  bulk := []
  probe := none
  probeBack := none
  line := none
  ctx := none
  state := .idle
  holdoffDue := none
  bulkId := 0
  holdoffCode := 4
  ceilingCode := 1
  counters := ⟨0, 0, 0, 0, 0, 0, 0, 0⟩

def Receiver.reset : Receiver where
  ctx := none
  reception := none
  counters := ⟨0, 0, 0, 0, 0, 0, 0, 0, 0, 0⟩

def CaptureUnit.reset : CaptureUnit where
  rings := Vector.replicate 4 none
  buffer := []
  records := []

def Window.reset : Window where
  enabled := false
  base := 0
  limit := 0
  kind := .guard
  param := 0
  readBlock := false
  writeBlock := false

/-- The window table with entries 14 and 15 at a strap page (R81, R168). -/
def windowsAt (page : Nat) : Vector Window 16 :=
  ((Vector.replicate 16 Window.reset).set 14
      { Window.reset with enabled := true, base := page, limit := page, kind := .control }).set 15
      { Window.reset with enabled := true, base := page + 1, limit := page + 1, kind := .descriptor }

def Interposer.reset : Interposer where
  windows := windowsAt 0x10
  queue := []
  head := none
  answers := []
  own := []
  waiting := []
  outstanding := []
  lastForwarded := false
  violation := none
  violations := 0
  nextId := 0

def RxWindow.reset : RxWindow where
  epoch := 0
  prevEpoch := 0
  top := none
  map := []
  holeDue := none
  timeout := 5000

def RxRing.reset : RxRing where
  place := none
  producer := 0
  lap := true
  consumer := 0
  pending := []

def RxSite.reset : RxSite := ⟨RxWindow.reset, RxWindow.reset, RxRing.reset⟩

/-- A block's record at a reset (R157). The last tag seen is read from memory in the start-up order: until then it is 0,
and so are the copy, the error and the remaining count, by the model's choice (assumption 13). -/
def Block.reset : Block where
  state := .idle
  lastTag := 0
  overrun := false
  copy := []
  error := .none
  remaining := 0
  aborted := false

def CommandUnit.reset : CommandUnit where
  blocks := Vector.replicate 8 Block.reset
  pending := []
  exec := none
  causes := 0
  enables := 0
  reRaise := []
  changes := []
  staleSummary := false
  staleLow := false
  staleHigh := false
  statusOn := false
  runNo := 0
  save := none

def StartStatus.reset : StartStatus where
  stationReset := false
  straps := 0
  result := .noFlash
  blocks := 0
  foreign := false
  badType := none
  states := Vector.replicate 8 .absent
  refused := Vector.replicate 8 0

def StartUp.reset : StartUp where
  phase := .inReset
  step := 0
  left := 0
  count := 0
  status := StartStatus.reset

/-- The part right after power-on reset, the reset input still asserted: the start-up order has not begun. -/
def State.reset : State where
  pending := []
  out := []
  freeCount := 0
  startUp := StartUp.reset
  ownSite := 0
  clock := 0
  subMicro := 0
  linkInput := Vector.replicate 6 false
  link := Vector.replicate 6 false
  tu := TimeUnit.reset
  hops := Vector.replicate 96 HopRec.reset
  ports := Vector.replicate 6 PortRec.reset
  paths := Vector.replicate 16 PathRec.reset
  rs := RouteSelector.reset
  tx := Vector.replicate 6 Transmitter.reset
  rx := Vector.replicate 6 Receiver.reset
  cu := CaptureUnit.reset
  mi := Interposer.reset
  rmu := Vector.replicate 8 RxSite.reset
  cmd := CommandUnit.reset

end Sys2Proof.Machine
end

