-- ==== Sys2Proof/Machine/Ops.lean ====
section
/-! DEFINITION. The shared operations every block uses: bytes and lines, reading and updating one object, and
the own-request queue. -/

namespace Sys2Proof.Machine

/-! ## Bytes -/

/-- The number whose little-endian bytes these are (Conventions). -/
def leNat : List Byte → Nat
  | [] => 0
  | b :: bs => b.toNat + 256 * leNat bs

/-- The `n` little-endian bytes of a number, reduced to that width. -/
def leBytes : Nat → Nat → List Byte
  | 0, _ => []
  | n + 1, v => BitVec.ofNat 8 v :: leBytes n (v / 256)

/-- The `n` little-endian bytes of a signed number, two's complement. -/
def leSigned (n : Nat) (v : Int) : List Byte := leBytes n (v % (256 ^ n : Nat)).toNat

/-- The field of `n` bytes at an offset. -/
def field (bs : List Byte) (off n : Nat) : Nat := leNat ((bs.drop off).take n)

/-- The byte at an offset, as a number. -/
def byteAt (bs : List Byte) (off : Nat) : Nat := (bs.getD off 0).toNat

/-- A two's-complement field of `n` bytes. -/
def signedField (bs : List Byte) (off n : Nat) : Int :=
  let v := field bs off n
  if v < 256 ^ n / 2 then (v : Int) else (v : Int) - (256 ^ n : Nat)

/-- A byte with value 1 or 0. -/
def flagByte (b : Bool) : Byte := if b then 1 else 0

/-- A list with a run of entries put over those at an offset. -/
def putAt {α : Type} (l : List α) (off : Nat) (xs : List α) : List α :=
  l.take off ++ xs ++ l.drop (off + xs.length)

/-- `n` zero bytes with fields laid over them (R174: bytes no layout names are 0). -/
def layout (n : Nat) (fields : List (Nat × List Byte)) : List Byte :=
  fields.foldl (fun l f => putAt l f.1 f.2) (List.replicate n 0)

/-- A whole line written: every byte enabled. -/
def wholeLine (fields : List (Nat × List Byte)) : WLine := (layout 64 fields).map some

/-- A line written in part: only the named bytes enabled. -/
def partLine (fields : List (Nat × List Byte)) : WLine :=
  fields.foldl (fun l f => putAt l f.1 (f.2.map some)) (List.replicate 64 none)

/-- Whether byte `i` of a written line is enabled. -/
def enabledAt (w : WLine) (i : Nat) : Bool := (w.getD i none).isSome

/-- The bytes from `off`, `n` of them, when all are enabled. -/
def enabledRun (w : WLine) (off n : Nat) : Option (List Byte) :=
  let run := (w.drop off).take n
  if run.length = n then run.mapM id else none

/-- Whether a written line enables nothing. -/
def noneEnabled (w : WLine) : Bool := w.all (fun b => b.isNone)

/-- Whether a written line enables all of its 64 bytes. -/
def allEnabled (w : WLine) : Bool := w.length == 64 && w.all (fun b => b.isSome)

/-- The bytes of a written line, 0 where not enabled. -/
def lineBytes (w : WLine) : List Byte := w.map (fun b => b.getD 0)

/-- A value clamped into a range. -/
def clampNat (lo hi v : Nat) : Nat := min hi (max lo v)

/-- A signed value clamped into a range. -/
def clampInt (lo hi v : Int) : Int := min hi (max lo v)

/-- The integer ceiling of a quotient (Conventions). -/
def ceilDiv (a b : Nat) : Nat := (a + b - 1) / b

/-! ## One object of a bank -/

/-- A bank with one object changed. -/
def updAt {α : Type} {n : Nat} (v : Vector α n) (i : Fin n) (f : α → α) : Vector α n := v.set i (f v[i])

namespace State

def updPath (s : State) (p : PathNo) (f : PathRec → PathRec) : State := { s with paths := updAt s.paths p f }
def updHop (s : State) (h : HopNo) (f : HopRec → HopRec) : State := { s with hops := updAt s.hops h f }
def updPort (s : State) (k : PortNo) (f : PortRec → PortRec) : State := { s with ports := updAt s.ports k f }
def updTx (s : State) (k : PortNo) (f : Transmitter → Transmitter) : State := { s with tx := updAt s.tx k f }
def updRx (s : State) (k : PortNo) (f : Receiver → Receiver) : State := { s with rx := updAt s.rx k f }
def updRoute (s : State) (r : Site) (f : RouteRec → RouteRec) : State :=
  { s with rs := { s.rs with routes := updAt s.rs.routes r f } }
def updSite (s : State) (r : Site) (f : RxSite → RxSite) : State := { s with rmu := updAt s.rmu r f }
def updBlock (s : State) (b : BlockNo) (f : Block → Block) : State :=
  { s with cmd := { s.cmd with blocks := updAt s.cmd.blocks b f } }

/-- The interval clock's reading, in µs (R2). -/
def now (s : State) : Nat := s.clock.toNat

/-- The oscillator's reading, in ns: the time base of the holdoff timer and the suspensions (R120). -/
def nowNs (s : State) : Nat := s.clock.toNat * 1000 + s.subMicro

/-- Station time is traceable in LOCKED and in HOLDOVER (R15). -/
def traceable (s : State) : Bool := s.tu.state == .locked || s.tu.state == .holdover

/-- Whether ready is set (R171). -/
def isReady (s : State) : Bool := s.startUp.phase == .ready

/-- The remote sites in ascending order. -/
def remotes (s : State) : List Site := (List.finRange 8).filter (· ≠ s.ownSite)

/-- What the part puts out, appended. -/
def emit (s : State) (e : OutEvent) : State := { s with out := s.out ++ [e] }

/-- The first line of the control page (R80: entry 14). -/
def controlLine (s : State) : Nat := s.mi.windows[14].base * 64

/-- The line of a command block (5.3: lines 6 to 13 of the control page). -/
def blockLine (s : State) (b : BlockNo) : Nat := s.controlLine + 6 + b.val

end State

/-- Every path in path-number order. -/
def allPaths : List PathNo := List.finRange 16

/-- Every port in number order. -/
def allPorts : List PortNo := List.finRange 6

/-- A fold of a state change over a list of objects, in order. -/
def overAll {α : Type} (l : List α) (f : α → State → State) (s : State) : State :=
  l.foldl (fun s a => f a s) s

/-- A timer is due once the interval clock has reached its expiry (R2). -/
def dueBy (now : Nat) (t : Option Nat) : Bool := t.any (fun e => decide (e ≤ now))

/-! ## Code values (12.6) -/

def PathState.code : PathState → Byte
  | .off => 0 | .down => 1 | .probing => 2 | .up => 3

def HopState.code : HopState → Byte
  | .unknown => 0 | .clear => 1 | .fading => 2 | .down => 3

def TimeState.code : TimeState → Byte
  | .unset => 0 | .acquiring => 1 | .locked => 2 | .holdover => 3 | .free => 4

def TxState.code : TxState → Byte
  | .idle => 0 | .urgent => 1 | .bulk => 2 | .holdoff => 3

def PortKind.code : PortKind → Byte
  | .radio => 1 | .fibre => 2

def DualMode.code : DualMode → Byte
  | .off => 0 | .onFade => 1 | .always => 2

def DestOutcome.code : DestOutcome → Byte
  | .sent => 1 | .sentDual => 2 | .rerouted => 3 | .noRoute => 4 | .queueFull => 5 | .badLength => 6
  | .flushed => 7 | .noEpoch => 8 | .reset => 9

def ErrorCode.code : ErrorCode → Byte
  | .none => 0 | .badCommand => 1 | .badParam => 2 | .badIssue => 3 | .notOff => 4 | .memoryError => 5
  | .busyState => 6 | .storeFail => 7

/-- The status byte of a completion: DONE with no error, ERROR otherwise (R161). -/
def ErrorCode.status : ErrorCode → Byte
  | .none => 2
  | _ => 3

def GapCause.code : GapCause → Byte
  | .overflow => 1 | .timeout => 2 | .mixed => 3

/-- The class byte of a receive slot (12.2). -/
def clsByte : MsgClass → Byte
  | .urgent => 0 | .bulk => 1

def WinKind.code : WinKind → Byte
  | .transmit => 1 | .receive => 2 | .control => 3 | .descriptor => 4 | .guard => 5 | .other c => c

/-- The kind a code names. -/
def WinKind.ofCode (c : Byte) : WinKind :=
  if c = 1 then .transmit else if c = 2 then .receive else if c = 3 then .control
  else if c = 4 then .descriptor else if c = 5 then .guard else .other c

def ViolationReason.code : ViolationReason → Byte
  | .blocked => 1 | .statusWrite => 2 | .descriptorWrite => 3

def ImageResult.code : ImageResult → Byte
  | .accepted => 0 | .noFlash => 1 | .badSignature => 2 | .badLength => 3 | .badCrc => 4

def TypeState.code : TypeState → Byte
  | .absent => 0 | .applied => 1 | .badLength => 3 | .duplicate => 4

/-- A lap code: 0xA1 for lap 1, 0xA0 for lap 0 (R96, 9.2). -/
def lapCode (lap : Bool) : Byte := if lap then 0xA1 else 0xA0

end Sys2Proof.Machine
end

