-- ==== Sys2Proof/Machine/Flags.lean ====
section
/-! DEFINITION. The cause set, the enable set and the interrupt output, the content of the status lines, and
the own-request queue through which they are written. -/

namespace Sys2Proof.Machine

/-- The nine causes (10.6). -/
inductive Cause where
  | pathChange | hopChange | routeChange | gap | slotFault | guard | commandDone | timeChange | ringOverrun
  deriving DecidableEq, Repr

/-- The number of a cause (12.6). -/
def Cause.code : Cause → Nat
  | .pathChange => 0 | .hopChange => 1 | .routeChange => 2 | .gap => 3 | .slotFault => 4 | .guard => 5
  | .commandDone => 6 | .timeChange => 7 | .ringOverrun => 8

/-- The set holding one cause. -/
def Cause.bit (c : Cause) : BitVec 9 := 1#9 <<< c.code

/-- The interrupt output is asserted exactly when the cause set and the enable set share a cause (R165). -/
def State.interrupt (s : State) : Bool := s.cmd.causes &&& s.cmd.enables != 0

/-- The cause set takes a value; a change of it is noted for the cause line (R163). -/
def CommandUnit.setCauses (c : CommandUnit) (v : BitVec 9) : CommandUnit :=
  if v = c.causes then c else { c with causes := v, changes := c.changes ++ [v] }

/-- A block raises a cause (R163); every open re-raise record takes it (R164). -/
def raise (c : Cause) (s : State) : State :=
  { s with cmd := { s.cmd with reRaise := s.cmd.reRaise.map (· ||| c.bit) }.setCauses (s.cmd.causes ||| c.bit) }

/-- The mirror lines (R166). -/
inductive Mirror where
  | summary | low | high
  deriving DecidableEq, Repr

/-- A change handed to CMD marks the mirror line of its byte as stale (R166). -/
def markStale (m : Mirror) (s : State) : State :=
  match m with
  | .summary => { s with cmd := { s.cmd with staleSummary := true } }
  | .low => { s with cmd := { s.cmd with staleLow := true } }
  | .high => { s with cmd := { s.cmd with staleHigh := true } }

/-! ## Status-line content (12.3) -/

/-- Line 0: byte n is 1 while cause n is set. -/
def causeLineOf (causes : BitVec 9) : WLine :=
  wholeLine [(0, (List.finRange 9).map (fun i => flagByte (causes.getLsbD i.val)))]

/-- Line 1: station time, the time state and the traceable flag. -/
def timeLineOf (s : State) : WLine :=
  wholeLine [(0, leBytes 8 s.tu.station.toNat), (8, [s.tu.state.code]), (9, [flagByte s.traceable])]

/-- Line 2, the summary mirror. -/
def summaryLineOf (s : State) : WLine :=
  wholeLine [(0, allPaths.map (fun p => s.paths[p].state.code)),
    (16, s.remotes.map (fun r => flagByte s.rs.routes[r].live)),
    (23, [s.tu.state.code]),
    (24, allPorts.map (fun k => flagByte s.link[k])),
    (32, leBytes 4 s.startUp.count.toNat),
    (36, [flagByte s.isReady])]

/-- Line 3, the hop mirror's hops 0 to 63. -/
def lowHopLineOf (s : State) : WLine :=
  wholeLine [(0, ((List.finRange 96).take 64).map (fun h => s.hops[h].state.code))]

/-- Line 4, the hop mirror's hops 64 to 95. -/
def highHopLineOf (s : State) : WLine :=
  wholeLine [(0, ((List.finRange 96).drop 64).map (fun h => s.hops[h].state.code))]

/-! ## The own-request queue (R90) -/

/-- The queue's capacity, in line requests. -/
def ownCapacity : Nat := 32

/-- A mirror write takes its content as it joins (R166). -/
def fillMirror (s : State) (r : OwnReq) : OwnReq :=
  match r.tag with
  | .summary => { r with write := some (summaryLineOf s) }
  | .hopsLow => { r with write := some (lowHopLineOf s) }
  | .hopsHigh => { r with write := some (highHopLineOf s) }
  | _ => r

/-- Whether a group holds a write of the tag. -/
def Group.has (g : Group) (t : OwnTag) : Bool := g.reqs.any (fun r => r.tag == t)

/-- The mirror lines whose writes join are no longer stale (R166). -/
def CommandUnit.freshen (c : CommandUnit) (g : Group) : CommandUnit :=
  { c with
    staleSummary := c.staleSummary && !g.has .summary
    staleLow := c.staleLow && !g.has .hopsLow
    staleHigh := c.staleHigh && !g.has .hopsHigh }

/-- Whether the queue has room for all of a group's lines. -/
def State.hasRoom (s : State) (g : Group) : Bool := decide (s.mi.own.length + g.reqs.length ≤ ownCapacity)

/-- A group's lines join the queue. -/
def pushGroup (g : Group) (s : State) : State :=
  { s with
    mi := { s.mi with own := s.mi.own ++ g.reqs.map (fillMirror s) }
    cmd := s.cmd.freshen g }

/-- Ready is set: each link flag takes its terminal's indication as it then stands (R171, R45). -/
def setReady (s : State) : State :=
  { s with startUp := { s.startUp with phase := .ready, step := 0, left := 0 }, link := s.linkInput }

/-- A group joins the queue whole. COMMAND_DONE is raised as a completion write joins (R161), and ready is set
as the line 2 write of step 8 joins, which carries it (R171); what ready brings to other blocks is `becomeReady`'s. -/
def joinGroup (g : Group) (s : State) : State :=
  match g.act with
  | .commandDone => raise .commandDone (pushGroup g s)
  | .ready => pushGroup g (setReady s)
  | .nothing => pushGroup g s

/-- The requests of a group, numbered. -/
def numbered (first : Nat) : List (Nat × Option WLine × OwnTag) → List OwnReq
  | [] => []
  | r :: rs => ⟨first, r.1, r.2.1, r.2.2⟩ :: numbered (first + 1) rs

/-- A block forms a group of own requests: it joins at once when no group waits and the queue has room, and
waits otherwise (R90). -/
def formGroup (reqs : List (Nat × Option WLine × OwnTag)) (act : JoinAct) (s : State) : State :=
  let g : Group := ⟨numbered s.mi.nextId reqs, act⟩
  let s := { s with mi := { s.mi with nextId := s.mi.nextId + reqs.length } }
  if s.mi.waiting.isEmpty && s.hasRoom g then joinGroup g s
  else { s with mi := { s.mi with waiting := s.mi.waiting ++ [g] } }

/-- The own writes pending: formed and not yet answered (R90), each by its number and line. -/
def State.pendingWrites (s : State) : List (Nat × Nat) :=
  let outs := s.mi.outstanding.filterMap (fun o => match o with | .own r => some r | _ => none)
  ((outs ++ s.mi.own ++ s.mi.waiting.flatMap (·.reqs)).filter (fun r => r.write.isSome)).map
    (fun r => (r.id, r.line))

/-! ## Writing what changed -/

/-- The stale mirror lines that have no write of their own waiting (R166). R166 gives no order among them: that they go
in line order is the model's choice (assumption 14). -/
def staleWrites (s : State) : List (Nat × Option WLine × OwnTag) :=
  let waits := fun t => s.mi.waiting.any (fun g => g.has t)
  (if s.cmd.staleSummary && !waits .summary then [(s.controlLine + 2, some [], .summary)] else []) ++
  (if s.cmd.staleLow && !waits .hopsLow then [(s.controlLine + 3, some [], .hopsLow)] else []) ++
  (if s.cmd.staleHigh && !waits .hopsHigh then [(s.controlLine + 4, some [], .hopsHigh)] else [])

/-- The cause-line writes owed, one for each change of the cause set, in order (R163). -/
def changeWrites (s : State) : List (Nat × Option WLine × OwnTag) :=
  s.cmd.changes.map (fun v => (s.controlLine, some (causeLineOf v), .causeLine))

/-- CMD writes what an event changed: the stale mirror lines, then the cause line, as one group (R163, R166).
Until this start-up's status area is written nothing is formed: that write carries it all (R171). -/
def flush (s : State) : State :=
  if s.cmd.statusOn then
    let reqs := staleWrites s ++ changeWrites s
    let s := { s with cmd := { s.cmd with changes := [] } }
    if reqs.isEmpty then s else formGroup reqs .nothing s
  else { s with cmd := { s.cmd with changes := [], staleSummary := false, staleLow := false, staleHigh := false } }

/-- Every meaning: the outputs of the last step are gone, the event is applied, and CMD writes what it
changed. -/
def run (event : State → State) (s : State) : Host.Outcome State Fault Refusal :=
  .next (flush (event { s with out := [] }))

end Sys2Proof.Machine
end

