-- ==== Sys2Proof/Machine/Capture.lean ====
section
/-! DEFINITION. The Capture Unit: slot tables, postings, the catch buffer, message records, the reports that
settle them and the writes that close a slot. -/

namespace Sys2Proof.Machine

/-! ## Records -/

namespace State

/-- The open record of a header line, if any. -/
def recordOf (s : State) (hdr : Nat) : Option Record := s.cu.records.find? (fun r => r.hdr == hdr)

/-- The open record of a header line changed. -/
def updRecord (s : State) (hdr : Nat) (f : Record → Record) : State :=
  { s with cu := { s.cu with records := s.cu.records.map (fun r => if r.hdr = hdr then f r else r) } }

end State

/-- Whether a destination is settled, or is none. -/
def Dest.isSettled : Dest → Bool
  | .none => true
  | .settled _ => true
  | _ => false

/-- A destination whose primary is sent or flushed and whose dual copy is absent, sent or dropped is settled,
with the first outcome of R75 that applies. -/
def Dest.judge : Dest → Dest
  | .live p re d =>
    if p = .queued ∨ d = .queued then .live p re d
    else if p = .flushed then .settled .flushed
    else if re then .settled .rerouted
    else if d = .sent then .settled .sentDual
    else .settled .sent
  | d => d

/-- The outcome byte of a destination (R107): 0 for a site that is none. -/
def Dest.byte : Dest → Byte
  | .settled o => o.code
  | _ => 0

/-- Whether every destination of the record is settled. -/
def Record.allSettled (r : Record) : Bool := r.dests.toList.all Dest.isSettled

/-- A record goes to CLOSING: the outcomes and the done byte are written, as one group (R107). -/
def closeRecord (r : Record) (s : State) : State :=
  formGroup
    [(r.hdr, some (partLine [(24, r.dests.toList.map Dest.byte)]), .outcomes r.hdr),
     (r.hdr, some (partLine [(5, [r.code])]), .done r.hdr)] .nothing
    (s.updRecord r.hdr (fun _ => { r with phase := .closing }))

/-- When the last destination of a record is settled, the record goes to CLOSING (R105). -/
def closeIfSettled (hdr : Nat) (s : State) : State :=
  match s.recordOf hdr with
  | some r => if r.phase ≠ .closing ∧ r.allSettled then closeRecord r s else s
  | none => s

/-- A report changes one destination entry; a report about a record that is CLOSING or closed is ignored
(R105). -/
def reportDest (hdr : Nat) (site : Site) (f : Dest → Dest) (s : State) : State :=
  match s.recordOf hdr with
  | some r =>
    if r.phase = .closing then s
    else closeIfSettled hdr
      (s.updRecord hdr (fun r => { r with dests := updAt r.dests site (fun d => (f d).judge) }))
  | none => s

/-- Copy sent (R105). -/
def Dest.copySent (dual : Bool) : Dest → Dest
  | .live p re d => if dual then .live p re .sent else .live .sent re d
  | d => d

/-- Dual copy dropped (R105). -/
def Dest.dualDropped : Dest → Dest
  | .live p re _ => .live p re .dropped
  | d => d

/-- A rerouted notice (R105). -/
def Dest.rerouted : Dest → Dest
  | .live p _ d => .live p true d
  | d => d

/-- A FLUSHED notice (R105). -/
def Dest.flushed : Dest → Dest
  | .live _ re d => .live .flushed re d
  | d => d

/-- A port reports a copy sent. -/
def reportSent (m : Msg) (s : State) : State := reportDest m.slot m.site (Dest.copySent m.dual) s

/-- A port reports a dual copy dropped. -/
def reportDropped (m : Msg) (s : State) : State := reportDest m.slot m.site Dest.dualDropped s

/-- The first transmission-start report of a record writes its egress time (R106). -/
def reportStart (m : Msg) (stamp : Stamp) (s : State) : State :=
  match s.recordOf m.slot with
  | some r =>
    if r.phase = .closing ∨ r.egress then s
    else formGroup [(r.hdr, some (partLine [(16, leBytes 8 stamp.toNat)]), .egress r.hdr)] .nothing
      (s.updRecord r.hdr (fun r => { r with egress := true }))
  | none => s

/-! ## The catch buffer (R101) -/

/-- The buffer's capacity, in lines. -/
def catchCapacity : Nat := 32

/-- The bytes of an entry with those a write enables put over them. -/
def mergeBytes (old new : WLine) : WLine :=
  (List.range 64).map (fun i => (new.getD i none).or (old.getD i none))

/-- A processor write to a body line is copied into the buffer (R101). -/
def catchBytes (line : Nat) (w : WLine) (buffer : List CatchEntry) : List CatchEntry :=
  match buffer.find? (fun e => e.line == line) with
  | some e => buffer.filter (fun e => e.line != line) ++ [⟨line, mergeBytes e.bytes w⟩]
  | none =>
    (if buffer.length < catchCapacity then buffer else buffer.drop 1) ++ [⟨line, mergeBytes [] w⟩]

/-! ## Postings -/

/-- The slots of a ring of a page range, 32 to a page (R95). -/
def slotCount (base limit : Nat) : Nat := 32 * (limit + 1 - base)

/-- The header line of a slot. -/
def RingTable.header (t : RingTable) (slot : Nat) : Nat := t.base * 64 + 2 * slot

/-- A ring's table built afresh: a slot whose header line has a record still open starts IN_FLIGHT (R96). -/
def buildTable (base limit : Nat) (s : State) : RingTable where
  base := base
  limit := limit
  slots := (List.range (slotCount base limit)).map
    (fun j => ⟨(s.recordOf (base * 64 + 2 * j)).isSome, true⟩)

/-- The slot whose header line a record names becomes FREE, in whichever table holds it (R107). -/
def RingTable.free (hdr : Nat) (t : RingTable) : RingTable :=
  if t.base * 64 ≤ hdr then
    let j := (hdr - t.base * 64) / 2
    { t with slots := t.slots.modify j (fun x => if t.header j = hdr then { x with inFlight := false } else x) }
  else t

/-- Memory has answered a done write: the record closes and its slot becomes FREE (R107). -/
def recordClosed (hdr : Nat) (s : State) : State :=
  { s with cu := { s.cu with
      records := s.cu.records.filter (fun r => r.hdr != hdr)
      rings := s.cu.rings.map (fun t => t.map (RingTable.free hdr)) } }

/-- The destinations of a posting and what is settled at once (R100): BAD_LENGTH for a length of 0 or above
96, and for the own site as the sole destination. -/
def destsOf (ownSite : Site) (mask : Byte) (len : Nat) : Vector Dest 8 :=
  let named := fun (i : Site) => mask.getLsbD i.val
  let others := (List.finRange 8).any (fun i => i ≠ ownSite && named i)
  let bad := len = 0 ∨ 96 < len
  (Vector.finRange 8).map (fun i =>
    if i = ownSite then (if named i && !others then .settled .badLength else .none)
    else if named i then (if bad then .settled .badLength else .waiting)
    else .none)

/-- The header payload bytes the length needs, when the record holds them all (R102). -/
def Record.headPayload (r : Record) : Option (List Byte) := enabledRun r.head 0 (min r.len 32)

/-- The body payload bytes a length needs, when a catch entry holds them all (R102). -/
def bodyPayload (e : Option CatchEntry) (len : Nat) : Option (List Byte) :=
  if len ≤ 32 then some [] else e.bind (fun e => enabledRun e.bytes 0 (len - 32))

/-- The payload is known once both its parts are (R102, R103). -/
def Record.payload (r : Record) : Option (List Byte) :=
  match r.headPayload, r.body with
  | some h, some b => some (h ++ b)
  | _, _ => none

/-- A record gathers its payload at the posting: ROUTING at once on the fast path, otherwise reads of the
lines it lacks (R102, R103). -/
def gather (r : Record) (s : State) : State :=
  let entry := s.cu.buffer.find? (fun e => e.line == r.hdr + 1)
  let s := { s with cu := { s.cu with buffer := s.cu.buffer.filter (fun e => e.line != r.hdr + 1) } }
  let r := { r with body := bodyPayload entry r.len }
  let s := s.updRecord r.hdr (fun _ => if r.payload.isSome then { r with phase := .routing } else r)
  if r.payload.isSome then s
  else formGroup
    ((if r.headPayload.isNone then [(r.hdr, none, .captureHead r.hdr)] else []) ++
     (if r.body.isNone then [(r.hdr + 1, none, .captureBody r.hdr)] else [])) .nothing s

/-- CU takes a posting (R97, R99, R100): the slot's lap toggles, it is IN_FLIGHT, and a record is opened. -/
def takePosting (ring : RingNo) (slot : Nat) (hdr : Nat) (w : WLine) (s : State) : State :=
  let bs := lineBytes w
  let r : Record :=
    { hdr, ring, slot, code := bs.getD 4 0, capture := s.tu.station, len := byteAt bs 0, mask := bs.getD 1 0,
      cls := if byteAt bs 2 = 1 then .bulk else .urgent, force := byteAt bs 3 ≠ 0, head := (w.drop 32).take 32, body := none,
      phase := .assembling, dests := destsOf s.ownSite (bs.getD 1 0) (byteAt bs 0), egress := false }
  let s := { s with cu := { s.cu with
      records := s.cu.records ++ [r]
      rings := updAt s.cu.rings ring (fun t => t.map (fun t =>
        { t with slots := t.slots.modify slot (fun x => ⟨true, !x.lap⟩) })) } }
  if r.allSettled then closeRecord r s else gather r s

/-- A posting write as it goes to memory: the capture time, and zeros in the done byte, the egress time and
the outcomes (R85). -/
def postedLine (capture : Stamp) (w : WLine) : WLine :=
  putAt (putAt (putAt w 5 [some 0]) 8 ((leBytes 8 capture.toNat).map some)) 16 (List.replicate 16 (some 0))

/-- The verdict of the posting test of R85 on a header line. -/
inductive PostingVerdict where
  | plain | fault | post
  deriving DecidableEq, Repr

/-- The posting test (R85, R98). -/
def postingTest (slot : Slot) (w : WLine) : PostingVerdict :=
  if w.getD 4 none = some (lapCode slot.lap) then
    if slot.inFlight then .fault
    else if (enabledRun w 0 4).isNone then .fault
    else .post
  else .plain

/-- A processor write to one header line of an enabled ring, at its grant (R85, R97, R98): the state after,
and the line as it goes to memory. -/
def headerWrite (ring : RingNo) (t : RingTable) (j : Nat) (w : WLine) (s : State) : State × WLine :=
  match (s.cu.rings[ring].getD t).slots[j]? with
  | some slot =>
    match postingTest slot w with
    | .plain => (s, w)
    | .fault => (raise .slotFault s, w)
    | .post => (takePosting ring j (t.header j) w s, postedLine s.tu.station w)
  | none => (s, w)

/-- A processor write to one body line of an enabled ring, at its grant (R101). -/
def bodyWrite (line : Nat) (w : WLine) (s : State) : State :=
  { s with cu := { s.cu with buffer := catchBytes line w s.cu.buffer } }

/-- A processor write to lines of a TRANSMIT window, at its grant: slot by slot in address order, a slot's
body copy before its header's posting test (R85). -/
def transmitWrite (ring : RingNo) (t : RingTable) : Nat → List WLine → State → State × List WLine
  | _, [], s => (s, [])
  | line, [w], s =>
    let i := line - t.base * 64
    if i % 2 = 0 then
      let a := headerWrite ring t (i / 2) w s
      (a.1, [a.2])
    else (bodyWrite line w s, [w])
  | line, w :: w' :: ws, s =>
    let i := line - t.base * 64
    if i % 2 = 0 then
      let a := headerWrite ring t (i / 2) w (bodyWrite (line + 1) w' s)
      let r := transmitWrite ring t (line + 2) ws a.1
      (r.1, a.2 :: w' :: r.2)
    else
      let r := transmitWrite ring t (line + 1) (w' :: ws) (bodyWrite line w s)
      (r.1, w :: r.2)
  termination_by structural _ ls => ls

/-! ## Capture reads (R103) -/

/-- A capture read has been answered: OK takes the line's bytes as read, and the record is ROUTING once all those
the length needs are known; ERROR settles every unsettled destination FLUSHED and raises SLOT_FAULT. An answer that finds
the record closed already, by the other read's ERROR or by a station reset, does nothing: R103 raises SLOT_FAULT for the
group (assumption 32). -/
def captureAnswer (hdr : Nat) (isBody : Bool) (ok : Bool) (data : List Byte) (s : State) : State :=
  match s.recordOf hdr with
  | some r =>
    if r.phase ≠ .assembling then s
    else if ok then
      s.updRecord hdr (fun r =>
        let r := if isBody then { r with body := some (data.take (r.len - 32)) }
                 else { r with head := ((data.drop 32).take 32).map some }
        if r.payload.isSome then { r with phase := .routing } else r)
    else
      closeIfSettled hdr (raise .slotFault
        (s.updRecord hdr (fun r =>
          { r with dests := r.dests.map (fun d => if d.isSettled then d else .settled .flushed) })))
  | none => s

/-! ## Window changes and resets -/

/-- A ring's window is disabled: its table goes, and the catch entries of its range (R109). -/
def dropRing (ring : RingNo) (w : Window) (s : State) : State :=
  { s with cu := { s.cu with
      rings := updAt s.cu.rings ring (fun _ => none)
      buffer := s.cu.buffer.filter (fun e => decide (e.line / 64 < w.base ∨ w.limit < e.line / 64)) } }

/-- A ring's window is enabled: its table is built afresh (R96, R109). -/
def startRing (ring : RingNo) (w : Window) (s : State) : State :=
  { s with cu := { s.cu with rings := updAt s.cu.rings ring (fun _ => some (buildTable w.base w.limit s)) } }

/-- At a station reset every open record not yet CLOSING is closed, RESET for each destination not settled
(R110). The records close in the order of their opening, which the manual leaves open (assumption 12). -/
def captureReset (s : State) : State :=
  overAll (s.cu.records.filter (fun r => decide (r.phase ≠ .closing)))
    (fun r s => closeRecord
      { r with dests := r.dests.map (fun d => if d.isSettled then d else .settled .reset) } s) s

end Sys2Proof.Machine
end

