-- ==== Sys2Proof/Machine/Crc.lean ====
section
/-! DEFINITION. The frame check of 8.1, which also covers announcements and the configuration image. -/

namespace Sys2Proof.Machine

/-- One bit of the check, least significant bit first: generator 0x04C11DB7, reflected. -/
def crcBit (c : BitVec 32) : BitVec 32 :=
  if c.getLsbD 0 then (c >>> 1) ^^^ 0xEDB88320#32 else c >>> 1

/-- One byte of the check. -/
def crcByte (c : BitVec 32) (b : Byte) : BitVec 32 :=
  crcBit (crcBit (crcBit (crcBit (crcBit (crcBit (crcBit (crcBit (c ^^^ b.setWidth 32))))))))

/-- The 32-bit check: a starting value of all ones, a final inversion of all bits. -/
def crc32 (bs : List Byte) : BitVec 32 := ~~~ (bs.foldl crcByte 0xFFFFFFFF#32)

/-- The check's four bytes as they are stored. -/
def crcBytes (bs : List Byte) : List Byte := leBytes 4 (crc32 bs).toNat

end Sys2Proof.Machine
end

