-- ==== Sys2Proof/Machine/Wire.lean ====
section
/-! DEFINITION. The frames of the path ports: their layouts, how the part forms them and how a receiver checks
them (8.1, 8.2, 12.4). -/

namespace Sys2Proof.Machine

/-- One entry of a HOPSTAT frame. -/
structure HopEntry where
  position : Nat
  level : Int
  step : Nat
  lost : Bool
  deriving DecidableEq, Repr

/-- The fields of a BULK-FRAG frame. -/
structure Fragment where
  id : Byte
  index : Nat
  last : Bool
  count : Nat
  copies : Byte
  /-- The eight message lengths. -/
  lengths : List Nat
  payload : List Byte
  deriving DecidableEq, Repr

/-- What a frame carries beyond its source and destination. -/
inductive FrameBody where
  | msg (copy : Byte) (epoch seq : BitVec 32) (capture : Stamp) (payload : List Byte)
  | bulk (f : Fragment)
  | probe (id : Byte)
  | probeBack (id : Byte) (traceable : Bool) (t2 t3 : Stamp)
  | hopstat (entries : List HopEntry)
  | test (run : Byte) (index : Nat) (pattern : List Byte)
  deriving DecidableEq, Repr

/-- A frame of one of the six kinds. -/
structure Frame where
  src : Byte
  dst : Byte
  body : FrameBody
  deriving DecidableEq, Repr

/-- The end delimiter (12.4). -/
def delimiter : List Byte := [0xD5, 0x3C, 0xC3, 0xD5]

/-- The code of a frame's kind (12.6). -/
def FrameBody.kind : FrameBody → Byte
  | .msg .. => 1 | .bulk _ => 2 | .probe _ => 3 | .probeBack .. => 4 | .hopstat _ => 5 | .test .. => 6

/-- The kind's own header fields, by their offsets. -/
def FrameBody.fields : FrameBody → List (Nat × List Byte)
  | .msg copy epoch seq capture payload =>
    [(3, [copy]), (4, leBytes 1 payload.length), (8, leBytes 4 epoch.toNat), (12, leBytes 4 seq.toNat),
     (16, leBytes 8 capture.toNat)]
  | .bulk f =>
    [(3, [f.id]), (4, leBytes 1 (f.index % 16 + if f.last then 128 else 0)),
     (5, leBytes 1 f.payload.length), (6, leBytes 1 f.count), (7, [f.copies]),
     (8, f.lengths.map (BitVec.ofNat 8))]
  | .probe _ => []
  | .probeBack .. => []
  | .hopstat entries => [(3, leBytes 1 entries.length)]
  | .test run index _ => [(3, [run]), (4, leBytes 1 index)]

/-- The four bytes of a HOPSTAT entry. -/
def HopEntry.bytes (e : HopEntry) : List Byte :=
  leBytes 1 e.position ++ leSigned 2 e.level ++ leBytes 1 (e.step % 128 + if e.lost then 128 else 0)

/-- The body of a frame. -/
def FrameBody.bytes : FrameBody → List Byte
  | .msg _ _ _ _ payload => payload
  | .bulk f => f.payload
  | .probe id => layout 8 [(0, [id])]
  | .probeBack id traceable t2 t3 =>
    layout 24 [(0, [id]), (1, [flagByte traceable]), (8, leBytes 8 t2.toNat), (16, leBytes 8 t3.toNat)]
  | .hopstat entries => entries.flatMap HopEntry.bytes
  | .test _ _ pattern => pattern

/-- The header of a frame: 24 bytes. -/
def Frame.header (f : Frame) : List Byte :=
  layout 24 ([(0, [f.body.kind]), (1, [f.src]), (2, [f.dst])] ++ f.body.fields)

/-- A frame on the wire: header, body, CRC over both, delimiter. -/
def Frame.encode (f : Frame) : List Byte :=
  let hb := f.header ++ f.body.bytes
  hb ++ crcBytes hb ++ delimiter

/-- The entries of a HOPSTAT body. -/
def hopEntries : Nat → List Byte → List HopEntry
  | 0, _ => []
  | n + 1, bs =>
    ⟨byteAt bs 0, signedField bs 1 2, byteAt bs 3 % 128, decide (128 ≤ byteAt bs 3)⟩ :: hopEntries n (bs.drop 4)

/-- What a receiver makes of a frame's bytes (R130). -/
inductive Judged where
  | lengthError
  | crcError
  | misdirected
  | good (f : Frame)
  deriving DecidableEq, Repr

/-- The kind's fields, when the frame's length agrees with its kind (R130, checks 3 and 4). -/
def readBody (bs : List Byte) : Option FrameBody :=
  let body := (bs.drop 24).take (bs.length - 32)
  let kind := byteAt bs 0
  if kind = 1 then
    if 1 ≤ byteAt bs 4 ∧ byteAt bs 4 ≤ 96 ∧ byteAt bs 4 + 32 = bs.length then
      some (.msg (bs.getD 3 0) (BitVec.ofNat 32 (field bs 8 4)) (BitVec.ofNat 32 (field bs 12 4))
        (BitVec.ofNat 64 (field bs 16 8)) body)
    else none
  else if kind = 2 then
    if 1 ≤ byteAt bs 5 ∧ byteAt bs 5 ≤ 64 ∧ byteAt bs 5 + 32 = bs.length then
      some (.bulk { id := bs.getD 3 0, index := byteAt bs 4 % 16, last := decide (128 ≤ byteAt bs 4),
                    count := byteAt bs 6, copies := bs.getD 7 0,
                    lengths := ((bs.drop 8).take 8).map BitVec.toNat, payload := body })
    else none
  else if kind = 3 then
    if bs.length = 40 then some (.probe (body.getD 0 0)) else none
  else if kind = 4 then
    if bs.length = 56 then
      some (.probeBack (body.getD 0 0) (decide (byteAt body 1 ≠ 0)) (BitVec.ofNat 64 (field body 8 8))
        (BitVec.ofNat 64 (field body 16 8)))
    else none
  else if kind = 5 then
    if byteAt bs 3 ≤ 24 ∧ 32 + 4 * byteAt bs 3 = bs.length then some (.hopstat (hopEntries (byteAt bs 3) body))
    else none
  else if kind = 6 then
    if bs.length = 96 then some (.test (bs.getD 3 0) (byteAt bs 4) body) else none
  else none

/-- Whether the source and destination of a kind are examined (R130, check 5). -/
def FrameBody.directed : FrameBody → Bool
  | .hopstat _ => false
  | .test .. => false
  | _ => true

/-- The five checks of R130, in order. -/
def judge (ownSite : Site) (bs : List Byte) : Judged :=
  let n := bs.length
  if n < 32 ∨ 128 < n ∨ bs.drop (n - 4) ≠ delimiter then .lengthError
  else if (bs.drop (n - 8)).take 4 ≠ crcBytes (bs.take (n - 8)) then .crcError
  else match readBody bs with
    | none => .lengthError
    | some body =>
      let f : Frame := ⟨bs.getD 1 0, bs.getD 2 0, body⟩
      if body.directed ∧ (f.dst.toNat ≠ ownSite.val ∨ 7 < f.src.toNat ∨ f.src.toNat = ownSite.val) then
        .misdirected
      else .good f

/-- The pattern of a TEST frame: byte j is the run number plus 16 × i plus j, modulo 256 (R139). -/
def testPattern (run : Byte) (index : Nat) : List Byte :=
  (List.range 64).map (fun j => run + BitVec.ofNat 8 (16 * index + j))

end Sys2Proof.Machine
end

