-- ==== Sys2Proof/Machine/Port.lean ====
section
/-! DEFINITION. The Port Transmitters: queues, the choice of what to send, fragments, holdoff, starts and
completions, and the removal of a path's or a port's frames. -/

namespace Sys2Proof.Machine

/-! ## Wire lengths (R127) -/

/-- The wire length of an urgent-queue frame. -/
def UFrame.wire : UFrame → Nat
  | .msg m => m.payload.length + 32
  | .test .. => 96

/-- T, the byte total of a bulk frame (R114). -/
def BulkFrame.total (f : BulkFrame) : Nat := (f.msgs.map (fun m => 8 + m.payload.length)).sum

/-- The number of fragments of a bulk frame (R117). -/
def BulkFrame.count (f : BulkFrame) : Nat := ceilDiv f.total 64

/-- The wire length of a bulk frame. -/
def BulkFrame.wire (f : BulkFrame) : Nat := f.total + 32 * f.count

/-- The payload length of fragment `i`. -/
def BulkFrame.fragLength (f : BulkFrame) (i : Nat) : Nat := min 64 (f.total - 64 * i)

/-- The wire lengths of the fragments from `i` on. -/
def BulkFrame.rest (f : BulkFrame) (i : Nat) : Nat := (f.total - 64 * i) + 32 * (f.count - i)

/-- The wire length of what is on the line. -/
def LineItem.wire : LineItem → Nat
  | .probeBack .. => 56
  | .probe .. => 40
  | .msg m => m.payload.length + 32
  | .test .. => 96
  | .frag f _ i _ => f.fragLength i + 32

/-! ## What a frame carries on the wire -/

/-- The bulk frame's run of bytes: each message's sub-header, then its payload (R117, 12.4). -/
def BulkFrame.bytes (f : BulkFrame) : List Byte :=
  f.msgs.flatMap (fun m => leBytes 4 m.epoch.toNat ++ leBytes 4 m.seq.toNat ++ m.payload)

/-- The copy mask: bit i is the copy index of message i (8.1). -/
def BulkFrame.copyMask (f : BulkFrame) : Byte :=
  BitVec.ofNat 8 ((f.msgs.zipIdx.map (fun m => if m.1.dual then 2 ^ m.2 else 0)).sum)

/-- The site a bulk frame goes to: its path's, which all its messages share (R114). -/
def BulkFrame.site (f : BulkFrame) : Site := (f.msgs.head?.map (·.site)).getD 0

/-- A site as a header byte. -/
def siteByte (r : Site) : Byte := BitVec.ofNat 8 r.val

/-- The frame an item puts on the wire. -/
def LineItem.frame (s : State) : LineItem → Frame
  | .probeBack dst id t2 => ⟨siteByte s.ownSite, siteByte dst, .probeBack id s.traceable t2 s.tu.station⟩
  | .probe p id => ⟨siteByte s.ownSite, siteByte s.paths[p].site, .probe id⟩
  | .msg m => ⟨siteByte s.ownSite, siteByte m.site, .msg (flagByte m.dual) m.epoch m.seq m.capture m.payload⟩
  | .test run i => ⟨siteByte s.ownSite, siteByte s.ownSite, .test run i (testPattern run i)⟩
  | .frag f id i _ =>
    ⟨siteByte s.ownSite, siteByte f.site, .bulk
      { id := id, index := i, last := decide (i + 1 = f.count), count := f.msgs.length, copies := f.copyMask,
        lengths := f.msgs.map (·.payload.length), payload := (f.bytes.drop (64 * i)).take 64 }⟩

/-! ## Starts (R121) -/

/-- The messages of a bulk frame whose sub-header begins in a fragment, in message order (R121). -/
def BulkFrame.beginning (f : BulkFrame) (i : Nat) : List Msg :=
  let starts := f.msgs.foldl (fun (a : Nat × List (Nat × Msg)) m =>
    (a.1 + 8 + m.payload.length, a.2 ++ [(a.1, m)])) (0, [])
  (starts.2.filter (fun x => x.1 / 64 == i)).map (·.2)

/-- A probe's start enters it in its path's outstanding list (R49). -/
def PathRec.probeStarted (id : Byte) (t1 : Stamp) (now : Nat) (p : PathRec) : PathRec :=
  let full := decide (4 ≤ p.outstanding.length)
  { p with
    outstanding := (if full then p.outstanding.drop 1 else p.outstanding) ++ [⟨id, t1, now⟩]
    counters := { p.counters with
      sent := p.counters.sent + 1
      lost := if full then p.counters.lost + 1 else p.counters.lost } }

/-- A TEST frame's start is reported to the loopback test, which keeps frame 0's egress stamp (R121, R140). -/
def testStarted (port : PortNo) (run : Byte) (i : Nat) (s : State) : State :=
  match s.cmd.exec with
  | some (.loopback b l) =>
    if l.port = port ∧ run = s.cmd.runNo ∧ i = 0 then
      { s with cmd := { s.cmd with exec := some (.loopback b { l with egress0 := some s.tu.station }) } }
    else s
  | _ => s

/-- A frame or fragment starts on the line: its egress stamp is taken and its start is reported (R121). -/
def startItem (k : PortNo) (item : LineItem) (s : State) : State :=
  let stamp := s.tu.station
  let s := (s.emit (.frame k (item.frame s).encode)).updTx k (fun t =>
    { t with
      line := some (item, stamp)
      holdoffDue := none
      state := match item with | .frag .. => .bulk | _ => .urgent
      counters := match item with
        | .frag .. => { t.counters with fragments := t.counters.fragments + 1 }
        | _ => t.counters })
  match item with
  | .probeBack .. => s
  | .probe p id => s.updPath p (PathRec.probeStarted id stamp s.now)
  | .msg m => reportStart m stamp s
  | .test run i => testStarted k run i s
  | .frag f _ i _ => overAll (f.beginning i) (fun m => reportStart m stamp) s

/-- The next fragment of the bulk context's frame starts (R117). -/
def startFragment (k : PortNo) (c : BulkContext) (s : State) : State :=
  startItem k (.frag c.frame c.id c.next false)
    (s.updTx k (fun t => { t with ctx := some { c with next := c.next + 1, since := none } }))

/-- A suspended bulk frame resumes: its cumulative suspension grows by the time it was set aside (R119). -/
def resume (k : PortNo) (c : BulkContext) (s : State) : State :=
  startFragment k { c with suspended := c.suspended + (s.nowNs - c.since.getD s.nowNs) } s

/-- Fragment 0 of the frame at the head of the bulk queue starts, and the frame moves into the bulk context
(R117). -/
def startBulk (k : PortNo) (f : BulkFrame) (s : State) : State :=
  let id := s.tx[k].bulkId
  startFragment k ⟨f, id, 0, 0, none⟩
    (s.updTx k (fun t => { t with bulk := t.bulk.drop 1, bulkId := t.bulkId + 1 }))

/-- The line of a port is free while its link flag is up and nothing is in transmission (R116). -/
def lineFree (k : PortNo) (s : State) : Bool := s.link[k] && s.tx[k].line.isNone

/-- With nothing else to send, a suspended frame resumes at once under code 0, and otherwise the holdoff
runs (R119). -/
def holdoffOrResume (k : PortNo) (c : BulkContext) (s : State) : State :=
  if s.tx[k].holdoffCode = 0 then resume k c s
  else if s.tx[k].state = .holdoff ∧ s.tx[k].holdoffDue.isSome then s
  else s.updTx k (fun t => { t with state := .holdoff, holdoffDue := some (s.nowNs + t.holdoffCode * 500) })

/-- The transmitter's choice when the line is free (R116, R119). -/
def lineChoice (k : PortNo) (s : State) : State :=
  if !lineFree k s then s
  else
    let t := s.tx[k]
    match t.probeBack, t.probe, t.urgent with
    | some b, _, _ => startItem k (.probeBack b.dst b.id b.t2) (s.updTx k (fun t => { t with probeBack := none }))
    | none, some (p, id), _ => startItem k (.probe p id) (s.updTx k (fun t => { t with probe := none }))
    | none, none, .msg m :: rest => startItem k (.msg m) (s.updTx k (fun t => { t with urgent := rest }))
    | none, none, .test r i :: rest => startItem k (.test r i) (s.updTx k (fun t => { t with urgent := rest }))
    | none, none, [] =>
      match t.ctx, t.bulk with
      | some c, _ => if c.since.isSome then holdoffOrResume k c s else startFragment k c s
      | none, f :: _ => startBulk k f s
      | none, [] => s.updTx k (fun t => { t with state := .idle, holdoffDue := none })

/-! ## Placing frames -/

/-- The urgent queue's capacity (R113) and the bulk queue's (R114). -/
def urgentCapacity : Nat := 32
def bulkCapacity : Nat := 16

/-- Whether a bulk frame of the path has room for a message of the payload length (R114). -/
def BulkFrame.takes (f : BulkFrame) (n : Nat) : Bool :=
  decide (f.msgs.length < 8 ∧ f.total + 8 + n ≤ 1024)

/-- The newest not-started bulk frame of a path. -/
def Transmitter.lastBulk (t : Transmitter) (p : PathNo) : Option BulkFrame :=
  t.bulk.reverse.find? (fun f => f.path == p)

/-- Whether a bulk message would join an existing bulk frame of the path (R67). -/
def Transmitter.joins (t : Transmitter) (p : PathNo) (n : Nat) : Bool :=
  (t.lastBulk p).any (fun f => f.takes n)

/-- A message appended to the newest bulk frame of its path; the list is newest first. -/
def joinNewest (m : Msg) : List BulkFrame → List BulkFrame
  | [] => []
  | f :: fs => if f.path = m.path then { f with msgs := f.msgs ++ [m] } :: fs else f :: joinNewest m fs

/-- A message is placed on its path's port (R69, R113, R114). -/
def Transmitter.place (m : Msg) (t : Transmitter) : Transmitter :=
  match m.cls with
  | .urgent => { t with urgent := t.urgent ++ [.msg m] }
  | .bulk =>
    if t.joins m.path m.payload.length then { t with bulk := (joinNewest m t.bulk.reverse).reverse }
    else { t with bulk := t.bulk ++ [⟨m.path, [m]⟩] }

/-- Whether the port has room for a message of the class (R69). -/
def Transmitter.roomFor (t : Transmitter) (p : PathNo) (cls : MsgClass) (n : Nat) : Bool :=
  match cls with
  | .urgent => decide (t.urgent.length < urgentCapacity)
  | .bulk => t.joins p n || decide (t.bulk.length < bulkCapacity)

/-- A PROBE-BACK is placed in the probe-back slot, replacing one that waits there unsent (R115). -/
def placeProbeBack (k : PortNo) (b : ProbeBack) (s : State) : State :=
  lineChoice k (s.updTx k (fun t => { t with probeBack := some b }))

/-- A path's probe that waits unsent in its port's probe slot is withdrawn (R41, R43, R115). -/
def withdrawProbe (p : PathNo) (s : State) : State :=
  s.updTx s.paths[p].port (fun t => if t.probe.any (fun x => x.1 == p) then { t with probe := none } else t)

/-! ## Displacement (R123, R125) -/

/-- Whether a message of the batch comes before another: by capture time, then by placement mark (R72). -/
def Msg.before (a b : Msg) : Bool :=
  decide (a.capture < b.capture ∨ (a.capture = b.capture ∧ a.mark ≤ b.mark))

/-- A message put into an ordered batch. -/
def insertMsg (m : Msg) : List Msg → List Msg
  | [] => [m]
  | x :: xs => if m.before x then m :: x :: xs else x :: insertMsg m xs

/-- Messages in the order of a batch. -/
def batchOrder (ms : List Msg) : List Msg := ms.foldr insertMsg []

/-- The messages of an urgent-queue frame. -/
def UFrame.msgs : UFrame → List Msg
  | .msg m => [m]
  | .test .. => []

/-- The frames of removed messages leave the port: dual copies are reported dropped, and the primaries go to
RS as one ordered batch, if there are any (R123). -/
def displace (k : PortNo) (removed : List Msg) (s : State) : State :=
  let dropped := removed.filter (·.dual)
  let primaries := removed.filter (fun m => !m.dual)
  let s := overAll dropped reportDropped (s.updTx k (fun t =>
    { t with counters := { t.counters with
        displaced := t.counters.displaced + BitVec.ofNat 32 primaries.length
        dropped := t.counters.dropped + BitVec.ofNat 32 dropped.length } }))
  if primaries.isEmpty then s
  else { s with rs := { s.rs with batches := s.rs.batches ++ [⟨k, batchOrder primaries⟩] } }

/-- Whether the fragment on the line is the last of the bulk context's frame. -/
def Transmitter.lastOnLine (t : Transmitter) : Bool :=
  match t.line with
  | some (.frag f _ i false, _) => decide (i + 1 = f.count)
  | _ => false

/-- What is on the line, its frame abandoned if it is a fragment (R123). -/
def abandonLine : Option (LineItem × Stamp) → Option (LineItem × Stamp)
  | some (.frag f id i _, t) => some (.frag f id i true, t)
  | x => x

/-- Whether a departure removes the bulk context's frame: it names the path, and its last fragment is not in
transmission (R123). -/
def Transmitter.losesContext (t : Transmitter) (p : PathNo) : Bool :=
  t.ctx.any (fun c => c.frame.path == p) && !t.lastOnLine

/-- A path's frames are removed from a transmitter (R123). -/
def Transmitter.without (p : PathNo) (t : Transmitter) : Transmitter :=
  let t' := { t with
    urgent := t.urgent.filter (fun f => f.msgs.all (fun m => m.path != p))
    bulk := t.bulk.filter (fun f => f.path != p) }
  if t.losesContext p then
    { t' with ctx := none, holdoffDue := none, line := abandonLine t.line,
              state := if t.state = .holdoff then .idle else t.state }
  else t'

/-- The messages a departure of a path removes, in the order held. -/
def Transmitter.messagesOf (p : PathNo) (t : Transmitter) : List Msg :=
  (t.urgent.flatMap UFrame.msgs).filter (fun m => m.path == p) ++
  (t.bulk.filter (fun f => f.path == p)).flatMap (·.msgs) ++
  (if t.losesContext p then (t.ctx.map (·.frame.msgs)).getD [] else [])

/-- A path's departure from UP: its frames are removed from its port, as one step (R123). -/
def departPath (p : PathNo) (s : State) : State :=
  let k := s.paths[p].port
  let removed := s.tx[k].messagesOf p
  lineChoice k (displace k removed (s.updTx k (Transmitter.without p)))

/-- The messages of what is on the line that a link loss returns or drops (R125). -/
def Transmitter.lineMessages (t : Transmitter) : List Msg :=
  match t.line with
  | some (.msg m, _) => [m]
  | _ => []

/-- A transmitter after its link is lost: nothing is held (R125). -/
def Transmitter.emptied (t : Transmitter) : Transmitter :=
  { t with urgent := [], bulk := [], probe := none, probeBack := none, line := none, ctx := none,
           state := .idle, holdoffDue := none }

/-- The link loss at the transmitter: the transmission is aborted, everything is removed, and the port's
messages are displaced (R125). The link flag is lost already. The removed copies are taken from the line, the urgent
queue, the bulk queue and the bulk context in turn, an order the manual leaves open for the dropped reports
(assumption 12). -/
def linkLostTx (k : PortNo) (s : State) : State :=
  let t := s.tx[k]
  let removed := t.lineMessages ++ t.urgent.flatMap UFrame.msgs ++ t.bulk.flatMap (·.msgs) ++
    (t.ctx.map (·.frame.msgs)).getD []
  let s := if t.line.isSome then s.emit (.abort k) else s
  displace k removed (s.updTx k (fun t =>
    { t.emptied with counters :=
        if t.line.isSome then { t.counters with aborts := t.counters.aborts + 1 } else t.counters }))

/-! ## Completions (R118, R122) -/

/-- Whether a control or urgent frame waits. -/
def Transmitter.waits (t : Transmitter) : Bool := t.probeBack.isSome || t.probe.isSome || !t.urgent.isEmpty

/-- The suspend ceiling in ns, absent for none (R120). -/
def ceilingNs (code : Nat) : Option Nat :=
  if code = 0 then some 128000 else if code = 1 then some 256000 else if code = 2 then some 512000 else none

/-- Whether the cumulative suspension has reached the ceiling. -/
def atCeiling (t : Transmitter) (c : BulkContext) : Bool :=
  (ceilingNs t.ceilingCode).any (fun x => decide (x ≤ c.suspended))

/-- The decision at a fragment boundary (R118). The line is free. -/
def fragmentBoundary (k : PortNo) (c : BulkContext) (s : State) : State :=
  let t := s.tx[k]
  if !t.waits then startFragment k c s
  else if atCeiling t c then
    startFragment k c (s.updTx k (fun t =>
      { t with counters := { t.counters with ceilingHolds := t.counters.ceilingHolds + 1 } }))
  else
    lineChoice k (s.updTx k (fun t =>
      { t with ctx := some { c with since := some s.nowNs }
               counters := { t.counters with suspensions := t.counters.suspensions + 1 } }))

/-- The line is free once what was on it has left. -/
def clearLine (k : PortNo) (s : State) : State := s.updTx k (fun t => { t with line := none })

/-- The completion of a bulk fragment (R118, R122, R123). -/
def fragmentDone (k : PortNo) (f : BulkFrame) (i : Nat) (abandoned : Bool) (s : State) : State :=
  let s := clearLine k s
  if abandoned then lineChoice k s
  else if i + 1 = f.count then
    lineChoice k (overAll f.msgs reportSent (s.updTx k (fun t =>
      { t with ctx := none, counters := { t.counters with bulkSent := t.counters.bulkSent + 1 } })))
  else match s.tx[k].ctx with
    | some c => fragmentBoundary k c s
    | none => lineChoice k s

/-! ## HOLDOFF_EXPIRY -/

/-- The holdoff timer expires: the suspended bulk frame resumes (R119). -/
def holdoffExpiry (k : PortNo) (s : State) : State :=
  if s.isReady && dueBy s.nowNs s.tx[k].holdoffDue && lineFree k s then
    match s.tx[k].ctx with
    | some c => resume k c s
    | none => s
  else s

/-- HOLDOFF_EXPIRY (R119): nothing unless the timer has reached its expiry. -/
def execHoldoffExpiry (k : PortNo) (s : State) : Host.Outcome State Fault Refusal := run (holdoffExpiry k) s

end Sys2Proof.Machine
end

