-- ==== Sys2Proof/Machine/Path.lean ====
section
/-! DEFINITION. The Path Monitor: path states, probing, silence, the delay estimator; and the LIVE or DARK
state of routes, which follows them. -/

namespace Sys2Proof.Machine

/-! ## Derived values (R39) -/

/-- A path's hops: the first drop entries of its port's chain. -/
def pathHops (s : State) (p : PathNo) : List HopNo := s.ports[s.paths[p].port].chain.take s.paths[p].drop

/-- A hop's rate: the entry of its port's table at its step, 0 at step 0 and when unassigned (R33). -/
def hopRate (s : State) (h : HopNo) : Nat :=
  match s.hops[h].place with
  | some (k, _) => if s.hops[h].step = 0 then 0 else (s.ports[k].rates.toList.getD (s.hops[h].step - 1) 0)
  | none => 0

/-- The least of a list of rates. -/
def leastRate : List Nat → Nat
  | [] => Config.rateOfNoHops
  | [r] => r
  | r :: rs => min r (leastRate rs)

/-- The fading count of a path (R39). -/
def fadingCount (s : State) (p : PathNo) : Nat :=
  if s.paths[p].configured then ((pathHops s p).filter (fun h => s.hops[h].state == .fading)).length else 0

/-- The path rate (R39). -/
def pathRate (s : State) (p : PathNo) : Nat :=
  if s.paths[p].configured then
    match s.ports[s.paths[p].port].kind with
    | .fibre => s.ports[s.paths[p].port].fibreRate
    | .radio => leastRate ((pathHops s p).map (hopRate s))
  else 0

/-- PM recomputes a path's fading count and path rate (R39). -/
def recompute (p : PathNo) (s : State) : State :=
  let f := fadingCount s p
  let r := pathRate s p
  s.updPath p (fun x => { x with fading := f, rate := r })

/-- Recomputation of every path on a port. -/
def recomputePort (k : PortNo) (s : State) : State :=
  overAll allPaths (fun p s => if s.paths[p].port = k then recompute p s else s) s

/-! ## Routes LIVE and DARK (R65) -/

/-- Whether a route is LIVE: some candidate is UP. -/
def routeLive (s : State) (r : RouteRec) : Bool := r.cands.any (fun p => s.paths[p].state == .up)

/-- RS evaluates a route's state; a change is handed to CMD, and a route going DARK loses its current path
(R65). -/
def evalRoute (site : Site) (s : State) : State :=
  let live := routeLive s s.rs.routes[site]
  if s.rs.routes[site].live = live then s
  else raise .routeChange (markStale .summary
    (s.updRoute site (fun r => { r with live := live, current := if live then r.current else none })))

/-- Every route that lists a path is evaluated, in ascending site order (R65). -/
def evalRoutesOf (p : PathNo) (s : State) : State :=
  overAll s.remotes (fun site s => if s.rs.routes[site].cands.contains p then evalRoute site s else s) s

/-! ## Path state changes (R44) -/

/-- A path's state change is handed to CMD and RS, and a departure from UP to the path's port transmitter
(R44). The path's record has changed already. -/
def notifyPath (wasUp : Bool) (p : PathNo) (s : State) : State :=
  let s := evalRoutesOf p (raise .pathChange (markStale .summary s))
  if wasUp then departPath p s else s

/-- Whether a path's link is up and every one of its hops CLEAR or FADING (R42). -/
def passable (s : State) (p : PathNo) : Bool :=
  s.link[s.paths[p].port] &&
  (pathHops s p).all (fun h => s.hops[h].state == .clear || s.hops[h].state == .fading)

/-- The interval in force (R47). -/
def PathRec.interval (p : PathRec) : Nat := if p.state = .up ∧ p.fading = 0 then p.normal else p.fast

/-- The silence limit, 2^N µs. -/
def PathRec.silenceLimit (p : PathRec) : Nat := 2 ^ p.silence

/-- The life of an outstanding probe (R50). -/
def PathRec.lifetime (p : PathRec) : Nat := min (4 * p.normal) 20000

/-- To place a probe: the next id is given, and a probe waiting unsent in the port's slot is replaced (R48). -/
def placeProbe (p : PathNo) (s : State) : State :=
  let id := s.paths[p].nextId
  let k := s.paths[p].port
  let s := s.updPath p (fun x => { x with nextId := x.nextId + 1 })
  let s := match s.tx[k].probe with
    | some (q, _) =>
      s.updPath q (fun x => { x with counters := { x.counters with replaced := x.counters.replaced + 1 } })
    | none => s
  lineChoice k (s.updTx k (fun t => { t with probe := some (p, id) }))

/-- A path enters PROBING (R42). -/
def enterProbing (p : PathNo) (s : State) : State :=
  let s := s.updPath p (fun x => { x with state := .probing, silenceDue := some (s.now + x.silenceLimit) })
  let s := placeProbe p s
  notifyPath false p (s.updPath p (fun x => { x with probeDue := some (s.now + x.fast) }))

/-- PM evaluates the condition of R42 for a path in DOWN. -/
def evalDown (p : PathNo) (s : State) : State :=
  if s.paths[p].state = .down ∧ passable s p then enterProbing p s else s

/-- What leaving PROBING or UP clears in a path's record (R41, R43). -/
def PathRec.quiet (st : PathState) (x : PathRec) : PathRec :=
  { x with state := st, seeded := false, run := 0, outstanding := [], probeDue := none, silenceDue := none }

/-- A PROBING or UP path goes DOWN, and R42's condition is evaluated (R43). -/
def pathDown (p : PathNo) (s : State) : State :=
  let wasUp := s.paths[p].state == .up
  if s.paths[p].state = .probing ∨ wasUp then
    evalDown p (notifyPath wasUp p (withdrawProbe p (s.updPath p (PathRec.quiet .down))))
  else s

/-- At a change of the interval in force, a remaining time greater than the new interval is cut to it (R47). -/
def cutProbeTimer (now : Nat) (x : PathRec) : PathRec :=
  match x.probeDue with
  | some due => if now + x.interval < due then { x with probeDue := some (now + x.interval) } else x
  | none => x

/-- What a hop notice does to one path whose hops include the hop (R35, R39, R42, R43, R47). -/
def pathNotice (hopState : HopState) (p : PathNo) (s : State) : State :=
  let before := s.paths[p].interval
  let s := recompute p s
  match s.paths[p].state with
  | .off => s
  | .down => evalDown p s
  | _ =>
    if hopState = .down then pathDown p s
    else if s.paths[p].interval = before then s
    else s.updPath p (cutProbeTimer s.now)

/-- FM's notice of a hop whose state or rate changed (R35). -/
def hopNotice (h : HopNo) (s : State) : State :=
  match s.hops[h].place with
  | some (k, pos) =>
    overAll allPaths (fun p s =>
      if s.paths[p].port = k ∧ s.paths[p].configured ∧ pos ≤ s.paths[p].drop then pathNotice s.hops[h].state p s
      else s) s
  | none => s

/-! ## Being heard (R46) -/

/-- Whether a path's silence timer runs: in PROBING and UP. -/
def PathRec.active (x : PathRec) : Bool := x.state == .probing || x.state == .up

/-- The silence timer restarted. -/
def PathRec.heard (now : Nat) (x : PathRec) : PathRec := { x with silenceDue := some (now + x.silenceLimit) }

/-- A good frame from a station restarts the silence timer of the path with its port and site (R46, R131). -/
def heardNotice (k : PortNo) (src : Nat) (s : State) : State :=
  { s with paths := s.paths.map (fun x => if x.active ∧ x.port = k ∧ x.site.val = src then x.heard s.now else x) }

/-- FM's port-heard notice restarts the silence timer of every PROBING or UP path on the port (R24, R46). -/
def portHeard (k : PortNo) (s : State) : State :=
  { s with paths := s.paths.map (fun x => if x.active ∧ x.port = k then x.heard s.now else x) }

/-- The path of a frame: the path not OFF with the port and the frame's source site (R131). -/
def pathOfFrame (s : State) (k : PortNo) (src : Nat) : Option PathNo :=
  allPaths.find? (fun p => s.paths[p].state != .off && s.paths[p].port == k && s.paths[p].site.val == src)

/-! ## Timers -/

/-- The probe timer expires: a probe is placed and the timer restarted with the interval in force (R47). -/
def probeTimerExpiry (p : PathNo) (s : State) : State :=
  if s.isReady && dueBy s.now s.paths[p].probeDue then
    placeProbe p (s.updPath p (fun x => { x with probeDue := some (s.now + x.interval) }))
  else s

/-- PROBE_TIMER_EXPIRY (R47): nothing unless the timer has reached its expiry. -/
def execProbeTimerExpiry (p : PathNo) (s : State) : Host.Outcome State Fault Refusal := run (probeTimerExpiry p) s

/-- SILENCE_TIMER_EXPIRY (R46): nothing unless the timer has reached its expiry. -/
def execSilenceTimerExpiry (p : PathNo) (s : State) : Host.Outcome State Fault Refusal :=
  run (fun s => if s.isReady && dueBy s.now s.paths[p].silenceDue then pathDown p s else s) s

/-- The oldest outstanding probe removed as lost (R50). -/
def PathRec.loseOldest (x : PathRec) : PathRec :=
  { x with outstanding := x.outstanding.drop 1, counters := { x.counters with lost := x.counters.lost + 1 } }

/-- Whether the oldest outstanding probe has reached the end of its lifetime (R50). -/
def PathRec.oldestExpired (now : Nat) (x : PathRec) : Bool :=
  x.outstanding.head?.any (fun e => decide (e.sentAt + x.lifetime ≤ now))

/-- PROBE_LIFETIME_EXPIRY (R50): the oldest entry goes, if it has reached the end of its lifetime. -/
def execProbeLifetimeExpiry (p : PathNo) (s : State) : Host.Outcome State Fault Refusal :=
  run (fun s => if s.isReady && s.paths[p].oldestExpired s.now then s.updPath p PathRec.loseOldest else s) s

/-! ## The estimator -/

/-- The longest round trip of a valid sample, and the largest estimate, in ns (R52, R54). -/
def maxDelay : Int := 200000000

/-- A sample: its round trip, its method and its forward delay; absent when invalid (R52). -/
def sampleOf (t1 t2 t3 t4 : Stamp) (bothTraceable : Bool) : Option (Int × Method × Int) :=
  let rtt := ((t4 - t1) - (t3 - t2)).toInt
  if rtt < 0 ∨ maxDelay < rtt then none
  else if bothTraceable then
    let f := (t2 - t1).toInt
    if f < 0 ∨ rtt < f then none else some (rtt, .clock, f)
  else some (rtt, .half, rtt.fdiv 2)

/-- A value assigned to an estimate, clamped into its range (R54). -/
def clampDelay (v : Int) : Nat := (clampInt 0 maxDelay v).toNat

/-- A valid sample that seeds (R53). -/
def PathRec.seed (rtt f : Int) (x : PathRec) : PathRec :=
  { x with est := clampDelay f, rttEst := clampDelay rtt, run := 0, seeded := true }

/-- A valid sample that does not seed: an outlier, a reseed at the fourth in a row, or the filter (R54). -/
def PathRec.filter (rtt f : Int) (x : PathRec) : PathRec :=
  let d := f - x.est
  if x.outlier < d.natAbs then
    let x := { x with run := x.run + 1, counters := { x.counters with outliers := x.counters.outliers + 1 } }
    if 4 ≤ x.run then
      { x.seed rtt f with counters := { x.counters with reseeds := x.counters.reseeds + 1 } }
    else x
  else
    { x with run := 0, est := clampDelay (x.est + d.fdiv (2 ^ x.shift : Nat)),
             rttEst := clampDelay (x.rttEst + (rtt - x.rttEst).fdiv (2 ^ x.shift : Nat)) }

/-- A valid sample is taken (R53, R54). -/
def PathRec.takeSample (rtt : Int) (m : Method) (f : Int) (x : PathRec) : PathRec :=
  let x := { x with counters := { x.counters with samples := x.counters.samples + 1 } }
  let y :=
    if !x.seeded then x.seed rtt f
    else if x.method ≠ some m then
      { x.seed rtt f with counters := { x.counters with reseeds := x.counters.reseeds + 1 } }
    else x.filter rtt f
  { y with method := some m }

/-- The first valid sample takes a PROBING path to UP (R55). -/
def enterUp (p : PathNo) (s : State) : State :=
  notifyPath false p (s.updPath p (fun x => cutProbeTimer s.now { x with state := .up }))

/-- A good PROBE-BACK is matched against its path's outstanding probes, and yields a sample (R51 to R55). -/
def probeBackArrived (k : PortNo) (src : Nat) (id : Byte) (remote : Bool) (t2 t3 t4 : Stamp) (here : Bool)
    (s : State) : State :=
  match pathOfFrame s k src with
  | none => s
  | some p =>
    match s.paths[p].outstanding.find? (fun e => e.id == id) with
    | none =>
      s.updPath p (fun x => { x with counters := { x.counters with unmatched := x.counters.unmatched + 1 } })
    | some e =>
      let s := s.updPath p (fun x => { x with outstanding := x.outstanding.erase e })
      match sampleOf e.t1 t2 t3 t4 (remote && here) with
      | none =>
        s.updPath p (fun x => { x with counters := { x.counters with invalid := x.counters.invalid + 1 } })
      | some (rtt, m, f) =>
        let s := s.updPath p (PathRec.takeSample rtt m f)
        if s.paths[p].state = .probing then enterUp p s else s

/-- A duplicate's trailing lag and count (R56). -/
def trailingLag (p : PathNo) (arrival accepted : Stamp) (s : State) : State :=
  s.updPath p (fun x =>
    { x with lag := some (arrival - accepted, arrival)
             counters := { x.counters with duplicates := x.counters.duplicates + 1 } })

/-- PM takes every path at ready: DOWN paths are evaluated (R37). -/
def evalPaths (s : State) : State := overAll allPaths evalDown s

/-- A link-up event evaluates every DOWN path on the port (R45). -/
def evalPort (k : PortNo) (s : State) : State :=
  overAll allPaths (fun p s => if s.paths[p].port = k then evalDown p s else s) s

/-- A link-lost event takes every PROBING or UP path on the port DOWN, in path-number order (R45). -/
def downPort (k : PortNo) (s : State) : State :=
  overAll allPaths (fun p s => if s.paths[p].port = k then pathDown p s else s) s

end Sys2Proof.Machine
end

