-- ==== Sys2Proof/Machine/Fade.lean ====
section
/-! DEFINITION. The Fade Monitor: thresholds, reports, the hop state machine, silent hops and extremes. -/

namespace Sys2Proof.Machine

/-! ## Thresholds (R22) -/

/-- The thresholds and the debounce setting stored, clamped in the order of R22. -/
def HopRec.setThresholds (fade down hyst : Int) (d : Nat) (h : HopRec) : HopRec :=
  let down := clampInt (-1000) (-201) down
  let fade := max (clampInt (-1000) (-201) fade) down
  let hyst := min (clampInt 1 200 hyst) (-200 - fade)
  { h with fade := fade, down := down, hyst := hyst, debounce := clampNat 1 8 d }

/-- What SET_HOPS and a chain change return a hop to (R20, R23): UNKNOWN, with nothing reported. -/
def HopRec.unknown (h : HopRec) : HopRec :=
  { h with state := .unknown, count := 0, last := none, extremes := false, step := 0, lastReport := none,
           reportDue := none }

/-! ## Changes (R34, R35) -/

/-- A hop's line of the hop mirror (R166). -/
def hopMirror (h : HopNo) : Mirror := if h.val < 64 then .low else .high

/-- A hop state change raises HOP_CHANGE and marks its mirror line (R34). -/
def noteHop (before : HopState) (h : HopNo) (s : State) : State :=
  if s.hops[h].state = before then s else raise .hopChange (markStale (hopMirror h) s)

/-- A change of one hop's record, with R34's effects and R35's notice of a changed state or rate. That CMD is handed the
change, and HOP_CHANGE raised, ahead of PM's notice is the model's choice: R34 and R35 do not order the two
(assumption 12). -/
def changeHop (h : HopNo) (f : HopRec → HopRec) (s : State) : State :=
  let state := s.hops[h].state
  let rate := hopRate s h
  let s := noteHop state h (s.updHop h f)
  if s.hops[h].state = state ∧ hopRate s h = rate then s else hopNotice h s

/-! ## Reports -/

/-- The extremes take a level (R32). -/
def HopRec.takeLevel (level : Int) (h : HopRec) : HopRec :=
  if h.extremes then { h with last := some level, minLevel := min h.minLevel level, maxLevel := max h.maxLevel level }
  else { h with last := some level, minLevel := level, maxLevel := level, extremes := true }

/-- What every report does first (R25). -/
def HopRec.record (now timeoutMs : Nat) (level : Int) (step : Nat) (lost : Bool) (h : HopRec) : HopRec :=
  let h := { h with lastReport := some now, reportDue := some (now + timeoutMs * 1000),
                    step := if lost then 0 else step }
  if lost then h else h.takeLevel level

/-- The DOWN condition (R26). -/
def HopRec.meetsDown (level : Int) (step : Nat) (lost : Bool) (h : HopRec) : Bool :=
  lost || step == 0 || decide (level < h.down)

/-- The hop state machine on one report (R26 to R30). -/
def HopRec.judge (level : Int) (step : Nat) (lost : Bool) (h : HopRec) : HopRec :=
  if h.meetsDown level step lost then { h with state := .down, count := 0 }
  else match h.state with
    | .unknown => { h with state := if level < h.fade then .fading else .clear, count := 0 }
    | .clear =>
      if level < h.fade then
        if h.debounce ≤ h.count + 1 then { h with state := .fading, count := 0 } else { h with count := h.count + 1 }
      else { h with count := 0 }
    | .fading =>
      if h.fade + h.hyst ≤ level then
        if h.debounce ≤ h.count + 1 then { h with state := .clear, count := 0 } else { h with count := h.count + 1 }
      else { h with count := 0 }
    | .down => if h.down + h.hyst ≤ level then { h with state := .fading, count := 0 } else h

/-- One report for a hop (R25 to R30). -/
def HopRec.report (now timeoutMs : Nat) (level : Int) (step : Nat) (lost : Bool) (h : HopRec) : HopRec :=
  (h.record now timeoutMs level step lost).judge level step lost

/-- One entry of a HOPSTAT frame: ignored when its position names no hop of the chain, and otherwise a report,
its level and step brought into range (R24). -/
def hopEntry (k : PortNo) (e : HopEntry) (s : State) : State :=
  if e.position = 0 then s
  else match s.ports[k].chain[e.position - 1]? with
    | some h =>
      changeHop h (HopRec.report s.now s.ports[k].timeoutMs (clampInt (-1000) (-200) e.level) (min 7 e.step) e.lost) s
    | none => s

/-- A good HOPSTAT frame at FM (R24). -/
def hopstatArrived (k : PortNo) (entries : List HopEntry) (s : State) : State :=
  match s.ports[k].kind with
  | .fibre => s
  | .radio => overAll entries (hopEntry k) (portHeard k s)

/-! ## Silent hops (R31) -/

/-- A report timer's expiry on a hop's record (R31). -/
def HopRec.silent (h : HopRec) : HopRec :=
  if h.state = .clear ∨ h.state = .fading then { h with reportDue := none, state := .down, step := 0, count := 0 }
  else { h with reportDue := none }

/-- REPORT_TIMER_EXPIRY (R31): nothing unless the timer has reached its expiry. -/
def execReportTimerExpiry (h : HopNo) (s : State) : Host.Outcome State Fault Refusal :=
  run (fun s => if s.isReady && dueBy s.now s.hops[h].reportDue then changeHop h HopRec.silent s else s) s

/-- A new report timeout moves the running timers of the port's hops; one already passed expires (R31). -/
def moveReportTimer (timeoutMs : Nat) (h : HopNo) (s : State) : State :=
  match s.hops[h].reportDue, s.hops[h].lastReport with
  | some _, some last =>
    let due := last + timeoutMs * 1000
    if due < s.now then changeHop h HopRec.silent s else s.updHop h (fun h => { h with reportDue := some due })
  | _, _ => s

/-- The extremes of a range of hops are made invalid (R32). -/
def clearExtremes (first last : Nat) (s : State) : State :=
  { s with hops := s.hops.mapFinIdx (fun i h _ =>
      if first ≤ i ∧ i ≤ last then { h with extremes := false } else h) }

end Sys2Proof.Machine
end

