-- ==== Sys2Proof/Machine/Merge.lean ====
section
/-! DEFINITION. The Receive Merge Unit: receive windows, the judging of arrivals, holes and losses, the pending
list, and the receive rings. -/

namespace Sys2Proof.Machine

/-! ## Rings (R142, R145) -/

/-- The number of free slots of a ring of N slots (R142). -/
def freeSlots (n consumer producer : Nat) : Nat := (consumer + 2 * n - producer - 1) % n

/-- Whether a ring has room (R142). -/
def RxRing.hasRoom (r : RxRing) : Bool :=
  match r.place with
  | some (_, n) => decide (1 ≤ freeSlots n r.consumer r.producer)
  | none => false

/-- Whether a slot can be written: the ring has room and no record is pending (R142). -/
def RxRing.canWrite (r : RxRing) : Bool := r.hasRoom && r.pending.isEmpty

/-- The slot at the producer is taken: the producer advances, and the lap toggles when it wraps (R142). -/
def RxRing.advance (n : Nat) (r : RxRing) : RxRing :=
  if r.producer + 1 = n then { r with producer := 0, lap := !r.lap } else { r with producer := r.producer + 1 }

/-- A slot is written as a group of three own writes, and the producer advances (R145). The first line comes
with its fill marker still 0. -/
def writeSlot (site : Site) (first second : List Byte) (s : State) : State :=
  let r := s.rmu[site].ring
  match r.place with
  | some (base, n) =>
    let line := base + 2 + 2 * r.producer
    let r' := r.advance n
    formGroup
      [(line + 1, some (second.map some), .receiveSlot),
       (line, some ((putAt first 0 [lapCode r.lap]).map some), .receiveSlot),
       (base, some (partLine [(0, leBytes 4 r'.producer ++ [lapCode r'.lap])]), .receiveSlot)] .nothing
      (s.updSite site (fun x => { x with ring := r' }))
  | none => s

/-- A GAP or RESTART slot's first line (12.2). -/
def RingRecord.line (site : Site) : RingRecord → List Byte
  | .gap cls epoch first count cause overflow =>
    layout 64 [(1, [2]), (2, leBytes 1 site.val), (3, [clsByte cls]), (4, [cause.code]), (5, [flagByte overflow]),
      (8, leBytes 4 epoch.toNat), (12, leBytes 4 first.toNat), (16, leBytes 4 count)]
  | .restart cls epoch prev first overflow =>
    layout 64 [(1, [3]), (2, leBytes 1 site.val), (3, [clsByte cls]), (5, [flagByte overflow]),
      (8, leBytes 4 epoch.toNat), (12, leBytes 4 first.toNat), (16, leBytes 4 prev.toNat)]

/-- A record is written as a slot, which raises GAP (R145, R154). -/
def writeRecord (site : Site) (rec : RingRecord) (s : State) : State :=
  raise .gap (writeSlot site (rec.line site) (List.replicate 64 0) s)

/-! ## The pending list (R153, R154) -/

/-- The pending list's capacity. -/
def pendingCapacity : Nat := 8

/-- A record's overflow flag set. -/
def RingRecord.flagged : RingRecord → RingRecord
  | .gap c e f n k _ => .gap c e f n k true
  | .restart c e p f _ => .restart c e p f true

/-- A GAP record merged into another, when they are of one class and epoch, contiguous, and their counts'
sum fits (R153). -/
def RingRecord.merge : RingRecord → RingRecord → Option RingRecord
  | .gap c e f n k o, .gap c' e' f' n' k' _ =>
    if c = c' ∧ e = e' ∧ f + BitVec.ofNat 32 n = f' ∧ n + n' < 2 ^ 32 then
      some (.gap c e f (n + n') (if k = k' then k else .mixed) o)
    else none
  | _, _ => none

/-- A record joins the pending list (R153). -/
def joinPending (rec : RingRecord) (l : List RingRecord) : List RingRecord :=
  match l.getLast? with
  | some newest =>
    match newest.merge rec with
    | some m => l.dropLast ++ [m]
    | none => if l.length < pendingCapacity then l ++ [rec] else l.dropLast ++ [newest.flagged]
  | none => [rec]

/-- A record that has been formed is written at once if a slot can be written; otherwise it is made pending
and RING_OVERRUN is raised (R153). -/
def putRecord (site : Site) (rec : RingRecord) (s : State) : State :=
  if s.rmu[site].ring.canWrite then writeRecord site rec s
  else raise .ringOverrun
    (s.updSite site (fun x => { x with ring := { x.ring with pending := joinPending rec x.ring.pending } }))

/-- Pending records are written, oldest first, while the ring has room (R154); the count bounds how many. -/
def drain : Nat → Site → State → State
  | 0, _, s => s
  | n + 1, site, s =>
    match s.rmu[site].ring.pending with
    | rec :: rest =>
      if s.rmu[site].ring.hasRoom then
        drain n site (writeRecord site rec
          (s.updSite site (fun x => { x with ring := { x.ring with pending := rest } })))
      else s
    | [] => s

/-- Every pending record the ring has room for is written. -/
def drainAll (site : Site) (s : State) : State := drain s.rmu[site].ring.pending.length site s

/-- A consumer hand-off: a value of N or more is ignored (R143). -/
def consumerHandoff (site : Site) (v : Nat) (s : State) : State :=
  match s.rmu[site].ring.place with
  | some (_, n) =>
    if n ≤ v then s
    else drainAll site (s.updSite site (fun x => { x with ring := { x.ring with consumer := v } }))
  | none => s

/-- The number of slots of a receive window of a page range (9.2). -/
def rxSlots (base limit : Nat) : Nat := 32 * (limit + 1 - base) - 1

/-- A ring starts: its indices are set, its control line is written, and pending records follow (R144). -/
def startRxRing (site : Site) (w : Window) (tag : OwnTag) (s : State) : State :=
  let line := w.base * 64
  let s := s.updSite site (fun x => { x with ring := { x.ring with
    place := some (line, rxSlots w.base w.limit), producer := 0, lap := true, consumer := 0 } })
  drainAll site
    (formGroup [(line, some (partLine [(0, leBytes 4 0 ++ [lapCode true] ++ leBytes 3 0 ++ leBytes 4 0)]), tag)]
      .nothing s)

/-- A ring stops being present (R144). -/
def stopRxRing (site : Site) (s : State) : State :=
  s.updSite site (fun x => { x with ring := { x.ring with place := none } })

/-! ## Windows -/

namespace RxSite

def window (x : RxSite) : MsgClass → RxWindow
  | .urgent => x.urgent
  | .bulk => x.bulk

def setWindow (cls : MsgClass) (f : RxWindow → RxWindow) (x : RxSite) : RxSite :=
  match cls with
  | .urgent => { x with urgent := f x.urgent }
  | .bulk => { x with bulk := f x.bulk }

end RxSite

/-- The window of a site and class changed. -/
def State.updWindow (s : State) (site : Site) (cls : MsgClass) (f : RxWindow → RxWindow) : State :=
  s.updSite site (RxSite.setWindow cls f)

/-- The since time of a position that is a hole. -/
def holeSince : Option Position → Option Nat
  | some (.hole t) => some t
  | _ => none

/-- Whether a position is a hole. -/
def isHole (p : Option Position) : Bool := (holeSince p).isSome

/-- The oldest since time among the holes (R151). -/
def RxWindow.oldest (w : RxWindow) : Option Nat := (w.map.filterMap holeSince).min?

/-- The hole timer follows the oldest since time (R151). -/
def RxWindow.retime (w : RxWindow) : RxWindow := { w with holeDue := w.oldest.map (· + w.timeout) }

/-- An empty window (R141): its timeout is kept. -/
def RxWindow.emptied (w : RxWindow) : RxWindow := { RxWindow.reset with timeout := w.timeout }

/-! ## Losses (R152) -/

/-- A run of consecutive numbers: its first and its count. -/
abbrev Run := BitVec 32 × Nat

/-- A run put after others, in ascending order: joined to the last when it continues it. -/
def addRun (runs : List Run) (r : Run) : List Run :=
  match runs.getLast? with
  | some l => if l.1 + BitVec.ofNat 32 l.2 = r.1 then runs.dropLast ++ [(l.1, l.2 + r.2)] else runs ++ [r]
  | none => [r]

/-- The runs among numbered positions, newest first, that a test picks. -/
def runsOf (top : BitVec 32) (offset : Nat) (ps : List (Option Position)) (pick : Option Position → Bool) :
    List Run :=
  (ps.zipIdx.reverse.filter (fun x => pick x.1)).foldl
    (fun runs x => addRun runs (top - BitVec.ofNat 32 (offset + x.2), 1)) []

/-- The runs of one event become GAP records of the window's class and epoch, lowest first (R152). An advance and the
failed accept behind it report apart (assumption 33). -/
def reportRuns (site : Site) (cls : MsgClass) (cause : GapCause) (runs : List Run) (s : State) : State :=
  let epoch := (s.rmu[site].window cls).epoch
  overAll runs (fun r => putRecord site (.gap cls epoch r.1 r.2 cause false)) s

/-! ## Arrivals -/

/-- A message as a frame receiver hands it to RMU (R132, R134). -/
structure Arrived where
  site : Site
  cls : MsgClass
  epoch : BitVec 32
  seq : BitVec 32
  copy : Byte
  /-- The sender's capture time; absent for a bulk message. -/
  capture : Option Stamp
  payload : List Byte
  arrival : Stamp
  path : PathNo
  deriving DecidableEq, Repr

/-- A MSG slot's first line (12.2). -/
def Arrived.line (m : Arrived) : List Byte :=
  layout 64 [(1, [1]), (2, leBytes 1 m.site.val), (3, [clsByte m.cls]), (4, [m.copy]), (5, leBytes 1 m.path.val),
    (6, leBytes 1 m.payload.length), (7, [flagByte m.capture.isSome]), (8, leBytes 4 m.epoch.toNat),
    (12, leBytes 4 m.seq.toNat), (16, leBytes 8 (m.capture.getD 0).toNat), (24, leBytes 8 m.arrival.toNat),
    (32, m.payload.take 32)]

/-- A MSG slot's second line. -/
def Arrived.second (m : Arrived) : List Byte := layout 64 [(0, m.payload.drop 32)]

/-- A window all of whose 256 positions are holes loses its oldest (R150). The loss is reported by itself, also where the
same arrival has lost holes by advancing (assumption 33). -/
def relieveWindow (site : Site) (cls : MsgClass) (s : State) : State :=
  let w := s.rmu[site].window cls
  if w.map.length = 256 ∧ w.map.all isHole then
    reportRuns site cls .overflow (w.top.map (fun t => (t - 255, 1))).toList
      (s.updWindow site cls (fun w => ({ w with map := w.map.set 255 (some .lost) }).retime))
  else s

/-- To accept a message at offset `v` below top: a MSG slot and ACCEPTED, or, with no slot to write, a HOLE
and RING_OVERRUN (R150). -/
def acceptMsg (m : Arrived) (v : Nat) (s : State) : State :=
  if s.rmu[m.site].ring.canWrite then
    writeSlot m.site m.line m.second
      (s.updWindow m.site m.cls (fun w => ({ w with map := w.map.set v (some (.accepted m.arrival m.path)) }).retime))
  else
    relieveWindow m.site m.cls (raise .ringOverrun
      (s.updWindow m.site m.cls (fun w => ({ w with map := w.map.set v (some (.hole s.now)) }).retime)))

/-- A new session: every position is dropped, a RESTART record is formed, and the message is taken (R146). -/
def newSession (m : Arrived) (s : State) : State :=
  let prev := (s.rmu[m.site].window m.cls).epoch
  let s := s.updWindow m.site m.cls (fun w =>
    { w with prevEpoch := prev, epoch := m.epoch, top := some m.seq, map := [none], holeDue := none })
  acceptMsg m 0 (putRecord m.site (.restart m.cls m.epoch prev m.seq false) s)

/-- The holes an advance by `u` drops out of the window, as runs: old positions that leave, then numbers above
the old top that fall below the new window (R148). -/
def overflowRuns (top : BitVec 32) (map : List (Option Position)) (u : Nat) : List Run :=
  let keep := 256 - u
  let old := runsOf top keep (map.drop keep) isHole
  if 256 < u then addRun old (top + 1, u - 256) else old

/-- A message above top advances the window by `u`; what it loses is reported before the message is accepted (R148), as
runs of their own (assumption 33). -/
def advanceWindow (m : Arrived) (top : BitVec 32) (u : Nat) (s : State) : State :=
  let map := (s.rmu[m.site].window m.cls).map
  let holes := List.replicate (min (u - 1) 255) (some (Position.hole s.now))
  let s := reportRuns m.site m.cls .overflow (overflowRuns top map u) s
  acceptMsg m 0 (s.updWindow m.site m.cls (fun w =>
    { w with top := some m.seq, map := (none :: holes ++ map).take 256 }))

/-- RMU judges a message by its epoch and its position (R146, R147, R149). -/
def messageArrived (m : Arrived) (s : State) : State :=
  let w := s.rmu[m.site].window m.cls
  if m.epoch = 0 ∨ m.epoch = w.prevEpoch then s
  else if m.epoch ≠ w.epoch then newSession m s
  else match w.top with
    | none => s
    | some top =>
      let u := (m.seq - top).toNat
      let v := (top - m.seq).toNat
      if 1 ≤ u ∧ u < 2 ^ 31 then advanceWindow m top u s
      else if v ≤ 255 then
        match w.map.getD v none with
        | some (.accepted arrival _) => trailingLag m.path m.arrival arrival s
        | some (.hole _) => acceptMsg m v s
        | _ => s
      else s

/-! ## The hole timer (R151) -/

/-- The hole timer's expiry: every hole whose since is at or before the expiry less the timeout is LOST. -/
def holeExpiry (site : Site) (cls : MsgClass) (s : State) : State :=
  let w := s.rmu[site].window cls
  match w.holeDue, w.top with
  | some due, some top =>
    let late := fun (p : Option Position) => (holeSince p).any (fun t => decide (t + w.timeout ≤ due))
    reportRuns site cls .timeout (runsOf top 0 w.map late)
      (s.updWindow site cls (fun w => ({ w with map := w.map.map (fun p => if late p then some .lost else p) }).retime))
  | _, _ => s

/-- HOLE_TIMER_EXPIRY (R151): nothing unless the timer has reached its expiry. -/
def execHoleTimerExpiry (site : Site) (cls : MsgClass) (s : State) : Host.Outcome State Fault Refusal :=
  run (fun s =>
    if s.isReady && dueBy s.now (s.rmu[site].window cls).holeDue then holeExpiry site cls s else s) s

/-- Expiries already passed are carried out, at most as many as a window has positions (R141). That each one is an
expiry event of its own (R151), its runs and GAP records formed apart from those of the one before (R152), and that all
of them are carried out in the one command, is the model's choice: R141 and R151 do not say whether they are one expiry,
several, or, after the first, left to a later event (assumption 34). -/
def expireHoles : Nat → Site → MsgClass → State → State
  | 0, _, _, s => s
  | n + 1, site, cls, s =>
    if (s.rmu[site].window cls).holeDue.any (fun due => decide (due < s.now)) then
      expireHoles n site cls (holeExpiry site cls s)
    else s

/-- A new hole timeout of one window, clamped; a running timer moves, and one already passed expires (R141);
as do, one after the other, the next oldest holes' expiries that have passed too (the model's choice, assumption 34). -/
def setHoleTimeout (site : Site) (cls : MsgClass) (us : Nat) (s : State) : State :=
  expireHoles 256 site cls
    (s.updWindow site cls (fun w => ({ w with timeout := clampNat 100 100000 us }).retime))

/-! ## RESYNC_SITE (R155) -/

/-- The class of a record. -/
def RingRecord.cls : RingRecord → MsgClass
  | .gap c .. => c
  | .restart c .. => c

/-- A window is emptied and its class's pending records are removed (R155). -/
def resyncWindow (site : Site) (cls : MsgClass) (s : State) : State :=
  s.updSite site (fun x =>
    let x := x.setWindow cls RxWindow.emptied
    { x with ring := { x.ring with pending := x.ring.pending.filter (fun r => r.cls != cls) } })

end Sys2Proof.Machine
end

