-- ==== Sys2Proof/Machine/Route.lean ====
section
/-! DEFINITION. The Route Selector: the arrival estimate, selection, dual copies, and re-selection of displaced
messages. -/

namespace Sys2Proof.Machine

/-! ## The arrival estimate (R66, R67) -/

/-- The bytes ahead of an urgent message on a port (R67). -/
def Transmitter.urgentBacklog (t : Transmitter) : Nat :=
  (t.line.map (fun l => l.1.wire)).getD 0 + (if t.probe.isSome then 40 else 0) +
  (if t.probeBack.isSome then 56 else 0) + (t.urgent.map UFrame.wire).sum

/-- The bytes ahead of a message of a class on a port (R67). -/
def Transmitter.backlog (t : Transmitter) : MsgClass → Nat
  | .urgent => t.urgentBacklog
  | .bulk => t.urgentBacklog + (t.bulk.map BulkFrame.wire).sum + (t.ctx.map (fun c => c.frame.rest c.next)).getD 0

/-- The bytes a message of a class and payload length adds on a path of a port (R67). -/
def Transmitter.added (t : Transmitter) (p : PathNo) (cls : MsgClass) (n : Nat) : Nat :=
  match cls with
  | .urgent => n + 32
  | .bulk => if t.joins p n then 8 + n else 8 + n + 32

/-- A(p): the station time a frame placed now on the path is expected to take (R66). -/
def arrival (s : State) (cls : MsgClass) (n : Nat) (p : PathNo) : Nat :=
  let x := s.paths[p]
  let t := s.tx[x.port]
  x.est + x.fading * x.fadeUnit + ceilDiv ((t.backlog cls + t.added p cls n) * 1000000) x.rate

/-- The eligible paths of a route with their estimates, in candidate order (R68). -/
def eligible (s : State) (site : Site) (cls : MsgClass) (n : Nat) : List (PathNo × Nat) :=
  (s.rs.routes[site].cands.filter (fun p => s.paths[p].state == .up)).map (fun p => (p, arrival s cls n p))

/-- An estimate put into ascending order, ahead of its equals. -/
def insertByA (x : PathNo × Nat) : List (PathNo × Nat) → List (PathNo × Nat)
  | [] => [x]
  | y :: ys => if x.2 ≤ y.2 then x :: y :: ys else y :: insertByA x ys

/-- Paths in ascending order of A, ties by candidate order (R69). -/
def byArrival (xs : List (PathNo × Nat)) : List (PathNo × Nat) := xs.foldr insertByA []

/-- Whether the path's port has room for a message of the class (R69). -/
def hasPortRoom (s : State) (cls : MsgClass) (n : Nat) (p : PathNo) : Bool :=
  s.tx[s.paths[p].port].roomFor p cls n

/-- Where the message is placed: the choice if it has room, else the first other eligible path, in ascending
order of A, that has (R69). -/
def placing (s : State) (cls : MsgClass) (n : Nat) (choice : PathNo) (ranked : List PathNo) : Option PathNo :=
  (choice :: ranked.filter (· ≠ choice)).find? (hasPortRoom s cls n)

/-- The choice of R68: the current path while its estimate is within H of the least, and otherwise the least. -/
def chooseKeeping (hyst : Nat) (current : Option PathNo) (elig : List (PathNo × Nat)) (m : PathNo × Nat) : PathNo :=
  match current.bind (fun c => elig.find? (fun x => x.1 == c)) with
  | some c => if c.2 ≤ m.2 + hyst then c.1 else m.1
  | none => m.1

/-! ## Results -/

/-- RS's result for one destination reaches CU; once the record's last request is answered, its payload is
dropped (R104). -/
def answerDest (hdr : Nat) (site : Site) (d : Dest) (s : State) : State :=
  closeIfSettled hdr (s.updRecord hdr (fun r =>
    let r := { r with dests := updAt r.dests site (fun _ => d) }
    if r.dests.toList.contains .waiting then r else { r with head := [], body := none }))

/-- A refused selection takes no number and advances no counter but `refused` (R63, R76). -/
def refuseSelection (hdr : Nat) (site : Site) (o : DestOutcome) (s : State) : State :=
  answerDest hdr site (.settled o)
    (s.updRoute site (fun r => { r with counters := { r.counters with refused := r.counters.refused + 1 } }))

/-- A message put on the queue of its path's port. -/
def placeMsg (m : Msg) (s : State) : State := s.updTx s.paths[m.path].port (Transmitter.place m)

/-- The message a selection places, with the route's next number of its class and the placement mark (R63,
R64, R69). -/
def freshMsg (s : State) (r : Record) (site : Site) (p : PathNo) : Msg where
  site := site
  cls := r.cls
  epoch := s.rs.epoch
  seq := match r.cls with
    | .urgent => s.rs.routes[site].nextUrgent
    | .bulk => s.rs.routes[site].nextBulk
  dual := false
  capture := r.capture
  payload := r.payload.getD []
  slot := r.hdr
  path := p
  mark := s.rs.placement

/-- The route and the placement counter advance when a primary is placed (R63, R64, R76). -/
def advanceRoute (site : Site) (cls : MsgClass) (fallback : Bool) (s : State) : State :=
  { s with rs := { s.rs with
      placement := s.rs.placement + 1
      routes := updAt s.rs.routes site (fun r =>
        { r with
          nextUrgent := if cls = .urgent then r.nextUrgent + 1 else r.nextUrgent
          nextBulk := if cls = .bulk then r.nextBulk + 1 else r.nextBulk
          counters := { r.counters with
            placed := r.counters.placed + 1
            fallbacks := if fallback then r.counters.fallbacks + 1 else r.counters.fallbacks } }) } }

/-- Whether a dual copy is wanted (R70). -/
def dualWanted (s : State) (site : Site) (p : PathNo) (force : Bool) : Bool :=
  s.rs.routes[site].dual == .always || (s.rs.routes[site].dual == .onFade && decide (0 < s.paths[p].fading)) || force

/-- The route's current path takes a value; a change to a path counts one switch (R68, R76). -/
def setCurrent (site : Site) (p : PathNo) (s : State) : State :=
  s.updRoute site (fun r =>
    if r.current = some p then r
    else { r with current := some p, counters := { r.counters with switches := r.counters.switches + 1 } })

/-- The dual copy of a placed message is made on the best other eligible path, if that has room (R70): the
state after, and the path it was placed on. -/
def dualCopy (m : Msg) (force : Bool) (ranked : List PathNo) (s : State) : State × Option PathNo :=
  if dualWanted s m.site m.path force then
    match ranked.find? (· ≠ m.path) with
    | some q =>
      if hasPortRoom s m.cls m.payload.length q then
        (s.updRoute m.site (fun r => { r with counters := { r.counters with duals := r.counters.duals + 1 } })
          |> placeMsg { m with dual := true, path := q }, some q)
      else (s, none)
    | none => (s, none)
  else (s, none)

/-- A port's choice, where a frame has joined it (R116). -/
def choiceOn (p : PathNo) (s : State) : State := lineChoice s.paths[p].port s

/-- The payload length of the message a record forms. -/
def Record.size (r : Record) : Nat := (r.payload.getD []).length

/-- RS takes one destination's selection request whole (R68 to R71). -/
def selectDest (r : Record) (site : Site) (s : State) : State :=
  if s.rs.epoch = 0 then refuseSelection r.hdr site .noEpoch s
  else
    let elig := eligible s site r.cls r.size
    let order := byArrival elig
    let ranked := order.map (·.1)
    match order with
    | [] => refuseSelection r.hdr site .noRoute s
    | m :: _ =>
      let choice := chooseKeeping s.rs.routes[site].hyst s.rs.routes[site].current elig m
      let s := setCurrent site choice s
      match placing s r.cls r.size choice ranked with
      | none => refuseSelection r.hdr site .queueFull s
      | some p =>
        let msg := freshMsg s r site p
        let s := placeMsg msg (advanceRoute site r.cls (decide (p ≠ choice)) s)
        let (s, q) := dualCopy msg r.force ranked s
        let s := answerDest r.hdr site (.live .queued false (if q.isSome then .queued else .absent)) s
        let s := choiceOn p s
        match q with
        | some q => choiceOn q s
        | none => s

/-- The destination whose request the record has at RS: its lowest not answered (R104). -/
def Record.asking (r : Record) : Option Site :=
  if r.phase = .routing then (List.finRange 8).find? (fun i => r.dests[i] == .waiting) else none

/-- SELECTION: nothing unless the record has a request at RS (R68). -/
def selection (hdr : Nat) (s : State) : State :=
  match s.recordOf hdr with
  | some r =>
    match r.asking with
    | some site => if s.isReady then selectDest r site s else s
    | none => s
  | none => s

/-- SELECTION (R68). -/
def execSelection (hdr : Nat) (s : State) : Host.Outcome State Fault Refusal := run (selection hdr) s

/-! ## Re-selection (R73) -/

/-- The next message of the oldest batch from a port, and the batches without it. -/
def takeFromBatch (k : PortNo) : List Batch → Option (Msg × List Batch)
  | [] => none
  | b :: bs =>
    if b.port = k then
      match b.msgs with
      | m :: rest => some (m, if rest.isEmpty then bs else ⟨k, rest⟩ :: bs)
      | [] => takeFromBatch k bs
    else (takeFromBatch k bs).map (fun x => (x.1, b :: x.2))

/-- A displaced message placed again counts one, and a fallback when the choice had no room (R69, R76). -/
def RouteRec.rerouted (fallback : Bool) (r : RouteRec) : RouteRec :=
  { r with counters := { r.counters with
      rerouted := r.counters.rerouted + 1
      fallbacks := if fallback then r.counters.fallbacks + 1 else r.counters.fallbacks } }

/-- A displaced message is re-selected: the choice is the eligible path of least A, and, where that has no room, the
next in order that has (R69, R73). -/
def reselect (m : Msg) (s : State) : State :=
  let n := m.payload.length
  let ranked := (byArrival (eligible s m.site m.cls n)).map (·.1)
  match ranked.find? (hasPortRoom s m.cls n) with
  | some p =>
    let s := placeMsg { m with path := p }
      (s.updRoute m.site (RouteRec.rerouted (decide (ranked.head? ≠ some p))))
    choiceOn p (reportDest m.slot m.site Dest.rerouted s)
  | none =>
    reportDest m.slot m.site Dest.flushed (s.updRoute m.site (fun r =>
      { r with counters := { r.counters with flushed := r.counters.flushed + 1 } }))

/-- RESELECTION: nothing unless RS holds a batch from the port (R73). -/
def reselection (k : PortNo) (s : State) : State :=
  match takeFromBatch k s.rs.batches with
  | some (m, bs) => reselect m { s with rs := { s.rs with batches := bs } }
  | none => s

/-- RESELECTION (R73). -/
def execReselection (k : PortNo) (s : State) : Host.Outcome State Fault Refusal := run (reselection k) s

end Sys2Proof.Machine
end

