-- ==== Sys2Proof/Machine/Time.lean ====
section
/-! DEFINITION. The Time Unit: the clocks, announcements, pulses and the discipline of station time. -/

namespace Sys2Proof.Machine

/-! ## The two time bases -/

/-- Station time after one nanosecond of the oscillator: it runs at (1 + adj × 10⁻⁹) times its rate (R1). -/
def TimeUnit.tick (t : TimeUnit) : TimeUnit :=
  let acc := t.frac + (1000000000 + t.adj).toNat
  { t with station := t.station + BitVec.ofNat 64 (acc / 1000000000), frac := acc % 1000000000 }

/-- One nanosecond of the oscillator passes: station time and the interval clock advance (R1, R2). -/
def tick (s : State) : State :=
  if s.subMicro + 1 < 1000 then
    { s with out := [], subMicro := s.subMicro + 1, tu := s.tu.tick }
  else
    { s with out := [], subMicro := 0, clock := s.clock + 1, tu := s.tu.tick }

/-! ## Changes and steps -/

/-- A change of time state raises TIME_CHANGE and has the summary mirror's time-state byte rewritten (R13). -/
def noteTimeState (before : TimeState) (s : State) : State :=
  if s.tu.state = before then s else raise .timeChange (markStale .summary s)

/-- A change of the Time Unit's record, with what R13 hands to CMD. -/
def changeTime (f : TimeUnit → TimeUnit) (s : State) : State :=
  noteTimeState s.tu.state { s with tu := f s.tu }

/-- The step of R12: the count rises, every outstanding probe is voided, every waiting PROBE-BACK is
discarded, and TIME_CHANGE is raised. -/
def stepTime (amount : Int) (s : State) : State :=
  raise .timeChange
    { s with
      tu := { s.tu with station := s.tu.station + BitVec.ofInt 64 amount, steps := s.tu.steps + 1 }
      paths := s.paths.map (fun p => { p with outstanding := [] })
      tx := s.tx.map (fun t => { t with probeBack := none }) }

/-! ## Announcements -/

/-- The largest whole second whose nanosecond count fits in 64 bits (R4). -/
def maxSeconds : Nat := 18446744073

/-- The seconds count of a good announcement: 0x24, a length of 12, the count, the check over bytes 1 to 9
(R4, 12.4). -/
def announced (chars : List Byte) : Option Nat :=
  let seconds := field chars 2 8
  if chars.length = 14 ∧ byteAt chars 0 = 0x24 ∧ byteAt chars 1 = 12 ∧
      (chars.drop 10).take 4 = crcBytes ((chars.drop 1).take 9) ∧ seconds ≤ maxSeconds then
    some seconds
  else none

/-- A good announcement replaces the held one and is valid; any other is discarded (R4). -/
def takeAnnouncement (chars : List Byte) (s : State) : State :=
  match announced chars with
  | some sec => { s with tu := { s.tu with annSeconds := sec, annValid := true } }
  | none => s

/-- ANNOUNCEMENT (R4). -/
def execAnnouncement (chars : List Byte) (s : State) : Host.Outcome State Fault Refusal :=
  run (takeAnnouncement chars) s

/-! ## The second pulse -/

/-- A pulse less than half a second after the last accepted one is a bounce (R5). -/
def isBounce (s : State) : Bool := s.tu.lastPulse.any (fun l => decide (s.now < l + 500000))

/-- The seconds count an accepted pulse is assigned (R6). -/
def TimeUnit.assigned (t : TimeUnit) : Option Nat :=
  if t.annValid then some t.annSeconds
  else if t.state = .unset then none
  else t.prevSeconds.map (· + 1)

/-- The signed 64-bit limits, to which the last phase error is saturated (R6). -/
def saturate64 (e : Int) : Int := clampInt (-(2 ^ 63)) (2 ^ 63 - 1) e

/-- An accepted pulse is recorded and restarts the pulse-missing timer (R5). -/
def TimeUnit.accept (now : Nat) (t : TimeUnit) : TimeUnit :=
  { t with lastPulse := some now, missingDue := some (now + 1500000) }

/-- A pulse that takes the Time Unit out of HOLDOVER stops the holdover timer (R8, R9). -/
def TimeUnit.leaveHoldover (t : TimeUnit) : TimeUnit :=
  if t.state = .holdover then { t with holdoverStart := none, holdoverDue := none } else t

/-- The limits of I and adj, in ppb (R1). -/
def clampPpb (v : Int) : Int := clampInt (-100000) 100000 v

/-- The steering of R9: divisions truncate toward zero. -/
def TimeUnit.steer (e : Int) (t : TimeUnit) : TimeUnit :=
  let i := clampPpb (t.integral - e.tdiv 16)
  let good := if e.natAbs ≤ 100 then min 8 (t.goodRun + 1) else 0
  let next := match t.state with
    | .acquiring => if good = 8 then .locked else .acquiring
    | .locked => if 1000 < e.natAbs then .acquiring else .locked
    | _ => .acquiring
  { t.leaveHoldover with integral := i, adj := clampPpb (i - e.tdiv 4), goodRun := good, state := next }

/-- The state after a pulse that steps: R7 in UNSET, R8 elsewhere. -/
def TimeUnit.afterStep (t : TimeUnit) : TimeUnit :=
  if t.state = .unset then { t with state := .acquiring, integral := 0, adj := 0, goodRun := 0 }
  else { t.leaveHoldover with state := .acquiring, goodRun := 0 }

/-- A pulse assigned the seconds count is handled: R7, R8 or R9. -/
def handlePulse (sec : Nat) (s : State) : State :=
  let e : Int := (s.tu.station.toNat : Int) - (sec : Int) * 1000000000
  let s := { s with tu := { s.tu with annValid := false, prevSeconds := some sec, lastError := saturate64 e } }
  if s.tu.state = .unset ∨ 1000000 < e.natAbs then changeTime TimeUnit.afterStep (stepTime (-e) s)
  else changeTime (TimeUnit.steer e) s

/-- An edge on the second-pulse input (R5, R6). -/
def secondPulse (s : State) : State :=
  if isBounce s then s
  else
    let s := { s with tu := s.tu.accept s.now }
    match s.tu.assigned with
    | some sec => handlePulse sec s
    | none => s

/-- SECOND_PULSE (R5). -/
def execSecondPulse (s : State) : Host.Outcome State Fault Refusal := run secondPulse s

/-! ## The two timers -/

/-- What the pulse-missing timer's expiry does to the record (R10). -/
def TimeUnit.pulseMissing (now : Nat) (t : TimeUnit) : TimeUnit :=
  let t := { t with missingDue := none }
  match t.state with
  | .locked => { t with state := .holdover, adj := t.integral, goodRun := 0, holdoverStart := some now,
                        holdoverDue := some (now + t.limit * 1000000) }
  | .acquiring => { t with state := .free, adj := t.integral, goodRun := 0 }
  | _ => t

/-- PULSE_MISSING_EXPIRY (R10): nothing unless the timer has reached its expiry. -/
def execPulseMissingExpiry (s : State) : Host.Outcome State Fault Refusal :=
  run (fun s => if dueBy s.now s.tu.missingDue then changeTime (TimeUnit.pulseMissing s.now) s else s) s

/-- HOLDOVER to FREE (R11). -/
def TimeUnit.endHoldover (t : TimeUnit) : TimeUnit :=
  if t.state = .holdover then { t with state := .free, holdoverStart := none, holdoverDue := none } else t

/-- HOLDOVER_EXPIRY (R11): nothing unless the timer has reached its expiry. -/
def execHoldoverExpiry (s : State) : Host.Outcome State Fault Refusal :=
  run (fun s => if dueBy s.now s.tu.holdoverDue then changeTime TimeUnit.endHoldover s else s) s

/-- A new holdover limit takes effect (R3, R11): in HOLDOVER the expiry moves, and one already passed takes
the Time Unit to FREE at once. -/
def setHoldoverLimit (limit : Nat) (s : State) : State :=
  let s := { s with tu := { s.tu with limit := limit } }
  match s.tu.state, s.tu.holdoverStart with
  | .holdover, some start =>
    let due := start + limit * 1000000
    if due < s.now then changeTime TimeUnit.endHoldover s
    else { s with tu := { s.tu with holdoverDue := some due } }
  | _, _ => s

/-! ## The time line -/

/-- TU forms the refresh of line 1 that a time-line read asks for (R18, R88). -/
def refreshTimeLine (s : State) : State :=
  formGroup [(s.controlLine + 1, some (timeLineOf s), .timeLine)] .nothing s

end Sys2Proof.Machine
end

