-- ==== Sys2Proof/Machine/Command.lean ====
section
/-! DEFINITION. The Command Unit: the records of the command blocks, issue, execution in order, completion
writes, and the commands that concern the Command Unit itself. -/

namespace Sys2Proof.Machine

/-! ## Issue (R87, R158) -/

/-- Whether a block counts as pending or executing for the tests of R87: in every state but IDLE (R157). -/
def Block.busy (b : Block) : Bool := b.state != .idle

/-- What a processor write to a command block is (R87). -/
inductive IssueVerdict where
  | issue | whileBusy | partialIssue | plain
  deriving DecidableEq, Repr

/-- The issue test (R87, R158). -/
def issueTest (b : Block) (w : WLine) : IssueVerdict :=
  match w.getD 1 none with
  | some tag =>
    if tag = b.lastTag then .plain
    else if b.busy then .whileBusy
    else if allEnabled w then .issue
    else .partialIssue
  | none => .plain

/-- A write's byte 3, if enabled, replaced with BUSY (R87). -/
def withBusy (w : WLine) : WLine := if enabledAt w 3 then w.set 3 (some 1) else w

/-- Bytes 3 to 7 of a block: status, error, overrun and remaining count (R161). -/
def statusBytes (e : ErrorCode) (overrun : Bool) (remaining : Nat) : List (Nat × List Byte) :=
  [(3, [e.status]), (4, [e.code]), (5, [flagByte overrun]), (6, leBytes 2 remaining)]

/-- A refresh write of bytes 3 to 7 with the completion's values (R161). -/
def refreshBlock (b : BlockNo) (s : State) : State :=
  let x := s.cmd.blocks[b]
  formGroup [(s.blockLine b, some (partLine (statusBytes x.error x.overrun x.remaining)), .refresh b)] .nothing s

/-- A processor write to a command block at its grant (R87, R158, R161): the state after, and the line as it
goes to memory. -/
def blockWrite (b : BlockNo) (w : WLine) (s : State) : State × WLine :=
  let x := s.cmd.blocks[b]
  let refresh := fun (s : State) => if x.state = .closing then refreshBlock b s else s
  match issueTest x w with
  | .issue =>
    let w' := withBusy w
    let s := s.updBlock b (fun x => { x with state := .pending, lastTag := (w.getD 1 none).getD 0,
                                             copy := lineBytes w' })
    ({ s with cmd := { s.cmd with pending := s.cmd.pending ++ [b] } }, w')
  | .whileBusy =>
    (refresh (s.updBlock b (fun x => { x with lastTag := (w.getD 1 none).getD 0, overrun := true })), withBusy w)
  | .partialIssue =>
    (formGroup [(s.blockLine b, some (partLine (statusBytes .badIssue false 0)), .completion b)] .nothing
      (s.updBlock b (fun x => { x with state := .closing, error := .badIssue, remaining := 0 })), w)
  | .plain =>
    if x.busy then (if enabledAt w 3 then refresh s else s, withBusy w) else (s, w)

/-! ## Execution and completion (R159, R161) -/

/-- The notify flag of an issuing copy. -/
def notifies (copy : List Byte) : Bool := (copy.getD 2 0).getLsbD 0

/-- A command ends: what it changed is written first, then its completion write is formed, and the block is
CLOSING (R161). -/
def complete (b : BlockNo) (e : ErrorCode) (remaining : Nat) (results : List (Nat × List Byte)) (s : State) : State :=
  let s := flush s
  let x := s.cmd.blocks[b]
  formGroup
    [(s.blockLine b, some (partLine (statusBytes e x.overrun remaining ++ results)), .completion b)]
    (if notifies x.copy then .commandDone else .nothing)
    (s.updBlock b (fun x => { x with state := .closing, error := e, remaining := remaining }))

/-- Memory has answered a completion or BAD_ISSUE write: the block is IDLE (R157). -/
def blockClosed (b : BlockNo) (s : State) : State :=
  s.updBlock b (fun x => if x.state = .closing then { x with state := .idle, overrun := false } else x)

/-- The oldest pending block's command is taken and carried out, when CMD carries out no other and the code is
the one asked about (R159). -/
def command (codes : Nat → Bool) (body : BlockNo → List Byte → State → State) (s : State) : State :=
  if s.isReady && s.cmd.exec.isNone then
    match s.cmd.pending with
    | b :: rest =>
      let copy := s.cmd.blocks[b].copy
      if codes (byteAt copy 0) then
        body b copy ({ s with cmd := { s.cmd with pending := rest } }.updBlock b (fun x => { x with state := .executing }))
      else s
    | [] => s
  else s

/-- What a command that completes as soon as it is applied ends with: its state, its error, its results. -/
abbrev Applied := State × ErrorCode × List (Nat × List Byte)

/-- A command that completes as soon as it is applied. Its parameters are the bytes from byte 16 on. -/
def immediate (code : Nat) (apply : List Byte → State → Applied) : State → State :=
  command (· == code) (fun b copy s =>
    let r := apply (copy.drop 16) s
    complete b r.2.1 0 r.2.2 r.1)

/-- A refused command changes nothing (R160). -/
def refuse (e : ErrorCode) (s : State) : Applied := (s, e, [])

/-- A command without results, applied. -/
def applied (s : State) : Applied := (s, .none, [])

/-- A command whose results begin at byte 24, applied: bytes 16 to 23 carry the parameters, and the rest of
bytes 24 to 63 is 0 (R162, R174). R174 says so of a read; for SET_TIME and LOOPBACK, which are no reads, it is the model's
choice (assumption 25). The fields' offsets count from byte 24. -/
def withResults (params : List Byte) (fields : List (Nat × List Byte)) (s : State) : Applied :=
  (s, .none, [(16, params.take 8 ++ layout 40 fields)])

/-- The number of commands (12.6). -/
def commandCount : Nat := 22

/-- BAD_COMMAND (R159): a code that names no command ends at once. -/
def execBadCommand (s : State) : Host.Outcome State Fault Refusal :=
  run (command (fun c => c == 0 || decide (commandCount < c)) (fun b _ s => complete b .badCommand 0 [] s)) s

/-! ## SET_NOTIFY -/

/-- SET_NOTIFY (R165): the enable set is replaced; flags beyond the nine are ignored. -/
def setNotify (p : List Byte) (s : State) : Applied :=
  applied { s with cmd := { s.cmd with enables := BitVec.ofNat 9 (field p 0 2) } }

/-- SET_NOTIFY (R165). -/
def execSetNotify (s : State) : Host.Outcome State Fault Refusal := run (immediate 11 setNotify) s

/-! ## Lists (R160) -/

/-- The list pointer of an issuing copy: a 36-bit address. -/
def listPointer (copy : List Byte) : Nat := field copy 8 8 % 2 ^ 36

/-- CMD reads one line of a list. -/
def readList (line : Nat) (s : State) : State := formGroup [(line % 2 ^ 30, none, .listRead)] .nothing s

/-- The bytes of a list a line holds: from the list pointer on, in its first line. -/
def listBytes (copy : List Byte) (line : Nat) (data : List Byte) : List Byte :=
  if line = listPointer copy / 64 then data.drop (listPointer copy % 64) else data

/-- CMD carries out no command any more. -/
def endExec (s : State) : State := { s with cmd := { s.cmd with exec := none } }

/-- CMD goes on carrying out a command that waits. -/
def waitOn (e : Exec) (s : State) : State := { s with cmd := { s.cmd with exec := some e } }

end Sys2Proof.Machine
end

