-- ==== Sys2Proof/Machine/Settings.lean ====
section
/-! DEFINITION. The commands that configure: windows, ports, hops, paths, routes, the epoch and the time
settings. The checks are shared with the configuration image. -/

namespace Sys2Proof.Machine

/-- A number as an index of a bank, when it is one. -/
def indexOf (n v : Nat) : Option (Fin n) := if h : v < n then some ⟨v, h⟩ else none

/-! ## SET_WINDOW (R82) -/

/-- The entry a SET_WINDOW's parameters give (12.3, offsets less 16). Base and limit are taken as the 32-bit values
given: an entry left disabled is not checked against the 24 bits of a page number (assumption 16). -/
def windowOf (p : List Byte) : Window where
  enabled := byteAt p 1 ≠ 0
  base := field p 8 4
  limit := field p 12 4
  kind := WinKind.ofCode (p.getD 2 0)
  param := byteAt p 3
  readBlock := (p.getD 4 0).getLsbD 0
  writeBlock := (p.getD 4 0).getLsbD 1

/-- Whether two ranges share a page. -/
def Window.overlaps (a b : Window) : Bool := decide (a.base ≤ b.limit ∧ b.base ≤ a.limit)

/-- Whether some enabled entry other than `e` passes a test. -/
def otherEntry (s : State) (e : EntryNo) (test : Window → Bool) : Bool :=
  (List.finRange 16).any (fun i => i ≠ e && s.mi.windows[i].enabled && test s.mi.windows[i])

/-- Whether two enabled ranges may share a page (R82): two of kind GUARD may, and two whose codes name no kind, of
which no test speaks (assumption 16). -/
def WinKind.mayShare : WinKind → WinKind → Bool
  | .guard, .guard => true
  | .other _, .other _ => true
  | _, _ => false

/-- The fixed roles of entries 14 and 15: a SET_WINDOW may not re-place 14, the image may (R81, R82). -/
def roleRefused (image : Bool) (e : EntryNo) (w : Window) : Bool :=
  if e = 14 then !(image && w.enabled && w.kind == .control)
  else if e = 15 then !(w.enabled && w.kind == .descriptor)
  else false

/-- An enabled TRANSMIT or RECEIVE entry may be disabled and not changed (R82). -/
def windowInUse (old w : Window) : Bool :=
  old.enabled && (old.kind == .transmit || old.kind == .receive) &&
  !(old.base == w.base && old.limit == w.limit && old.kind == w.kind && old.param == w.param)

/-- The range and kind checks of an enabled entry (R82). A code that names no kind is tested by none of them (R174,
assumption 16). -/
def windowBad (s : State) (e : EntryNo) (w : Window) : Bool :=
  decide (16777215 < w.base ∨ 16777215 < w.limit ∨ w.limit < w.base) ||
  (match w.kind with
    | .transmit => decide (3 < w.param ∨ 8 < w.limit + 1 - w.base) ||
        otherEntry s e (fun x => x.kind == .transmit && x.param == w.param)
    | .receive => decide (7 < w.param ∨ w.param = s.ownSite.val ∨ 8 < w.limit + 1 - w.base) ||
        otherEntry s e (fun x => x.kind == .receive && x.param == w.param)
    | .control => decide (e ≠ 14 ∨ w.limit ≠ w.base)
    | .descriptor => decide (e ≠ 15 ∨ w.limit ≠ w.base)
    | .guard => false
    | .other _ => false) ||
  (e ≠ 14 && w.overlaps s.mi.windows[14]) ||
  otherEntry s e (fun x => w.overlaps x && !w.kind.mayShare x.kind)

/-- A TRANSMIT entry is not enabled while its ring has an open record outside the new range (R82). -/
def recordOutside (s : State) (w : Window) : Bool :=
  w.kind == .transmit &&
  s.cu.records.any (fun r => r.ring.val == w.param && decide (r.hdr / 64 < w.base ∨ w.limit < r.hdr / 64))

/-- The checks of SET_WINDOW, in order (R82). -/
def windowCheck (image : Bool) (e : EntryNo) (w : Window) (s : State) : ErrorCode :=
  if roleRefused image e w then .badParam
  else if windowInUse s.mi.windows[e] w then .notOff
  else if !w.enabled then .none
  else if windowBad s e w then .badParam
  else if recordOutside s w then .notOff
  else .none

/-- The entry is stored. -/
def storeWindow (e : EntryNo) (w : Window) (s : State) : State :=
  { s with mi := { s.mi with windows := updAt s.mi.windows e (fun _ => w) } }

/-- Whether an entry is an enabled one of a kind. -/
def Window.isOn (w : Window) (k : WinKind) : Bool := w.enabled && w.kind == k

/-- CU and RMU are told of a change of a TRANSMIT or RECEIVE entry (R81, R96, R109, R144). An enabled RECEIVE entry
stored with another value of its GUARD flags, all that R82 lets change, starts its ring again; stored as it stood it is
no change; and an enabled TRANSMIT entry's flags are handed to nobody (assumption 30). -/
def windowNotice (old w : Window) (s : State) : State :=
  let ring := Fin.ofNat 4 w.param
  let site := Fin.ofNat 8 w.param
  if old.isOn .transmit && !w.enabled then dropRing (Fin.ofNat 4 old.param) old s
  else if old.isOn .receive && !w.enabled then stopRxRing (Fin.ofNat 8 old.param) s
  else if w.isOn .transmit && !old.isOn .transmit then startRing ring w s
  else if w.isOn .receive && decide (old ≠ w) then startRxRing site w .ringStart s
  else s

/-- SET_WINDOW (R82). -/
def setWindow (p : List Byte) (s : State) : Applied :=
  match indexOf 16 (byteAt p 0) with
  | none => refuse .badParam s
  | some e =>
    let w := windowOf p
    match windowCheck false e w s with
    | .none => applied (windowNotice s.mi.windows[e] w (storeWindow e w s))
    | err => refuse err s

/-- SET_WINDOW (R82). -/
def execSetWindow (s : State) : Host.Outcome State Fault Refusal := run (immediate 1 setWindow) s

/-! ## SET_PORT (R20, R31, R33, R120) -/

/-- The kind a code names. -/
def portKindOf (c : Nat) : Option PortKind := if c = 1 then some .radio else if c = 2 then some .fibre else none

/-- Whether some path on a port is not OFF. -/
def portInUse (s : State) (k : PortNo) : Bool :=
  allPaths.any (fun p => s.paths[p].port == k && s.paths[p].state != .off)

/-- The range of a rate, in bytes per millisecond (R33). -/
def clampRate (v : Nat) : Nat := clampNat 1 1250000 v

/-- The settings of a port but its kind and chain, clamped (R31, R33, R120; offsets less 16). An image entry's rates
are all taken as given, none as left out; a FIBRE port keeps the step rates, and a RADIO port the FIBRE rate, that its
entry or command carries (assumption 31). -/
def setPortNumbers (k : PortNo) (p : List Byte) (s : State) : State :=
  (s.updPort k (fun x =>
    { x with
      timeoutMs := clampNat 1 1000 (field p 6 2)
      fibreRate := clampRate (field p 8 4)
      rates := (Vector.finRange 7).map (fun i => clampRate (field p (12 + 4 * i.val) 4)) })).updTx k (fun t =>
    { t with holdoffCode := min 7 (byteAt p 3), ceilingCode := min 3 (byteAt p 4) })

/-- A hop returned to UNKNOWN by a change of chain, with its new place (R20). -/
def rehop (place : Option (PortNo × Nat)) (h : HopNo) (s : State) : State :=
  noteHop s.hops[h].state h (s.updHop h (fun x => { x.unknown with place := place }))

/-- A chain is applied to a port (R20). -/
def applyChain (k : PortNo) (chain : List HopNo) (s : State) : State :=
  let s := overAll s.ports[k].chain (rehop none) s
  let s := overAll chain.zipIdx (fun x => rehop (some (k, x.2 + 1)) x.1) s
  s.updPort k (fun x => { x with chain := chain })

/-- A port's kind, chain and other settings are applied: a FIBRE port's chain is empty, and where no chain is
carried the chain stands and the running report timers follow the new timeout (R20, R31, R35). -/
def applyPort (k : PortNo) (kind : PortKind) (chain : Option (List HopNo)) (p : List Byte) (s : State) : State :=
  let s := setPortNumbers k p (s.updPort k (fun x => { x with kind := kind }))
  let chain := if kind = .fibre then some [] else chain
  recomputePort k (match chain with
    | some c => applyChain k c s
    | none => overAll s.ports[k].chain (moveReportTimer s.ports[k].timeoutMs) s)

/-- The hops a list of bytes names, when each is a hop number (R20). -/
def hopsOf : List Byte → Option (List HopNo)
  | [] => some []
  | b :: bs =>
    match indexOf 96 b.toNat, hopsOf bs with
    | some h, some hs => some (h :: hs)
    | _, _ => none

/-- The chain a list of bytes gives a port: every entry a hop, none twice, none of another port's chain; absent
when a check fails (R20). -/
def chainOf (k : PortNo) (bs : List Byte) (s : State) : Option (List HopNo) :=
  match hopsOf bs with
  | some hs =>
    if hs.Nodup ∧ hs.all (fun h => s.hops[h].place.all (fun x => x.1 == k)) then some hs else none
  | none => none

/-- SET_PORT as it is taken: refused, applied at once where it reads no list, or waiting on its list (R20). -/
def setPort (b : BlockNo) (copy : List Byte) (s : State) : State :=
  let p := copy.drop 16
  match indexOf 6 (byteAt p 0), portKindOf (byteAt p 1) with
  | some k, some kind =>
    if portInUse s k then complete b .notOff 0 [] s
    else if listPointer copy = 0 then complete b .none 0 [] (applyPort k kind none p s)
    else if 24 < byteAt p 2 then complete b .badParam 0 [] s
    else if kind = .fibre ∧ byteAt p 2 ≠ 0 then complete b .badParam 0 [] s
    else if byteAt p 2 = 0 then complete b .none 0 [] (applyPort k kind (some []) p s)
    else
      let line := listPointer copy / 64
      readList line (waitOn (.portList b line []) s)
  | _, _ => complete b .badParam 0 [] s

/-- SET_PORT (R20). -/
def execSetPort (s : State) : Host.Outcome State Fault Refusal := run (command (· == 2) setPort) s

/-- A line of SET_PORT's list has been answered (R20, R160). -/
def portListAnswer (b : BlockNo) (line : Nat) (bytes : List Byte) (ok : Bool) (data : List Byte) (s : State) : State :=
  let copy := s.cmd.blocks[b].copy
  let p := copy.drop 16
  if !ok then complete b .memoryError 0 [] (endExec s)
  else
    let bytes := bytes ++ listBytes copy line data
    if bytes.length < byteAt p 2 then readList (line + 1) (waitOn (.portList b (line + 1) bytes) s)
    else match indexOf 6 (byteAt p 0), portKindOf (byteAt p 1) with
      | some k, some kind =>
        match chainOf k (bytes.take (byteAt p 2)) s with
        | some c => complete b .none 0 [] (applyPort k kind (some c) p (endExec s))
        | none => complete b .badParam 0 [] (endExec s)
      | _, _ => complete b .badParam 0 [] (endExec s)

/-! ## SET_HOPS (R22, R23) -/

/-- The thresholds a record gives, stored (R22; 12.3). -/
def HopRec.configure (rec : List Byte) (h : HopRec) : HopRec :=
  h.setThresholds (signedField rec 2 2) (signedField rec 4 2) (byteAt rec 6) (byteAt rec 7)

/-- One record of SET_HOPS: why it is refused, or the state after (R23). -/
def applyHopRecord (rec : List Byte) (s : State) : ErrorCode × State :=
  match indexOf 96 (byteAt rec 0) with
  | none => (.badParam, s)
  | some h =>
    if s.hops[h].place.any (fun x => portInUse s x.1) then (.notOff, s)
    else (.none, changeHop h (fun x => (x.configure rec).unknown) s)

/-- The records that bytes hold are applied in list order, at most `left` of them: the state after, the bytes
not applied, the records left, and why it stopped, if it did (R23). -/
def applyHopRecords : Nat → List Byte → State → State × List Byte × Nat × ErrorCode
  | 0, bytes, s => (s, bytes, 0, .none)
  | left + 1, bytes, s =>
    if bytes.length < 8 then (s, bytes, left + 1, .none)
    else
      let r := applyHopRecord (bytes.take 8) s
      if r.1 = .none then applyHopRecords left (bytes.drop 8) r.2 else (s, bytes, left + 1, r.1)

/-- SET_HOPS as it is taken (R23). -/
def setHops (b : BlockNo) (copy : List Byte) (s : State) : State :=
  let count := min 96 (field copy 16 2)
  if count = 0 then complete b .none 0 [] s
  else
    let line := listPointer copy / 64
    readList line (waitOn (.hopList b line [] count) s)

/-- SET_HOPS (R23). -/
def execSetHops (s : State) : Host.Outcome State Fault Refusal := run (command (· == 3) setHops) s

/-- A line of SET_HOPS' list has been answered (R23, R160). -/
def hopListAnswer (b : BlockNo) (line : Nat) (bytes : List Byte) (left : Nat) (ok : Bool) (data : List Byte)
    (s : State) : State :=
  if !ok then complete b .memoryError left [] (endExec s)
  else
    let r := applyHopRecords left (bytes ++ listBytes s.cmd.blocks[b].copy line data) s
    if r.2.2.2 ≠ .none then complete b r.2.2.2 r.2.2.1 [] (endExec r.1)
    else if r.2.2.1 = 0 then complete b .none 0 [] (endExec r.1)
    else readList (line + 1) (waitOn (.hopList b (line + 1) r.2.1 r.2.2.1) r.1)

/-! ## SET_PATH, ENABLE_PATH, DISABLE_PATH (R38, R40, R41) -/

/-- The checks of SET_PATH after its path number, in order (R38). -/
def pathCheck (path : PathNo) (p : List Byte) (s : State) : ErrorCode :=
  if s.paths[path].state ≠ .off then .notOff
  else match indexOf 6 (byteAt p 1) with
    | none => .badParam
    | some k =>
      if 7 < byteAt p 2 ∨ byteAt p 2 = s.ownSite.val then .badParam
      else if byteAt p 3 = 0 ∧ s.ports[k].kind = .radio then .badParam
      else if s.ports[k].chain.length < byteAt p 3 then .badParam
      else .none

/-- The settings of a path, clamped; the estimator, the counters and the trailing lag are reset (R38). -/
def PathRec.configure (p : List Byte) (x : PathRec) : PathRec :=
  let a := clampNat 50 65535 (field p 6 2)
  { x with
    configured := true
    port := Fin.ofNat 6 (byteAt p 1)
    site := Fin.ofNat 8 (byteAt p 2)
    drop := byteAt p 3
    silence := clampNat 4 15 (byteAt p 4)
    shift := min 7 (byteAt p 5)
    normal := a
    fast := clampNat 20 a (field p 8 2)
    outlier := clampNat 1000 10000000 (field p 12 4)
    fadeUnit := min 1000000 (field p 16 4)
    seeded := false
    est := 0
    rttEst := 0
    method := none
    run := 0
    lag := none
    counters := PathCounters.zero }

/-- A path leaves the lists of the routes to other sites than its own, and those routes are evaluated (R61). -/
def unlistPath (p : PathNo) (s : State) : State :=
  overAll s.remotes (fun site s =>
    if site ≠ s.paths[p].site ∧ s.rs.routes[site].cands.contains p then
      evalRoute site (s.updRoute site (fun r =>
        { r with cands := r.cands.filter (· ≠ p), current := if r.current = some p then none else r.current }))
    else s) s

/-- SET_PATH (R38). -/
def setPath (p : List Byte) (s : State) : Applied :=
  match indexOf 16 (byteAt p 0) with
  | none => refuse .badParam s
  | some path =>
    match pathCheck path p s with
    | .none => applied (unlistPath path (recompute path (s.updPath path (PathRec.configure p))))
    | err => refuse err s

/-- SET_PATH (R38). -/
def execSetPath (s : State) : Host.Outcome State Fault Refusal := run (immediate 4 setPath) s

/-- Whether an OFF path may not be enabled (R40). -/
def enableRefused (path : PathNo) (s : State) : Bool :=
  let x := s.paths[path]
  !x.configured || decide (s.ports[x.port].chain.length < x.drop) ||
  (decide (x.drop = 0) && s.ports[x.port].kind == .radio) ||
  allPaths.any (fun q => q ≠ path && s.paths[q].state != .off && s.paths[q].port == x.port && s.paths[q].site == x.site)

/-- A path goes from OFF to DOWN, and R42's condition is evaluated (R40). -/
def enableOff (path : PathNo) (s : State) : State :=
  evalDown path (notifyPath false path (s.updPath path (fun x => { x with state := .down })))

/-- ENABLE_PATH (R40). -/
def enablePath (p : List Byte) (s : State) : Applied :=
  match indexOf 16 (byteAt p 0) with
  | none => refuse .badParam s
  | some path =>
    if s.paths[path].state ≠ .off then applied s
    else if enableRefused path s then refuse .badParam s
    else applied (enableOff path s)

/-- ENABLE_PATH (R40). -/
def execEnablePath (s : State) : Host.Outcome State Fault Refusal := run (immediate 5 enablePath) s

/-- DISABLE_PATH (R41). -/
def disablePath (p : List Byte) (s : State) : Applied :=
  match indexOf 16 (byteAt p 0) with
  | none => refuse .badParam s
  | some path =>
    if s.paths[path].state = .off then applied s
    else applied (notifyPath (s.paths[path].state == .up) path
      (withdrawProbe path (s.updPath path (PathRec.quiet .off))))

/-- DISABLE_PATH (R41). -/
def execDisablePath (s : State) : Host.Outcome State Fault Refusal := run (immediate 6 disablePath) s

/-! ## SET_ROUTE, SET_EPOCH (R60, R62) -/

/-- The dual mode a code names. -/
def dualModeOf (c : Nat) : Option DualMode :=
  if c = 0 then some .off else if c = 1 then some .onFade else if c = 2 then some .always else none

/-- The candidates a list of bytes names, when each is a path number. -/
def pathsOf : List Byte → Option (List PathNo)
  | [] => some []
  | b :: bs =>
    match indexOf 16 b.toNat, pathsOf bs with
    | some x, some xs => some (x :: xs)
    | _, _ => none

/-- A route's new list, dual mode and hysteresis; absent when a check fails (R60). -/
def routeSettings (site : Site) (p : List Byte) (s : State) : Option (List PathNo × DualMode × Nat) :=
  if byteAt p 1 < 1 ∨ 4 < byteAt p 1 then none
  else match pathsOf ((p.drop 2).take (byteAt p 1)), dualModeOf (byteAt p 6) with
    | some cands, some dual =>
      if cands.length = byteAt p 1 ∧ cands.Nodup ∧
          cands.all (fun c => s.paths[c].configured && s.paths[c].site == site) then
        some (cands, dual, min 1000000 (field p 8 4))
      else none
    | _, _ => none

/-- The site a byte names, when it is a remote one. -/
def remoteSite (s : State) (v : Nat) : Option Site :=
  (indexOf 8 v).bind (fun r => if r = s.ownSite then none else some r)

/-- A route's settings replaced; a current path not in the new list becomes absent (R60). -/
def RouteRec.configure (c : List PathNo × DualMode × Nat) (r : RouteRec) : RouteRec :=
  { r with cands := c.1, dual := c.2.1, hyst := c.2.2,
           current := if r.current.all (fun p => c.1.contains p) then r.current else none }

/-- SET_ROUTE (R60). -/
def setRoute (p : List Byte) (s : State) : Applied :=
  match remoteSite s (byteAt p 0) with
  | none => refuse .badParam s
  | some site =>
    match routeSettings site p s with
    | some c => applied (evalRoute site (s.updRoute site (RouteRec.configure c)))
    | none => refuse .badParam s

/-- SET_ROUTE (R60). -/
def execSetRoute (s : State) : Host.Outcome State Fault Refusal := run (immediate 7 setRoute) s

/-- SET_EPOCH (R62): 0 is refused; any other value becomes the epoch, and every route's numbering restarts. -/
def setEpoch (p : List Byte) (s : State) : Applied :=
  if field p 0 4 = 0 then refuse .badParam s
  else applied { s with rs := { s.rs with
    epoch := BitVec.ofNat 32 (field p 0 4)
    routes := s.rs.routes.map (fun r => { r with nextUrgent := 0, nextBulk := 0 }) } }

/-- SET_EPOCH (R62). -/
def execSetEpoch (s : State) : Host.Outcome State Fault Refusal := run (immediate 8 setEpoch) s

/-! ## SET_TIME, SET_TIMING (R14, R11, R141) -/

/-- UNSET becomes FREE (R14). -/
def TimeUnit.commanded (t : TimeUnit) : TimeUnit := if t.state = .unset then { t with state := .free } else t

/-- SET_TIME (R14): station time is stepped to V, and the result is its reading before the step. -/
def setTime (p : List Byte) (s : State) : Applied :=
  let v := field p 0 8
  let before := s.tu.station.toNat
  withResults p [(0, leBytes 8 before)]
    (changeTime TimeUnit.commanded (stepTime ((v : Int) - (before : Int)) s))

/-- SET_TIME (R14). -/
def execSetTime (s : State) : Host.Outcome State Fault Refusal := run (immediate 9 setTime) s

/-- The fourteen hole timeouts: remote sites ascending, urgent before bulk (12.3; offsets less 16). Timers that expire as
the command executes (R141) expire in that order, which orders their GAP records in a site's ring: the model's choice
(assumption 12). -/
def setHoleTimeouts (p : List Byte) (s : State) : State :=
  overAll s.remotes.zipIdx (fun x s =>
    setHoleTimeout x.1 .bulk (field p (4 + 6 * x.2 + 3) 3)
      (setHoleTimeout x.1 .urgent (field p (4 + 6 * x.2) 3) s)) s

/-- SET_TIMING (R11, R141). That the holdover limit, and an expiry it brings, goes ahead of the hole timeouts and theirs
is the model's choice: neither rule orders them (assumption 12). -/
def setTiming (p : List Byte) (s : State) : Applied :=
  applied (setHoleTimeouts p (setHoldoverLimit (clampNat 1 3600 (field p 0 2)) s))

/-- SET_TIMING (R11, R141). -/
def execSetTiming (s : State) : Host.Outcome State Fault Refusal := run (immediate 10 setTiming) s

/-! ## CLEAR_EXTREMES, RESYNC_SITE (R32, R155) -/

/-- CLEAR_EXTREMES (R32). -/
def execClearExtremes (s : State) : Host.Outcome State Fault Refusal :=
  run (immediate 18 (fun p s => applied (clearExtremes (min 95 (byteAt p 0)) (min 95 (byteAt p 1)) s))) s

/-- RESYNC_SITE (R155). -/
def resyncSite (p : List Byte) (s : State) : Applied :=
  match remoteSite s (byteAt p 0) with
  | none => refuse .badParam s
  | some site =>
    if byteAt p 1 = 1 then applied (resyncWindow site .urgent s)
    else if byteAt p 1 = 2 then applied (resyncWindow site .bulk s)
    else if byteAt p 1 = 3 then applied (resyncWindow site .bulk (resyncWindow site .urgent s))
    else refuse .badParam s

/-- RESYNC_SITE (R155). -/
def execResyncSite (s : State) : Host.Outcome State Fault Refusal := run (immediate 19 resyncSite) s

end Sys2Proof.Machine
end

