-- ==== Sys2Proof/Machine/Reads.lean ====
section
/-! DEFINITION. The read commands: the snapshots READ_PATH, READ_HOP, READ_ROUTE, READ_PORT, READ_TIME and
READ_GUARD write into their block (R162, 12.3). The offsets of results count from byte 24. -/

namespace Sys2Proof.Machine

/-! ## Fields whose content is not stated (assumption 7) -/

/-- Free value number `i` of this snapshot, as `n` bytes. -/
def freeBytes (s : State) (i n : Nat) : List Byte := leBytes n (Config.absentField (s.freeCount + i)).toNat

/-- A free bit. -/
def freeBit (s : State) (i : Nat) : Bool := (Config.absentField (s.freeCount + i)).getLsbD 0

/-- The values a snapshot may take are never taken again. -/
def spendFree (s : State) : State := { s with freeCount := s.freeCount + 16 }

/-- The bytes of a field when it is present, and free bytes otherwise. -/
def presentOr {α : Type} (s : State) (i n : Nat) (v : Option α) (bytes : α → List Byte) : List Byte :=
  match v with
  | some a => bytes a
  | none => freeBytes s i n

/-- The first entries of a list as bytes, and free bytes up to `n` of them. -/
def entriesOr (s : State) (i n : Nat) (l : List Byte) : List Byte := (l ++ freeBytes s i n).take n

/-- A byte of flags, bit 0 first. -/
def flagBits (l : List Bool) : Byte := BitVec.ofNat 8 ((l.zipIdx.map (fun b => if b.1 then 2 ^ b.2 else 0)).sum)

/-- A 32-bit counter's bytes. -/
def counterBytes (c : BitVec 32) : List Byte := leBytes 4 c.toNat

/-- The section a read names: one above the last is the last (R162). -/
def sectionOf (last : Nat) (p : List Byte) : Nat := min last (byteAt p 1)

/-! ## READ_PATH (R58) -/

/-- The method bit of a path: CLOCK or not, free while no sample gave a method. -/
def methodBit (s : State) (x : PathRec) : Bool :=
  match x.method with
  | some m => m == .clock
  | none => freeBit s 0

/-- Section 0 of a path's snapshot: configuration, state and estimator. -/
def pathSection0 (s : State) (x : PathRec) : List (Nat × List Byte) :=
  [(0, [x.state.code ||| flagBits [false, false, x.configured, s.link[x.port], x.seeded, x.method.isSome, methodBit s x]]),
   (1, leBytes 1 x.port.val), (2, leBytes 1 x.site.val), (3, leBytes 1 x.drop), (4, leBytes 2 x.normal),
   (6, leBytes 2 x.fast), (8, leBytes 1 x.silence), (9, leBytes 1 x.shift), (10, leBytes 4 x.outlier),
   (14, leBytes 4 x.fadeUnit), (18, leBytes 4 x.est), (22, leBytes 4 x.rttEst), (26, leBytes 1 x.run),
   (27, leBytes 1 x.outstanding.length), (28, entriesOr s 1 4 (x.outstanding.map (·.id))), (32, [x.nextId]),
   (33, leBytes 1 x.fading), (34, leBytes 4 x.rate)]

/-- Section 1: the nine counters, in the order of R57. -/
def PathCounters.bytes (c : PathCounters) : List Byte :=
  [c.sent, c.lost, c.replaced, c.unmatched, c.samples, c.invalid, c.outliers, c.reseeds, c.duplicates].flatMap
    counterBytes

/-- Section 2: the last trailing lag and the interval clock. -/
def pathSection2 (s : State) (x : PathRec) : List (Nat × List Byte) :=
  [(0, presentOr s 2 8 x.lag (fun l => leBytes 8 l.1.toNat)),
   (8, presentOr s 3 8 x.lag (fun l => leBytes 8 l.2.toNat)),
   (16, [flagByte x.lag.isSome]), (24, leBytes 8 s.now)]

/-- A section of a path's snapshot. -/
def pathSnapshot (s : State) (n : Nat) (x : PathRec) : List (Nat × List Byte) :=
  match n with
  | 0 => pathSection0 s x
  | 1 => [(0, x.counters.bytes)]
  | _ => pathSection2 s x

/-- READ_PATH (R58). -/
def readPath (p : List Byte) (s : State) : Applied :=
  match indexOf 16 (byteAt p 0) with
  | none => refuse .badParam s
  | some path => withResults p (pathSnapshot s (sectionOf 2 p) s.paths[path]) (spendFree s)

/-- READ_PATH (R58). -/
def execReadPath (s : State) : Host.Outcome State Fault Refusal := run (immediate 12 readPath) s

/-! ## READ_HOP (R36) -/

/-- The hop a number names, clamped into 0 to 95. -/
def hopNamed (v : Nat) : HopNo := Fin.ofNat 96 (min 95 v)

/-- A hop's snapshot. -/
def hopSnapshot (s : State) (h : HopNo) : List (Nat × List Byte) :=
  let x := s.hops[h]
  let extreme := fun (v : Int) => if x.extremes then some v else none
  [(0, match x.place with
      | some (k, pos) => leBytes 1 k.val ++ leBytes 1 pos
      | none => 0xFF :: freeBytes s 0 1),
   (2, leSigned 2 x.fade), (4, leSigned 2 x.down), (6, leSigned 1 x.hyst), (7, leBytes 1 x.debounce),
   (8, [x.state.code]), (9, leBytes 1 x.count), (10, presentOr s 1 2 x.last (leSigned 2)),
   (12, presentOr s 2 2 (extreme x.minLevel) (leSigned 2)), (14, presentOr s 3 2 (extreme x.maxLevel) (leSigned 2)),
   (16, [flagBits [x.last.isSome, x.extremes, x.lastReport.isSome]]), (17, leBytes 1 x.step),
   (18, leBytes 4 (hopRate s h)), (24, presentOr s 4 8 x.lastReport (leBytes 8)), (32, leBytes 8 s.now)]

/-- READ_HOP (R36). -/
def readHop (p : List Byte) (s : State) : Applied :=
  withResults p (hopSnapshot s (hopNamed (byteAt p 0))) (spendFree s)

/-- READ_HOP (R36). -/
def execReadHop (s : State) : Host.Outcome State Fault Refusal := run (immediate 13 readHop) s

/-! ## READ_ROUTE (R77) -/

/-- Section 0 of a route's snapshot. -/
def routeSection0 (s : State) (r : RouteRec) : List (Nat × List Byte) :=
  [(0, leBytes 1 r.cands.length), (1, entriesOr s 0 4 (r.cands.map (fun p => BitVec.ofNat 8 p.val))),
   (5, [r.dual.code]), (6, match r.current with | some p => leBytes 1 p.val | none => [0xFF]),
   (7, [flagByte r.live]), (8, leBytes 4 r.hyst), (12, counterBytes s.rs.epoch), (16, counterBytes r.nextUrgent),
   (20, counterBytes r.nextBulk), (24, entriesOr s 1 4 (r.cands.map (fun p => s.paths[p].state.code)))]

/-- Section 1: the seven counters, in the order of R76. -/
def RouteCounters.bytes (c : RouteCounters) : List Byte :=
  [c.placed, c.switches, c.fallbacks, c.duals, c.refused, c.rerouted, c.flushed].flatMap counterBytes

/-- The estimate of one candidate, for an urgent message of 64 payload bytes: 0 unless it is UP (R77). -/
def estimateOf (s : State) (p : PathNo) : Nat := if s.paths[p].state = .up then arrival s .urgent 64 p else 0

/-- Section 2: the candidates' estimates, with a flag for each that is present. -/
def routeSection2 (s : State) (r : RouteRec) : List (Nat × List Byte) :=
  [(0, (r.cands.flatMap (fun p => leBytes 8 (estimateOf s p)) ++
      (List.range 4).flatMap (fun i => freeBytes s (2 + i) 8)).take 32),
   (32, [flagBits (r.cands.map (fun p => s.paths[p].state == .up))])]

/-- A section of a route's snapshot. -/
def routeSnapshot (s : State) (n : Nat) (r : RouteRec) : List (Nat × List Byte) :=
  match n with
  | 0 => routeSection0 s r
  | 1 => [(0, r.counters.bytes)]
  | _ => routeSection2 s r

/-- READ_ROUTE (R77). -/
def readRoute (p : List Byte) (s : State) : Applied :=
  match remoteSite s (byteAt p 0) with
  | none => refuse .badParam s
  | some site => withResults p (routeSnapshot s (sectionOf 2 p) s.rs.routes[site]) (spendFree s)

/-- READ_ROUTE (R77). -/
def execReadRoute (s : State) : Host.Outcome State Fault Refusal := run (immediate 14 readRoute) s

/-! ## READ_PORT (R128, R138) -/

/-- Section 0 of a port's snapshot: its settings. -/
def portSection0 (s : State) (k : PortNo) : List (Nat × List Byte) :=
  let x := s.ports[k]
  [(0, [x.kind.code]), (1, leBytes 1 x.chain.length), (2, leBytes 2 x.timeoutMs), (4, [flagByte s.link[k]]),
   (5, leBytes 1 s.tx[k].holdoffCode), (6, leBytes 1 s.tx[k].ceilingCode),
   (8, match x.kind with
      | .radio => x.rates.toList.flatMap (leBytes 4)
      | .fibre => leBytes 4 x.fibreRate)]

/-- Section 1: the transmitter's state. -/
def portSection1 (s : State) (k : PortNo) : List (Nat × List Byte) :=
  let t := s.tx[k]
  [(0, [t.state.code]), (1, leBytes 1 t.urgent.length), (2, leBytes 1 t.bulk.length),
   (3, [flagBits [t.probe.isSome, t.probeBack.isSome]]),
   (4, [flagBits [t.ctx.isSome, t.ctx.any (fun c => c.since.isSome)]]),
   (5, presentOr s 0 1 t.ctx (fun c => [c.id])), (6, presentOr s 1 1 t.ctx (fun c => leBytes 1 c.next)),
   (7, presentOr s 2 1 t.ctx (fun c => leBytes 1 c.frame.count)),
   (8, presentOr s 3 8 t.ctx (fun c => leBytes 8 c.suspended)), (16, [t.bulkId])]

/-- Section 2: the transmitter's eight counters. -/
def TxCounters.bytes (c : TxCounters) : List Byte :=
  [c.urgentSent, c.bulkSent, c.fragments, c.suspensions, c.ceilingHolds, c.aborts, c.displaced, c.dropped].flatMap
    counterBytes

/-- Section 3: the receiver's ten counters. -/
def RxCounters.bytes (c : RxCounters) : List Byte :=
  [c.good, c.crc, c.length, c.misdirected, c.unknownPath, c.breaks, c.bulk, c.answered, c.testDiscards,
   c.aborted].flatMap counterBytes

/-- A section of a port's snapshot. -/
def portSnapshot (s : State) (n : Nat) (k : PortNo) : List (Nat × List Byte) :=
  match n with
  | 0 => portSection0 s k
  | 1 => portSection1 s k
  | 2 => [(0, s.tx[k].counters.bytes)]
  | _ => [(0, s.rx[k].counters.bytes)]

/-- READ_PORT (R128). -/
def readPort (p : List Byte) (s : State) : Applied :=
  match indexOf 6 (byteAt p 0) with
  | none => refuse .badParam s
  | some k => withResults p (portSnapshot s (sectionOf 3 p) k) (spendFree s)

/-- READ_PORT (R128). -/
def execReadPort (s : State) : Host.Outcome State Fault Refusal := run (immediate 15 readPort) s

/-! ## READ_TIME (R17) -/

/-- The 18-bit two's-complement field of I and of adj. -/
def ppbField (v : Int) : Nat := (v % (2 ^ 18 : Nat)).toNat

/-- The Time Unit's snapshot; offsets count from byte 16 (12.3). -/
def timeSnapshot (s : State) : List (Nat × List Byte) :=
  let t := s.tu
  [(0, leBytes 8 t.station.toNat), (8, leBytes 8 s.now), (16, leBytes 8 (t.lastPulse.getD 0)),
   (24, leSigned 8 t.lastError),
   (32, leBytes 6 (ppbField t.integral + 2 ^ 18 * ppbField t.adj + 2 ^ 36 * t.limit)),
   (38, counterBytes t.steps),
   (42, leBytes 1 (t.state.code.toNat + (if s.traceable then 8 else 0) + 16 * t.goodRun)),
   (43, leBytes 5 (t.annSeconds % 2 ^ 35 + (if t.annValid then 2 ^ 35 else 0) +
      (if t.lastPulse.isSome then 2 ^ 36 else 0)))]

/-- READ_TIME (R17): its results fill bytes 16 to 63. -/
def readTime (_ : List Byte) (s : State) : Applied := (s, .none, [(16, layout 48 (timeSnapshot s))])

/-- READ_TIME (R17). -/
def execReadTime (s : State) : Host.Outcome State Fault Refusal := run (immediate 16 readTime) s

/-! ## READ_GUARD (R84) -/

/-- The guard violation record's snapshot. -/
def guardSnapshot (s : State) : List (Nat × List Byte) :=
  [(0, presentOr s 0 8 s.mi.violation (fun v => leBytes 8 (v.line * 64))),
   (8, [flagBits [s.mi.violation.isSome, (s.mi.violation.map (·.write)).getD (freeBit s 1)]]),
   (9, presentOr s 2 1 s.mi.violation (fun v => [v.reason.code])),
   (10, presentOr s 3 1 s.mi.violation (fun v => leBytes 1 v.entry.val)), (12, counterBytes s.mi.violations)]

/-- READ_GUARD (R84): the first violation is made absent, and the count is kept. -/
def readGuard (p : List Byte) (s : State) : Applied :=
  withResults p (guardSnapshot s) { spendFree s with mi := { s.mi with violation := none } }

/-- READ_GUARD (R84). -/
def execReadGuard (s : State) : Host.Outcome State Fault Refusal := run (immediate 17 readGuard) s

end Sys2Proof.Machine
end

