-- ==== Sys2Proof/Machine/Loopback.lean ====
section
/-! DEFINITION. The loopback test of a port (R126, R139, R140). -/

namespace Sys2Proof.Machine

/-- The result of a loopback test (12.6). -/
inductive LoopResult where
  | pass | noLink | noReturn | crcErrors | mismatch
  deriving DecidableEq, Repr

/-- Its code (12.6). -/
def LoopResult.code : LoopResult → Byte
  | .pass => 1 | .noLink => 2 | .noReturn => 3 | .crcErrors => 4 | .mismatch => 5

/-- The result of a test that ends, by the first row of R140's table that applies. -/
def Loopback.result (linkLost : Bool) (l : Loopback) : LoopResult :=
  if linkLost then .noLink
  else if 16 ≤ l.returned then .pass
  else if 1 ≤ l.mismatched then .mismatch
  else if 1 ≤ l.crcErrors then .crcErrors
  else .noReturn

/-- The loop time, when frame 0 was seen to leave and to return. -/
def Loopback.loopTime (l : Loopback) : Option (BitVec 64) :=
  match l.egress0, l.arrival0 with
  | some e, some a => some (a - e)
  | _, _ => none

/-- The loop time's field: 0 with no good return (R140). -/
def loopTimeBytes (s : State) (l : Loopback) : List Byte :=
  if l.returned = 0 then leBytes 8 0 else presentOr s 0 8 l.loopTime (fun t => leBytes 8 t.toNat)

/-- The results of a test; offsets count from byte 24 (12.3). -/
def loopResults (s : State) (linkLost : Bool) (l : Loopback) : List (Nat × List Byte) :=
  [(0, [(l.result linkLost).code]), (1, [s.cmd.runNo]), (2, leBytes 1 l.sent), (3, leBytes 1 l.returned),
   (4, leBytes 1 l.mismatched), (6, leBytes 2 l.crcErrors), (8, [flagByte (decide (1 ≤ l.returned))]),
   (16, loopTimeBytes s l)]

/-- The test ends: the loop request is released, the timer stops, and the command completes DONE (R140). -/
def endLoop (b : BlockNo) (l : Loopback) (linkLost : Bool) (s : State) : State :=
  let r := withResults (s.cmd.blocks[b].copy.drop 16) (loopResults s linkLost l) (spendFree (endExec s))
  complete b r.2.1 0 r.2.2 r.1

/-- The loop-request line of a port is asserted while its test runs (R139). -/
def State.loopRequest (s : State) (k : PortNo) : Bool :=
  match s.cmd.exec with
  | some (.loopback _ l) => l.port == k
  | _ => false

/-- TEST frame `i` of the present run joins the urgent queue at the tail (R126, R113). -/
def handTest (k : PortNo) (i : Nat) (s : State) : State :=
  if s.tx[k].urgent.length < urgentCapacity then
    s.updTx k (fun t => { t with urgent := t.urgent ++ [.test s.cmd.runNo i] })
  else s

/-- A new test's context: the counts are 0 and the 10 ms timer runs. -/
def freshLoop (k : PortNo) (now : Nat) : Loopback where
  port := k
  nextSend := 1
  expected := 0
  sent := 0
  returned := 0
  mismatched := 0
  crcErrors := 0
  egress0 := none
  arrival0 := none
  due := now + 10000

/-- LOOPBACK as it is taken (R139). -/
def loopback (b : BlockNo) (copy : List Byte) (s : State) : State :=
  match indexOf 6 (byteAt copy 16) with
  | none => complete b .badParam 0 [] s
  | some k =>
    if portInUse s k then complete b .notOff 0 [] s
    else
      let s := { s with cmd := { s.cmd with runNo := s.cmd.runNo + 1 } }
      let l := freshLoop k s.now
      if s.link[k] then lineChoice k (handTest k 0 (waitOn (.loopback b l) s))
      else endLoop b l true s

/-- LOOPBACK (R139). -/
def execLoopback (s : State) : Host.Outcome State Fault Refusal := run (command (· == 20) loopback) s

/-- A TEST frame's completion raises the sent count, and the next frame is handed (R139). -/
def testSent (k : PortNo) (run : Byte) (s : State) : State :=
  match s.cmd.exec with
  | some (.loopback b l) =>
    if l.port = k ∧ run = s.cmd.runNo then
      let l' := { l with sent := l.sent + 1 }
      if l.nextSend < 16 then
        handTest k l.nextSend (waitOn (.loopback b { l' with nextSend := l.nextSend + 1 }) s)
      else waitOn (.loopback b l') s
    else s
  | _ => s

/-- A test discard (R137, R139). -/
def testDiscard (k : PortNo) (s : State) : State :=
  s.updRx k (fun r => { r with counters := { r.counters with testDiscards := r.counters.testDiscards + 1 } })

/-- A TEST frame of the present run is judged by its index and its pattern (R139). -/
def Loopback.returnedFrame (run : Byte) (index : Nat) (pattern : List Byte) (arrival : Stamp) (l : Loopback) :
    Loopback :=
  if index = l.expected ∧ pattern = testPattern run index then
    { l with returned := l.returned + 1, expected := l.expected + 1,
             arrival0 := if index = 0 then some arrival else l.arrival0 }
  else { l with mismatched := l.mismatched + 1 }

/-- A good TEST frame (R137, R139): the sixteenth good return ends the test. -/
def testArrived (k : PortNo) (run : Byte) (index : Nat) (pattern : List Byte) (arrival : Stamp) (s : State) : State :=
  match s.cmd.exec with
  | some (.loopback b l) =>
    if l.port = k ∧ run = s.cmd.runNo then
      let l := l.returnedFrame run index pattern arrival
      if 16 ≤ l.returned then endLoop b l false s else waitOn (.loopback b l) s
    else testDiscard k s
  | _ => testDiscard k s

/-- A CRC error the receiver of the port under test counts (R139). -/
def testCrcError (k : PortNo) (s : State) : State :=
  match s.cmd.exec with
  | some (.loopback b l) =>
    if l.port = k then waitOn (.loopback b { l with crcErrors := l.crcErrors + 1 }) s else s
  | _ => s

/-- A link loss of the port under test ends the test with NO_LINK (R139). A TEST frame of an earlier run removed from
another port is no report for this test (assumption 18). -/
def testLinkLost (k : PortNo) (s : State) : State :=
  match s.cmd.exec with
  | some (.loopback b l) => if l.port = k then endLoop b l true s else s
  | _ => s

/-- LOOPBACK_TIMER_EXPIRY (R140): nothing unless a test's timer has reached its expiry. -/
def execLoopbackTimerExpiry (s : State) : Host.Outcome State Fault Refusal :=
  run (fun s =>
    match s.cmd.exec with
    | some (.loopback b l) => if l.due ≤ s.now then endLoop b l false s else s
    | _ => s) s

end Sys2Proof.Machine
end

