-- ==== Sys2Proof/Machine/Receive.lean ====
section
/-! DEFINITION. The Frame Receivers: reception, the judging of frames, reassembly, and what each kind brings
(8.2 to 8.6); and the completion of what a port transmits. -/

namespace Sys2Proof.Machine

/-! ## FRAME_RECEPTION_START (R129) -/

/-- The first byte of a frame: the receiver takes the arrival stamp and the traceable flag. Nothing is received
while the link flag is lost. -/
def frameReceptionStart (k : PortNo) (s : State) : State :=
  if s.isReady && s.link[k] && s.rx[k].reception.isNone then
    s.updRx k (fun r => { r with reception := some (s.tu.station, s.traceable) })
  else s

/-- FRAME_RECEPTION_START (R129). -/
def execFrameReceptionStart (k : PortNo) (s : State) : Host.Outcome State Fault Refusal :=
  run (frameReceptionStart k) s

/-! ## Counters -/

/-- A change of a receiver's counters. -/
def countRx (k : PortNo) (f : RxCounters → RxCounters) (s : State) : State :=
  s.updRx k (fun r => { r with counters := f r.counters })

/-- One unknown path (R132, R133, R135). -/
def unknownPath (k : PortNo) (s : State) : State := countRx k (fun c => { c with unknownPath := c.unknownPath + 1 }) s

/-! ## Reassembly (R133, R134) -/

/-- T, the bytes a run of bulk messages takes. -/
def bulkTotal (lengths : List Nat) : Nat := (lengths.map (8 + ·)).sum

/-- The header check of a fragment 0 (R133). -/
def Fragment.opens (f : Fragment) : Bool :=
  let lengths := f.lengths.take f.count
  decide (1 ≤ f.count ∧ f.count ≤ 8) && lengths.all (fun n => decide (1 ≤ n ∧ n ≤ 96)) &&
  decide (bulkTotal lengths ≤ 1024)

/-- Whether a fragment that follows `got` bytes of a frame of `total` is a break: a short fragment that is not
the last, or bytes past T (R133). -/
def Fragment.breaks (f : Fragment) (got total : Nat) : Bool :=
  (!f.last && decide (f.payload.length ≠ 64)) || decide (total < got + f.payload.length)

/-- What a fragment makes of a port's context: the context after, the breaks counted, and the context a
completed frame is unpacked from. -/
structure Rejoined where
  ctx : Option Reassembly
  breaks : Nat
  whole : Option Reassembly
  deriving DecidableEq, Repr

/-- A context a fragment has extended or opened: a fragment flagged last completes it, or breaks it when the
bytes are not T (R134). -/
def Reassembly.close (c : Reassembly) (last : Bool) (breaks : Nat) : Rejoined :=
  if last then
    if c.bytes.length = bulkTotal c.lengths then ⟨none, breaks, some c⟩ else ⟨none, breaks + 1, none⟩
  else ⟨some c, breaks, none⟩

/-- The context a fragment 0 opens (R133). -/
def openContext (src : Site) (path : PathNo) (arrival : Stamp) (f : Fragment) : Reassembly where
  site := src
  path := path
  id := f.id
  next := 1
  arrival := arrival
  lengths := f.lengths.take f.count
  copies := f.copies
  bytes := f.payload

/-- A good fragment with a path of the frame acts on the context (R133). A fragment 0 that is itself a break counts
one, whether or not it found a context open (assumption 19). -/
def rejoin (src : Site) (path : PathNo) (arrival : Stamp) (f : Fragment) (ctx : Option Reassembly) : Rejoined :=
  if f.index = 0 then
    let c := openContext src path arrival f
    if f.opens && !f.breaks 0 (bulkTotal c.lengths) then c.close f.last (if ctx.isSome then 1 else 0)
    else ⟨none, 1, none⟩
  else match ctx with
    | some c =>
      if c.site = src ∧ c.id = f.id ∧ f.index = c.next ∧ !f.breaks c.bytes.length (bulkTotal c.lengths) then
        { c with bytes := c.bytes ++ f.payload, next := c.next + 1, path := path }.close f.last 0
      else ⟨none, 1, none⟩
    | none => ⟨none, 1, none⟩

/-- The messages of a whole bulk frame from number `i` on (R134). -/
def unpack (c : Reassembly) : Nat → List Nat → List Byte → List Arrived
  | _, [], _ => []
  | i, n :: ns, bs =>
    { site := c.site, cls := .bulk, epoch := BitVec.ofNat 32 (field bs 0 4), seq := BitVec.ofNat 32 (field bs 4 4),
      copy := flagByte (c.copies.getLsbD i), capture := none, payload := (bs.drop 8).take n, arrival := c.arrival,
      path := c.path } :: unpack c (i + 1) ns (bs.drop (8 + n))

/-- A good BULK-FRAG frame (R133, R134). -/
def fragmentArrived (k : PortNo) (src : Site) (arrival : Stamp) (f : Fragment) (s : State) : State :=
  match pathOfFrame s k src.val with
  | none => unknownPath k s
  | some p =>
    let r := rejoin src p arrival f s.rx[k].ctx
    let s := s.updRx k (fun x =>
      { x with ctx := r.ctx
               counters := { x.counters with breaks := x.counters.breaks + BitVec.ofNat 32 r.breaks
                                             bulk := if r.whole.isSome then x.counters.bulk + 1 else x.counters.bulk } })
    match r.whole with
    | some c => overAll (unpack c 0 c.lengths c.bytes) messageArrived s
    | none => s

/-! ## The other kinds -/

/-- A good MSG frame (R132). -/
def msgArrived (k : PortNo) (src : Site) (arrival : Stamp) (copy : Byte) (epoch seq : BitVec 32) (capture : Stamp)
    (payload : List Byte) (s : State) : State :=
  match pathOfFrame s k src.val with
  | none => unknownPath k s
  | some p =>
    messageArrived { site := src, cls := .urgent, epoch, seq, copy, capture := some capture, payload, arrival, path := p } s

/-- A good PROBE is answered (R135). -/
def probeArrived (k : PortNo) (src : Site) (arrival : Stamp) (id : Byte) (s : State) : State :=
  match pathOfFrame s k src.val with
  | none => unknownPath k s
  | some _ => placeProbeBack k ⟨src, id, arrival⟩ (countRx k (fun c => { c with answered := c.answered + 1 }) s)

/-- A good frame is dealt with by its kind, after the heard notice that is due (R131 to R137). -/
def dispatchFrame (k : PortNo) (arrival : Stamp) (here : Bool) (f : Frame) (s : State) : State :=
  let src : Site := Fin.ofNat 8 f.src.toNat
  match f.body with
  | .msg copy epoch seq capture payload =>
    msgArrived k src arrival copy epoch seq capture payload (heardNotice k src.val s)
  | .bulk frag => fragmentArrived k src arrival frag (heardNotice k src.val s)
  | .probe id => probeArrived k src arrival id (heardNotice k src.val s)
  | .probeBack id remote t2 t3 =>
    probeBackArrived k src.val id remote t2 t3 arrival here (heardNotice k src.val s)
  | .hopstat entries => hopstatArrived k entries s
  | .test run index pattern => testArrived k run index pattern arrival s

/-- A frame judged at its last byte (R129, R130). -/
def frameJudged (k : PortNo) (arrival : Stamp) (here : Bool) (bytes : List Byte) (s : State) : State :=
  match judge s.ownSite bytes with
  | .lengthError => countRx k (fun c => { c with length := c.length + 1 }) s
  | .crcError => testCrcError k (countRx k (fun c => { c with crc := c.crc + 1 }) s)
  | .misdirected => countRx k (fun c => { c with misdirected := c.misdirected + 1 }) s
  | .good f => dispatchFrame k arrival here f (countRx k (fun c => { c with good := c.good + 1 }) s)

/-- The last byte of the frame in reception is received (R129). -/
def frameArrival (k : PortNo) (bytes : List Byte) (s : State) : State :=
  match s.rx[k].reception with
  | some (arrival, here) =>
    let s := s.updRx k (fun r => { r with reception := none })
    if s.isReady && s.link[k] then frameJudged k arrival here bytes s else s
  | none => s

/-- FRAME_ARRIVAL (R129). -/
def execFrameArrival (k : PortNo) (bytes : List Byte) (s : State) : Host.Outcome State Fault Refusal :=
  run (frameArrival k bytes) s

/-! ## FRAME_COMPLETE (R122) -/

/-- What a completion brings, by what was on the line. -/
def itemDone (k : PortNo) (item : LineItem) (s : State) : State :=
  match item with
  | .probeBack .. => lineChoice k (clearLine k s)
  | .probe .. => lineChoice k (clearLine k s)
  | .msg m =>
    lineChoice k (reportSent m ((clearLine k s).updTx k (fun t =>
      { t with counters := { t.counters with urgentSent := t.counters.urgentSent + 1 } })))
  | .test run _ => lineChoice k (testSent k run (clearLine k s))
  | .frag f _ i abandoned => fragmentDone k f i abandoned s

/-- The last byte leaves the port: nothing unless something is in transmission. -/
def frameComplete (k : PortNo) (s : State) : State :=
  match s.tx[k].line with
  | some (item, _) => itemDone k item s
  | none => s

/-- FRAME_COMPLETE (R122). -/
def execFrameComplete (k : PortNo) (s : State) : Host.Outcome State Fault Refusal := run (frameComplete k) s

/-! ## LINK_UP, LINK_LOST (R45, R125, R138) -/

/-- The terminal's indication: an input. -/
def setInput (k : PortNo) (up : Bool) (s : State) : State := { s with linkInput := updAt s.linkInput k (fun _ => up) }

/-- The link flag changes; the summary mirror's byte is stale and PATH_CHANGE is raised (R45). -/
def changeLink (k : PortNo) (up : Bool) (s : State) : State :=
  raise .pathChange (markStale .summary { s with link := updAt s.link k (fun _ => up) })

/-- A link-up event: before ready only the indication changes. The link flag is up before the paths are evaluated
(assumption 12). -/
def linkUp (k : PortNo) (s : State) : State :=
  let s := setInput k true s
  if s.isReady && !s.link[k] then lineChoice k (evalPort k (changeLink k true s)) else s

/-- LINK_UP (R45, R125). -/
def execLinkUp (k : PortNo) (s : State) : Host.Outcome State Fault Refusal := run (linkUp k) s

/-- The link loss at the receiver: the frame in reception and the reassembly context are discarded, and one
aborted reception is counted if a frame was under way (R138). -/
def linkLostRx (k : PortNo) (s : State) : State :=
  s.updRx k (fun r =>
    { r with ctx := none, reception := none
             counters := if r.reception.isSome then { r.counters with aborted := r.counters.aborted + 1 }
                         else r.counters })

/-- A link-lost event: at the transmitter, the receiver, the loopback test, then the Path Monitor; before ready
only the indication changes. -/
def linkLost (k : PortNo) (s : State) : State :=
  let s := setInput k false s
  if s.isReady && s.link[k] then
    downPort k (testLinkLost k (linkLostRx k (linkLostTx k (changeLink k false s))))
  else s

/-- LINK_LOST (R45, R125, R138). -/
def execLinkLost (k : PortNo) (s : State) : Host.Outcome State Fault Refusal := run (linkLost k) s

end Sys2Proof.Machine
end

