-- ==== Sys2Proof/WellFormed.lean ====
section
/-! DEFINITION. Which commands the ports can carry at all. -/

namespace Sys2Proof

/-- The number of lines of the 36-bit station memory. -/
def memoryLines : Nat := 2 ^ 30

/-- The first line of a request. -/
def MemReq.first : MemReq → Nat
  | .read l _ => l
  | .write l _ => l

/-- The number of lines of a request. -/
def MemReq.count : MemReq → Nat
  | .read _ n => n
  | .write _ ls => ls.length

/-- A request is of 1 to 4 lines (R78). -/
def MemReq.countOk (r : MemReq) : Bool := decide (1 ≤ r.count ∧ r.count ≤ 4)

/-- A request lies in the 36-bit address space. -/
def MemReq.inSpace (r : MemReq) : Bool := decide (r.first + r.count ≤ memoryLines)

/-- Each written line is 64 bytes, enabled or not (R78). -/
def MemReq.linesOk : MemReq → Bool
  | .read _ _ => true
  | .write _ ls => ls.all (fun l => l.length == 64)

/-- A request the requester port can carry. -/
def MemReq.wellFormed (r : MemReq) : Bool := r.countOk && r.inSpace && r.linesOk

/-- A command the block's ports can carry: a well-formed request; a response of whole lines. -/
def Instr.wellFormed : Instr → Bool
  | .request r => r.wellFormed
  | .forwardedResponse _ data => decide (data.length ≤ 4) && data.all (fun l => l.length == 64)
  | .ownResponse _ data => data.isEmpty || data.length == 64
  | _ => true

end Sys2Proof
end

