-- ==== Sys2Proof/Machine/Memory.lean ====
section
/-! DEFINITION. The Memory Interposer: requests taken, classified, treated by kind, held and granted, and the
answers to the processor (chapter 5). -/

namespace Sys2Proof

/-! ## The lines of a request -/

/-- The lines of a request from its `n`th on. -/
def MemReq.from (n : Nat) : MemReq → MemReq
  | .read l c => .read (l + n) (c - n)
  | .write l ls => .write (l + n) (ls.drop n)

/-- The first `n` lines of a request. -/
def MemReq.upTo (n : Nat) : MemReq → MemReq
  | .read l c => .read l (min n c)
  | .write l ls => .write l (ls.take n)

/-- Whether a request is a write that enables nothing. -/
def MemReq.allClear : MemReq → Bool
  | .read .. => false
  | .write _ ls => ls.all Machine.noneEnabled

/-- Whether a request touches a line. -/
def MemReq.touches (r : MemReq) (line : Nat) : Bool := decide (r.first ≤ line ∧ line < r.first + r.count)

end Sys2Proof

namespace Sys2Proof.Machine

/-! ## Taking a request (R78, R94) -/

/-- While the reset input is asserted the requester port takes no request (R94). -/
def takeRequest (r : MemReq) (s : State) : State :=
  if s.startUp.phase = .inReset then s else { s with mi := { s.mi with queue := s.mi.queue ++ [r] } }

/-- REQUEST (R78). -/
def execRequest (r : MemReq) (s : State) : Host.Outcome State Fault Refusal :=
  if r.countOk && r.linesOk then
    if r.inSpace then run (takeRequest r) s else .fault .addressOutsideSpace
  else .refused .illFormedRequest

/-! ## Splitting and classification (R80) -/

/-- The page of a line. -/
def pageOf (line : Nat) : Nat := line / 64

/-- A request split at a page boundary its lines cross (R80). -/
def split (r : MemReq) : List MemReq :=
  let n := 64 - r.first % 64
  if r.count ≤ n then [r] else [r.upTo n, r.from n]

/-- The lowest-numbered enabled entry whose range contains a page (R80). -/
def entryOf (s : State) (page : Nat) : Option EntryNo :=
  (List.finRange 16).find? (fun i =>
    s.mi.windows[i].enabled && decide (s.mi.windows[i].base ≤ page ∧ page ≤ s.mi.windows[i].limit))

/-- The window entry a part of a request is classified in: none, before ready (R80). -/
def classify (s : State) (r : MemReq) : Option EntryNo := if s.isReady then entryOf s (pageOf r.first) else none

/-! ## Treatment when a request becomes the head (R83, R86, R87, R89) -/

/-- What becomes of one part of the head. -/
inductive Treated where
  /-- To be forwarded. -/
  | forward (p : Part)
  /-- Answered without use of the memory port. -/
  | answer (ok : Bool) (data : List (List Byte))
  deriving DecidableEq, Repr

/-- A line of zeros. -/
def zeroLine : List Byte := List.replicate 64 0

/-- The data of a read that was not made. -/
def zeroData : MemReq → List (List Byte)
  | .read _ n => List.replicate n zeroLine
  | .write .. => []

/-- A part to be forwarded, or answered OK when it is a write left with no enable (R78). R78 speaks of the request:
that such a part of a page-crossing write whose other part enables some byte is not issued either, and so has no grant
and no catch copy, is the model's choice (assumption 22). -/
def forwardOr (p : Part) : Treated := if p.req.allClear then .answer true [] else .forward p

/-- The enables of bytes 0 to 7 removed (R86). -/
def stripControl (w : WLine) : WLine := putAt w 0 (List.replicate 8 none)

/-- A part in a RECEIVE window (R86): a write of the ring control line loses the enables of bytes 0 to 7, as it
becomes the head, and is without them at a grant that falls in a station reset too (assumption 24). -/
def stripReceive (w : Window) : MemReq → MemReq
  | .write l (x :: xs) => if l = w.base * 64 then .write l (stripControl x :: xs) else .write l (x :: xs)
  | r => r

/-- A part in the CONTROL window (R87): a write is dropped for the lines of the status area, and what is kept of it is
the request that is noted for holds (assumption 22). -/
def treatControl (w : Window) (r : MemReq) : Treated × Option (Nat × ViolationReason) :=
  match r with
  | .read .. => (.forward ⟨r, some w⟩, none)
  | .write l _ =>
    if l % 64 < 6 then
      let kept := r.from (6 - l % 64)
      (if kept.count = 0 then .answer true [] else forwardOr ⟨kept, some w⟩, some (l, .statusWrite))
    else (forwardOr ⟨r, some w⟩, none)

/-- What a part's window makes of it, and its first violating line with the reason (R83 to R89). -/
def treat (w : Option Window) (r : MemReq) : Treated × Option (Nat × ViolationReason) :=
  match w with
  | none => (forwardOr ⟨r, none⟩, none)
  | some w =>
    match w.kind, r with
    | .guard, .read l _ =>
      if w.readBlock then (.answer false (zeroData r), some (l, .blocked)) else (.forward ⟨r, some w⟩, none)
    | .guard, .write l _ =>
      if w.writeBlock then (.answer false [], some (l, .blocked)) else (forwardOr ⟨r, some w⟩, none)
    | .receive, _ => (forwardOr ⟨stripReceive w r, some w⟩, none)
    | .control, _ => treatControl w r
    | .descriptor, .write l _ => (.answer true [], some (l, .descriptorWrite))
    | _, _ => (forwardOr ⟨r, some w⟩, none)

/-- The treatment of one part with the entry that decided it. -/
def treatPart (s : State) (r : MemReq) : Treated × Option Violation :=
  let e := classify s r
  let t := treat (e.map (fun i => s.mi.windows[i])) r
  (t.1, match e, t.2 with
    | some i, some v => some ⟨v.1, match r with | .write .. => true | .read .. => false, i, v.2⟩
    | _, _ => none)

/-- A violating request raises the count by one and GUARD, and may become the first violation (R84). -/
def violate (v : Violation) (s : State) : State :=
  raise .guard { s with mi := { s.mi with
    violations := s.mi.violations + 1
    violation := s.mi.violation.or (some v) } }

/-- Whether a part is a read in the CONTROL window that covers a line of the page. -/
def readsControl (line : Nat) : Part → Bool
  | ⟨.read l n, some w⟩ => w.kind == .control && decide (l % 64 ≤ line ∧ line < l % 64 + n)
  | _ => false

/-- The answer of one part, so far as it is known when the request becomes the head. -/
def Treated.answer? : Treated → PartAnswer
  | .forward _ => .waiting
  | .answer ok data => .known ok data

/-- The part of a treatment that is to be forwarded. -/
def Treated.part? : Treated → Option Part
  | .forward p => some p
  | .answer .. => none

/-! ## Holds (R92) -/

/-- The own writes a part is held on: those then pending to a line it touches. A CONTROL write is held on the lines kept
of it, and on none of the status area's lines dropped from it (the model's choice, assumption 22). -/
def heldOn (s : State) (p : Part) : List Nat :=
  (s.pendingWrites.filter (fun w => p.req.touches w.2)).map (·.1)

/-- The parts of the head that are still to be granted, the first of them noted for its holds. -/
def setHead (parts : List Part) (s : State) : State :=
  { s with mi := { s.mi with head := match parts with
    | p :: _ => some ⟨parts, heldOn s p⟩
    | [] => none } }

/-! ## Answers to the processor (R78, R79) -/

/-- Whether the answer of every part is known. -/
def answered (parts : List PartAnswer) : Bool := parts.all (fun p => p != .waiting)

/-- The response a request's parts make: ERROR if any part was, and the data in order. -/
def responseOf (parts : List PartAnswer) : OutEvent :=
  .response (parts.all (fun p => match p with | .known ok _ => ok | .waiting => false))
    (parts.flatMap (fun p => match p with | .known _ d => d | .waiting => []))

/-- The answers that can be given, in request order: the responses, and the answers still owed. -/
def ripe : List (List PartAnswer) → List OutEvent × List (List PartAnswer)
  | [] => ([], [])
  | a :: as => if answered a then (responseOf a :: (ripe as).1, (ripe as).2) else ([], a :: as)

/-- Every response that waits for no earlier one is given. -/
def deliver (s : State) : State :=
  let r := ripe s.mi.answers
  { s with out := s.out ++ r.1, mi := { s.mi with answers := r.2 } }

/-! ## REQUEST_HEAD -/

/-- The parts of the oldest request, treated. A part of a write that crosses pages is treated by its own page even
where it enables no byte (assumption 22). -/
def treatRequest (s : State) (r : MemReq) : List (Treated × Option Violation) :=
  if r.allClear then [(.answer true [], none)] else (split r).map (treatPart s)

/-- The oldest request becomes the head: it is split, classified, and answered or presented (R78, R80). -/
def becomeHead (r : MemReq) (rest : List MemReq) (s : State) : State :=
  let ts := treatRequest s r
  let parts := ts.filterMap (fun t => t.1.part?)
  let s := { s with mi := { s.mi with queue := rest, answers := s.mi.answers ++ [ts.map (fun t => t.1.answer?)] } }
  let s := match ts.findSome? (·.2) with
    | some v => violate v s
    | none => s
  let s := if parts.any (readsControl 1) then refreshTimeLine s else s
  deliver (setHead parts (flush s))

/-- REQUEST_HEAD: nothing unless a request waits and there is no head. -/
def requestHead (s : State) : State :=
  match s.mi.head, s.mi.queue with
  | none, r :: rest => becomeHead r rest s
  | _, _ => s

/-- REQUEST_HEAD (R80). -/
def execRequestHead (s : State) : Host.Outcome State Fault Refusal := run requestHead s

/-! ## MEMORY_GRANT (R93) -/

/-- A write to command blocks at its grant, line by line (R87). Blocks that one write issues join the pending list in the
order of their lines: the model's choice, as R158 orders only one grant behind another (assumption 22). -/
def controlWrite : Nat → List WLine → State → State × List WLine
  | _, [], s => (s, [])
  | line, w :: ws, s =>
    let a := match indexOf 8 (line % 64 - 6) with
      | some b => if 6 ≤ line % 64 then blockWrite b w s else (s, w)
      | none => (s, w)
    let r := controlWrite (line + 1) ws a.1
    (r.1, a.2 :: r.2)

/-- The consumer index a write hands on, when all four of its bytes are enabled (R86). -/
def handsOn (base line : Nat) (ls : List WLine) : Option Nat :=
  if line = base * 64 then (enabledRun (ls.headD []) 8 4).map leNat else none

/-- A write to a RECEIVE window at its grant (R86, R144). -/
def receiveWrite (w : Window) (line : Nat) (ls : List WLine) (s : State) : State :=
  let site := Fin.ofNat 8 w.param
  match handsOn w.base line ls with
  | some v =>
    if s.rmu[site].ring.place = some (w.base * 64, rxSlots w.base w.limit) then consumerHandoff site v s else s
  | none => s

/-- The tests a kind makes on a write at its grant, while ready is set (R80, R94): the state after, and the
lines as they go to memory. -/
def grantWrite (w : Window) (line : Nat) (ls : List WLine) (s : State) : State × List WLine :=
  match w.kind with
  | .transmit =>
    let ring := Fin.ofNat 4 w.param
    match s.cu.rings[ring] with
    | some t => if t.base = w.base ∧ t.limit = w.limit then transmitWrite ring t line ls s else (s, ls)
    | none => (s, ls)
  | .receive => (receiveWrite w line ls s, ls)
  | .control => controlWrite line ls s
  | _ => (s, ls)

/-- The state and the memory request of a part at its grant. -/
def grantPart (p : Part) (s : State) : State × MemReq :=
  match p.req, p.win with
  | .write l ls, some w =>
    if s.isReady then
      let r := grantWrite w l ls s
      (r.1, .write l r.2)
    else (s, p.req)
  | r, _ => (s, r)

/-- A forwarded request that is outstanding. -/
def outstandingOf (p : Part) : Outstanding :=
  match p.req with
  | .read _ n => .forwarded n (readsControl 0 p)
  | .write .. => .forwarded 0 false

/-- A cause-line read opens a re-raise record at its grant (R164). -/
def openRecord (p : Part) (s : State) : State :=
  if readsControl 0 p then { s with cmd := { s.cmd with reRaise := s.cmd.reRaise ++ [0] } } else s

/-- The head's first part is granted; the next part, if any, is noted for its holds (R92). -/
def grantForwarded (p : Part) (rest : List Part) (s : State) : State :=
  let r := grantPart p s
  let s := openRecord p r.1
  let s := { s.emit (.memory r.2) with mi := { s.mi with
    outstanding := s.mi.outstanding ++ [outstandingOf p], lastForwarded := true } }
  setHead rest (flush s)

/-- An own request as a memory request. -/
def OwnReq.request (r : OwnReq) : MemReq :=
  match r.write with
  | some w => .write r.line [w]
  | none => .read r.line 1

/-- The oldest own request is granted (R91). -/
def grantOwn (r : OwnReq) (rest : List OwnReq) (s : State) : State :=
  { s.emit (.memory r.request) with mi := { s.mi with
    own := rest, outstanding := s.mi.outstanding ++ [.own r], lastForwarded := false } }

/-- The parts of the head, when it is presented: it is not held (R92, R93). -/
def Interposer.presented (m : Interposer) : Option (Part × List Part) :=
  match m.head with
  | some ⟨p :: rest, []⟩ => some (p, rest)
  | _ => none

/-- The arbiter's grant: the requester that presents, or, of two, the one without the previous grant (R93). -/
def memoryGrant (s : State) : State :=
  match s.mi.presented, s.mi.own with
  | some (p, rest), [] => grantForwarded p rest s
  | some (p, rest), r :: own => if s.mi.lastForwarded then grantOwn r own s else grantForwarded p rest s
  | none, r :: own => grantOwn r own s
  | none, [] => s

/-- MEMORY_GRANT (R93). -/
def execMemoryGrant (s : State) : Host.Outcome State Fault Refusal := run memoryGrant s

/-! ## FORWARDED_RESPONSE (R79, R88, R164) -/

/-- The cause set a cause line's value shows. -/
def causesOf (line : List Byte) : BitVec 9 :=
  BitVec.ofNat 9 ((((line.take 9).zipIdx).map (fun b => if b.1 ≠ 0 then 2 ^ b.2 else 0)).sum)

/-- The response of a cause-line read: every cause present in the value and absent from the read's re-raise
record is cleared, and the record is discarded (R164). -/
def causeRead (ok : Bool) (line : List Byte) (s : State) : State :=
  match s.cmd.reRaise with
  | rec :: rest =>
    let c := { s.cmd with reRaise := rest }
    { s with cmd := if ok then c.setCauses (c.causes &&& ~~~(causesOf line &&& ~~~rec)) else c }
  | [] => s

/-- The first part that waits takes its answer. -/
def fillParts (a : PartAnswer) : List PartAnswer → List PartAnswer
  | [] => []
  | p :: ps => if p = .waiting then a :: ps else p :: fillParts a ps

/-- The oldest request with a part that waits takes its answer. -/
def fillAnswer (a : PartAnswer) : List (List PartAnswer) → List (List PartAnswer)
  | [] => []
  | r :: rs => if answered r then r :: fillAnswer a rs else fillParts a r :: rs

/-- Whether a read's data is the lines asked for, 64 bytes each. -/
def dataOk (n : Nat) (data : List (List Byte)) : Bool := decide (data.length = n) && data.all (fun l => l.length == 64)

/-- The answer to the oldest outstanding request, a forwarded one: what memory gives; lines that come with no data are
zeros (R79, assumption 20). The cause line is judged by the answer to its own part (assumption 22). -/
def forwardedAnswered (n : Nat) (cause ok : Bool) (data : List (List Byte)) (rest : List Outstanding) (s : State) :
    State :=
  let s := { s with mi := { s.mi with outstanding := rest } }
  let s := if cause then causeRead ok (data.headD []) s else s
  let lines := if dataOk n data then data else List.replicate n zeroLine
  deliver { s with mi := { s.mi with answers := fillAnswer (.known ok lines) s.mi.answers } }

/-- FORWARDED_RESPONSE (R79): nothing unless the oldest outstanding request is a forwarded one. -/
def execForwardedResponse (ok : Bool) (data : List (List Byte)) (s : State) : Host.Outcome State Fault Refusal :=
  match s.mi.outstanding with
  | .forwarded n cause :: rest =>
    if ok && decide (0 < n) && !dataOk n data then .refused .illFormedResponse
    else run (forwardedAnswered n cause ok data rest) s
  | _ => run id s

end Sys2Proof.Machine
end

