-- ==== Sys2Proof/Machine/Image.lean ====
section
/-! DEFINITION. The configuration image: its layout, how it is formed, judged and applied, and the saving of it
(11.2, 11.5, 12.5). -/

namespace Sys2Proof.Machine

/-! ## Block types -/

/-- The eight block types, in the order of R170. -/
inductive BlockType where
  | identity | windows | ports | hops | paths | routes | timing | notify
  deriving DecidableEq, Repr

/-- The types in the order they are applied (R170). -/
def blockTypes : List BlockType := [.identity, .windows, .ports, .hops, .paths, .routes, .timing, .notify]

/-- The index of a type, from 0. -/
def BlockType.index : BlockType → Fin 8
  | .identity => 0 | .windows => 1 | .ports => 2 | .hops => 3 | .paths => 4 | .routes => 5 | .timing => 6
  | .notify => 7

/-- The type a descriptor's code names (12.6). -/
def BlockType.ofCode (c : Nat) : Option BlockType := if c = 0 then none else blockTypes[c - 1]?

/-- The bytes of an entry (12.5). -/
def BlockType.size : BlockType → Nat
  | .identity => 16 | .windows => 48 | .ports => 72 | .hops => 8 | .paths => 48 | .routes => 48 | .timing => 48
  | .notify => 2

/-- The number of objects a type describes (R169). -/
def BlockType.objects : BlockType → Nat
  | .identity => 1 | .windows => 16 | .ports => 6 | .hops => 96 | .paths => 16 | .routes => 7 | .timing => 1
  | .notify => 1

/-! ## Forming an image (R173) -/

/-- The IDENTITY entry. -/
def identityEntry (s : State) : List Byte :=
  layout 16 [(0, leBytes 1 s.ownSite.val), (8, leBytes 8 Config.unitSerial.toNat)]

/-- A WINDOWS entry, laid out as SET_WINDOW's parameters. -/
def windowEntry (s : State) (e : EntryNo) : List Byte :=
  let w := s.mi.windows[e]
  layout 48 [(0, leBytes 1 e.val), (1, [flagByte w.enabled]), (2, [w.kind.code]), (3, leBytes 1 w.param),
    (4, [flagBits [w.readBlock, w.writeBlock]]), (8, leBytes 4 w.base), (12, leBytes 4 w.limit)]

/-- A PORTS entry: SET_PORT's parameters, then the chain. Both the seven step rates and the FIBRE rate are written,
whatever the port's kind (assumption 31). -/
def portEntry (s : State) (k : PortNo) : List Byte :=
  let x := s.ports[k]
  layout 72 [(0, leBytes 1 k.val), (1, [x.kind.code]), (2, leBytes 1 x.chain.length),
    (3, leBytes 1 s.tx[k].holdoffCode), (4, leBytes 1 s.tx[k].ceilingCode), (6, leBytes 2 x.timeoutMs),
    (8, leBytes 4 x.fibreRate), (12, x.rates.toList.flatMap (leBytes 4)),
    (48, x.chain.map (fun h => BitVec.ofNat 8 h.val))]

/-- A HOPS entry: a SET_HOPS record. -/
def hopRecordEntry (s : State) (h : HopNo) : List Byte :=
  let x := s.hops[h]
  layout 8 [(0, leBytes 1 h.val), (2, leSigned 2 x.fade), (4, leSigned 2 x.down), (6, leSigned 1 x.hyst),
    (7, leBytes 1 x.debounce)]

/-- A PATHS entry: SET_PATH's parameters, then the enabled flag. The entry of an unconfigured path carries its record as
it stands, and the layout has no mark that tells it from a configured one (assumption 23). -/
def pathEntry (s : State) (p : PathNo) : List Byte :=
  let x := s.paths[p]
  layout 48 [(0, leBytes 1 p.val), (1, leBytes 1 x.port.val), (2, leBytes 1 x.site.val), (3, leBytes 1 x.drop),
    (4, leBytes 1 x.silence), (5, leBytes 1 x.shift), (6, leBytes 2 x.normal), (8, leBytes 2 x.fast),
    (12, leBytes 4 x.outlier), (16, leBytes 4 x.fadeUnit), (47, [flagByte (x.state != .off)])]

/-- A ROUTES entry: SET_ROUTE's parameters. -/
def routeEntry (s : State) (site : Site) : List Byte :=
  let r := s.rs.routes[site]
  layout 48 [(0, leBytes 1 site.val), (1, leBytes 1 r.cands.length),
    (2, r.cands.map (fun p => BitVec.ofNat 8 p.val)), (6, [r.dual.code]), (8, leBytes 4 r.hyst)]

/-- The TIMING entry: SET_TIMING's parameters. -/
def timingEntry (s : State) : List Byte :=
  layout 48 [(0, leBytes 2 s.tu.limit),
    (4, s.remotes.flatMap (fun r => leBytes 3 s.rmu[r].urgent.timeout ++ leBytes 3 s.rmu[r].bulk.timeout))]

/-- The bytes of a block of a type. -/
def blockBytes (s : State) : BlockType → List Byte
  | .identity => identityEntry s
  | .windows => (List.finRange 16).flatMap (windowEntry s)
  | .ports => allPorts.flatMap (portEntry s)
  | .hops => (List.finRange 96).flatMap (hopRecordEntry s)
  | .paths => allPaths.flatMap (pathEntry s)
  | .routes => s.remotes.flatMap (routeEntry s)
  | .timing => timingEntry s
  | .notify => leBytes 2 s.cmd.enables.toNat

/-- The image header's signature (12.5). -/
def imageSignature : List Byte := [0x56, 0x4A, 0x43, 0x31]

/-- The descriptors of the eight blocks, and the blocks, from an offset on. -/
def imageBlocks (s : State) : Nat → List BlockType → List Byte × List Byte
  | _, [] => ([], [])
  | off, t :: ts =>
    let b := blockBytes s t
    let r := imageBlocks s (off + b.length) ts
    (layout 8 [(0, leBytes 1 (t.index.val + 1)), (4, leBytes 2 off), (6, leBytes 2 b.length)] ++ r.1, b ++ r.2)

/-- The image of the tables as they stand: a header, eight descriptors and eight blocks (R173). -/
def formImage (s : State) : List Byte :=
  let r := imageBlocks s 80 blockTypes
  let rest := r.1 ++ r.2
  layout 16 [(0, imageSignature), (4, leBytes 4 (16 + rest.length)), (8, [8]), (12, crcBytes rest)] ++ rest

/-! ## Judging an image (R169) -/

/-- The image area, in bytes. -/
def imageArea : Nat := 65536

/-- The image area as it reads, from the bytes the flash is given to hold: bytes beyond them are erased. -/
def readArea (bytes : List Byte) : List Byte :=
  let header := bytes ++ List.replicate (16 - bytes.length) 0xFF
  header ++ List.replicate (min imageArea (field header 4 4) - header.length) 0xFF

/-- The verdict on an image as a whole (R169). -/
def judgeArea (area : List Byte) : ImageResult :=
  let len := field area 4 4
  if area.take 4 ≠ imageSignature then .badSignature
  else if len < 16 + 8 * byteAt area 8 ∨ imageArea < len ∨ 12 < byteAt area 8 then .badLength
  else if (area.drop 12).take 4 ≠ crcBytes ((area.take len).drop 16) then .badCrc
  else .accepted

/-- The verdict, from what the flash answers (R169). -/
def judgeImage : Option (List Byte) → ImageResult
  | none => .noFlash
  | some bytes => judgeArea (readArea bytes)

/-- A block descriptor. -/
structure Descriptor where
  code : Nat
  offset : Nat
  length : Nat
  deriving DecidableEq, Repr

/-- The descriptors of an image. -/
def descriptors (area : List Byte) : List Descriptor :=
  (List.range (byteAt area 8)).map (fun i =>
    let d := area.drop (16 + 8 * i)
    ⟨byteAt d 0, field d 4 2, field d 6 2⟩)

/-- Whether a block lies in the image and has a length its type allows (R169). -/
def Descriptor.fits (d : Descriptor) (t : BlockType) (len : Nat) : Bool :=
  decide (d.offset + d.length ≤ len ∧ d.length % t.size = 0 ∧ t.size ≤ d.length ∧ d.length ≤ t.size * t.objects)

/-- The index of the first descriptor whose type is none of the eight (R170). -/
def badTypeOf (ds : List Descriptor) : Option Nat := ds.findIdx? (fun d => (BlockType.ofCode d.code).isNone)

/-- The descriptors of a type. -/
def ofType (ds : List Descriptor) (t : BlockType) : List Descriptor :=
  ds.filter (fun d => BlockType.ofCode d.code == some t)

/-- The state recorded for a type (R170). -/
def typeStateOf (ds : List Descriptor) (len : Nat) (t : BlockType) : TypeState :=
  match ofType ds t with
  | [] => .absent
  | [d] => if d.fits t len then .applied else .badLength
  | _ => .duplicate

/-- A run of bytes cut into entries. -/
def chunks (size : Nat) : Nat → List Byte → List (List Byte)
  | 0, _ => []
  | n + 1, bs => bs.take size :: chunks size n (bs.drop size)

/-- The entries of the block of a type that stands: those of its first block, when that fits. -/
def entriesOfType (area : List Byte) (ds : List Descriptor) (len : Nat) (t : BlockType) : Option (List (List Byte)) :=
  match ofType ds t with
  | d :: _ =>
    if d.fits t len then some (chunks t.size (d.length / t.size) ((area.drop d.offset).take d.length)) else none
  | [] => none

/-! ## Applying an image (R170) -/

/-- Entries applied in the order they stand: the state after, and how many were refused. An entry that names an
object an earlier one has named is skipped and counted. -/
def applyEntries (apply : List Byte → State → Option State) : List Nat → List (List Byte) → State → State × Nat
  | _, [], s => (s, 0)
  | seen, e :: es, s =>
    let name := byteAt e 0
    if seen.contains name then
      let r := applyEntries apply seen es s
      (r.1, r.2 + 1)
    else match apply e s with
      | some s' => applyEntries apply (name :: seen) es s'
      | none =>
        let r := applyEntries apply (name :: seen) es s
        (r.1, r.2 + 1)

/-- The IDENTITY entry: an own site above 7 is refused. -/
def applyIdentity (e : List Byte) (s : State) : Option State :=
  (indexOf 8 (byteAt e 0)).map (fun site => { s with ownSite := site })

/-- Whether the serial an IDENTITY entry stores differs from the part's (R170). -/
def foreignIdentity (e : List Byte) : Bool := BitVec.ofNat 64 (field e 8 8) != Config.unitSerial

/-- A WINDOWS entry (R81). -/
def applyWindow (e : List Byte) (s : State) : Option State :=
  match indexOf 16 (byteAt e 0) with
  | some i => if windowCheck true i (windowOf e) s = .none then some (storeWindow i (windowOf e) s) else none
  | none => none

/-- A PORTS entry (R19, R112). -/
def applyPortEntry (e : List Byte) (s : State) : Option State :=
  match indexOf 6 (byteAt e 0), portKindOf (byteAt e 1) with
  | some k, some kind =>
    if 24 < byteAt e 2 ∨ (kind = .fibre ∧ byteAt e 2 ≠ 0) then none
    else (chainOf k ((e.drop 48).take (byteAt e 2)) s).map (fun c => applyPort k kind (some c) e s)
  | _, _ => none

/-- A HOPS entry (R21). -/
def applyHopEntry (e : List Byte) (s : State) : Option State :=
  (indexOf 96 (byteAt e 0)).map (fun h => s.updHop h (HopRec.configure e))

/-- A PATHS entry: checked and clamped as SET_PATH's parameters (R37). -/
def applyPathEntry (e : List Byte) (s : State) : Option State :=
  match indexOf 16 (byteAt e 0) with
  | some p => if pathCheck p e s = .none then some (recompute p (s.updPath p (PathRec.configure e))) else none
  | none => none

/-- A path the image enables enters DOWN, unless a lower-numbered one with its port and site has (R37). -/
def enableFromImage (entries : List (List Byte)) (p : PathNo) (s : State) : State :=
  let e := entries.find? (fun e => byteAt e 0 == p.val)
  if e.any (fun e => decide (byteAt e 47 ≠ 0)) && !enableRefused p s then s.updPath p (fun x => { x with state := .down })
  else s

/-- A ROUTES entry (R59). -/
def applyRouteEntry (e : List Byte) (s : State) : Option State :=
  match remoteSite s (byteAt e 0) with
  | some site => (routeSettings site e s).map (fun c => s.updRoute site (RouteRec.configure c))
  | none => none

/-- The default holdover limit (R3). -/
def defaultLimit : Nat := 30

/-- The TIMING entry (R3, R141). -/
def applyTiming (e : List Byte) (s : State) : State :=
  setHoleTimeouts e (setHoldoverLimit (clampNat 1 3600 (field e 0 2)) s)

/-- A block of a type applied, and how many of its entries were refused (R170). -/
def applyBlock (t : BlockType) (es : List (List Byte)) (s : State) : State × Nat :=
  match t with
  | .identity => applyEntries applyIdentity [] es s
  | .windows => applyEntries applyWindow [] es s
  | .ports => applyEntries applyPortEntry [] es s
  | .hops => applyEntries applyHopEntry [] es s
  | .paths =>
    let r := applyEntries applyPathEntry [] es s
    (overAll allPaths (enableFromImage es) r.1, r.2)
  | .routes => applyEntries applyRouteEntry [] es s
  | .timing => (applyTiming (es.headD []) s, 0)
  | .notify => ({ s with cmd := { s.cmd with enables := BitVec.ofNat 9 (field (es.headD []) 0 2) } }, 0)

/-- A block type in its turn: its block applied, or its default where the default is not in place already. -/
def applyType (entries : BlockType → Option (List (List Byte))) (t : BlockType) (s : State) : State :=
  match entries t with
  | some es =>
    let r := applyBlock t es s
    { r.1 with startUp := { r.1.startUp with status := { r.1.startUp.status with
        refused := updAt r.1.startUp.status.refused t.index (fun _ => r.2)
        foreign := r.1.startUp.status.foreign ||
          (t == .identity && es.any foreignIdentity) } } }
  | none => if t = .timing then setHoldoverLimit defaultLimit s else s

/-- The block count recorded with an image whose header has no signature: not stated (assumption 9). -/
def unknownCount (s : State) : Nat := (Config.absentField s.freeCount).toNat % 256

/-- The image is judged and applied, and the start-up status recorded (R169, R170). -/
def applyImage (flash : Option (List Byte)) (s : State) : State :=
  let result := judgeImage flash
  let area := readArea (flash.getD [])
  let accepted := result == .accepted
  let len := field area 4 4
  let ds := if accepted then descriptors area else []
  let status : StartStatus := { s.startUp.status with
    result := result
    blocks := if result = .noFlash ∨ result = .badSignature then unknownCount s else byteAt area 8
    foreign := false
    badType := badTypeOf ds
    states := Vector.ofFn (fun i => (blockTypes[i.val]?.map (typeStateOf ds len)).getD .absent)
    refused := Vector.replicate 8 0 }
  overAll blockTypes (applyType (entriesOfType area ds len))
    { spendFree s with startUp := { s.startUp with status := status } }

/-! ## SAVE_CONFIG and the flash (R173) -/

/-- The bytes of the image header. -/
def headerSize : Nat := 16

/-- The image area is erased, its header first (R173). -/
def eraseArea (s : State) : State :=
  (s.emit (.flashErase 0 headerSize)).emit (.flashErase headerSize (imageArea - headerSize))

/-- SAVE_CONFIG as it is taken: refused while another save runs; otherwise the tables are captured, the block is
SAVING, the timer starts and erasure begins. -/
def saveConfig (b : BlockNo) (_ : List Byte) (s : State) : State :=
  if s.cmd.save.isSome then complete b .busyState 0 [] s
  else
    let save : Save := ⟨b, formImage s, .erase, s.now + 60000⟩
    eraseArea ({ s with cmd := { s.cmd with save := some save } }.updBlock b (fun x => { x with state := .saving }))

/-- SAVE_CONFIG (R173). -/
def execSaveConfig (s : State) : Host.Outcome State Fault Refusal := run (command (· == 21) saveConfig) s

/-- A save ends (R173). -/
def endSave (b : BlockNo) (e : ErrorCode) (s : State) : State :=
  complete b e 0 [] { s with cmd := { s.cmd with save := none } }

/-- The flash reports a stage complete: the descriptors and blocks are programmed, then the header, and then the
save is DONE. -/
def flashStage (v : Save) (s : State) : State :=
  match v.stage with
  | .erase =>
    { s with cmd := { s.cmd with save := some { v with stage := .program } } }.emit
      (.flashProgram 16 (v.image.drop 16))
  | .program =>
    { s with cmd := { s.cmd with save := some { v with stage := .header } } }.emit
      (.flashProgram 0 (v.image.take 16))
  | .header => endSave v.block .none s

/-- An event of the running save: nothing when none runs. -/
def ofSave (f : Save → State → State) (s : State) : State :=
  match s.cmd.save with
  | some v => f v s
  | none => s

/-- FLASH_STAGE_COMPLETE (R173). -/
def execFlashStageComplete (s : State) : Host.Outcome State Fault Refusal := run (ofSave flashStage) s

/-- FLASH_FAILURE (R173). -/
def execFlashFailure (s : State) : Host.Outcome State Fault Refusal :=
  run (ofSave (fun v => endSave v.block .storeFail)) s

/-- SAVE_TIMER_EXPIRY (R173): nothing unless the timer has reached its expiry. -/
def execSaveTimerExpiry (s : State) : Host.Outcome State Fault Refusal :=
  run (ofSave (fun v s => if v.due ≤ s.now then endSave v.block .storeFail s else s)) s

end Sys2Proof.Machine
end

