-- ==== Sys2Proof/Machine/StartUp.lean ====
section
/-! DEFINITION. The resets and the start-up order: power-on reset, station reset, the eight steps, and ready
(10.8, 11.1, 11.3, 11.4). -/

namespace Sys2Proof.Machine

/-! ## Straps (R168) -/

/-- The control page a strap value selects; the descriptor page is the next. -/
def strapPage (straps : Fin 8) : Nat :=
  #v[0x000010, 0x000200, 0x002000, 0x020000, 0x080000, 0x200000, 0x7FFF00, 0xFFFF00][straps]

/-! ## RESET_INPUT (R94, and each chapter's power-on values) -/

/-- Ports whose line is cut off. -/
def cutLines (s : State) : List OutEvent :=
  (allPorts.filter (fun k => s.tx[k].line.isSome)).map OutEvent.abort

/-- The reset input is asserted: everything takes its power-on value, and what is in transmission is aborted.
The waiting events and the terminals' indications are outside the part. -/
def resetInput (s : State) : State :=
  { State.reset with pending := s.pending, linkInput := s.linkInput, freeCount := s.freeCount, out := cutLines s }

/-- RESET_INPUT (R94). -/
def execResetInput (s : State) : Host.Outcome State Fault Refusal := .next (resetInput s)

/-! ## RESET_STATION (R167) -/

/-- What a station reset notes of a block: aborted when PENDING or SAVING. -/
def Block.noteAborted (b : Block) : Block :=
  if b.state = .pending ∨ b.state = .saving then { b with aborted := true } else b

/-- A receiver at a station reset: the frame in reception and the context are discarded uncounted (R138). The counters
stand until START_UP_ORDER sets them to 0 (the model's choice, assumption 24). -/
def Receiver.dropped (r : Receiver) : Receiver := { r with ctx := none, reception := none }

/-- The start of the reset reaches the blocks (R167, step 2): ready is clear; CU closes its records, RS drops
its batches, and each transmitter and receiver drops what it holds, with nothing reported. The link flags stand as they
are until START_UP_ORDER, which makes them lost, and the counters of the transmitters and receivers until it sets them
to 0 (the model's choices, assumption 24). -/
def stopBlocks (s : State) : State :=
  let s := { s with startUp := { s.startUp with phase := .resetting } }
  let s := captureReset s
  { s with
    out := s.out ++ cutLines s
    rs := { s.rs with batches := [] }
    tx := s.tx.map Transmitter.emptied
    rx := s.rx.map Receiver.dropped }

/-- Steps 3 to 5 of a station reset at CMD (R167): the save is abandoned, waiting blocks are noted aborted, the
cause set and the enable set are emptied, and no change is written until the start-up order writes the status
area. -/
def abandonCommands (b : BlockNo) (s : State) : State :=
  { s with cmd := { s.cmd with
    blocks := s.cmd.blocks.map Block.noteAborted
    pending := [], save := none, exec := some (.reset b)
    causes := 0, enables := 0, changes := []
    staleSummary := false, staleLow := false, staleHigh := false, statusOn := false } }

/-- RESET_STATION as it is taken (R167): the completion write is formed without COMMAND_DONE, the blocks stop,
and line 2 is written with the ready flag clear. -/
def resetStation (b : BlockNo) (_ : List Byte) (s : State) : State :=
  let s := formGroup
    [(s.blockLine b, some (partLine (statusBytes .none s.cmd.blocks[b].overrun 0)), .completion b)] .nothing
    (s.updBlock b (fun x => { x with state := .closing, error := .none, remaining := 0 }))
  let s := abandonCommands b (stopBlocks s)
  formGroup [(s.controlLine + 2, some [], .summary)] .nothing s

/-- RESET_STATION (R167). -/
def execResetStation (s : State) : Host.Outcome State Fault Refusal := run (command (· == 22) resetStation) s

/-! ## The reset of the blocks' state (R171, step 2) -/

/-- A block's record at a start: IDLE, with its abort mark and the tag yet to be read. -/
def Block.restart (b : Block) : Block := { Block.reset with aborted := b.aborted }

/-- The Command Unit at a start: the cause set and the open re-raise records stand (R163, R164). -/
def CommandUnit.restart (c : CommandUnit) : CommandUnit :=
  { CommandUnit.reset with blocks := c.blocks.map Block.restart, causes := c.causes, reRaise := c.reRaise }

/-- The Memory Interposer at a start: requests stand; the window table takes the strap placing, and the guard
record and the arbiter's memory their reset values (R81, R84, R93). -/
def Interposer.restart (page : Nat) (m : Interposer) : Interposer :=
  { m with windows := windowsAt page, lastForwarded := false, violation := none, violations := 0 }

/-- Every block but the Time Unit takes its reset values (R171). -/
def restartBlocks (straps : Fin 8) (s : State) : State :=
  { s with
    ownSite := 0
    link := Vector.replicate 6 false
    hops := Vector.replicate 96 HopRec.reset
    ports := Vector.replicate 6 PortRec.reset
    paths := Vector.replicate 16 PathRec.reset
    rs := RouteSelector.reset
    tx := Vector.replicate 6 Transmitter.reset
    rx := Vector.replicate 6 Receiver.reset
    cu := CaptureUnit.reset
    mi := s.mi.restart (strapPage straps)
    rmu := Vector.replicate 8 RxSite.reset
    cmd := s.cmd.restart
    startUp := { s.startUp with
      phase := .starting
      status := { StartStatus.reset with
        stationReset := s.startUp.phase == .resetting
        straps := straps.val } } }

/-! ## The capability table (R172, 12.5) -/

/-- A range and a default, as three words. -/
def rangeWords (lo hi dflt : Int) : List Int := [lo, hi, dflt]

/-- The words of the limits block: the principal capacities in the order of the introduction, each by its greatest count
but for a ring's slots, which stand by least and greatest; then the ranges and defaults of the clamped settings in the
order of R172, a path's A and B for the probe intervals, H and then a hop's hysteresis, the fade and the down threshold
after the level range, and one range of the step rates ahead of the seven defaults. A reported level is clamped and has
no default. All of this layout is the model's choice (assumption 6). -/
def limitsWords : List Int :=
  [6, 8, 7, 4, 16, 96, 24, 16, 4, 32, 256, 7, 31, 255, 14, 256, 32, 16, 4, 32, 32, 8, 8, 8, 9] ++
  rangeWords 50 65535 1000 ++ rangeWords 20 65535 100 ++ rangeWords 4 15 12 ++ rangeWords 0 7 3 ++
  rangeWords 1000 10000000 50000 ++ rangeWords 0 1000000 8000 ++ rangeWords 0 1000000 2000 ++
  rangeWords 1 200 30 ++ rangeWords 100 100000 5000 ++ rangeWords 1 8 2 ++ rangeWords 1 1000 50 ++
  [-1000, -200] ++ rangeWords (-1000) (-201) (-650) ++ rangeWords (-1000) (-201) (-800) ++ rangeWords 0 7 4 ++ rangeWords 0 3 1 ++ rangeWords 1 3600 30 ++
  [1, 1250000] ++ defaultRates.toList.map (fun (r : Nat) => (r : Int)) ++ rangeWords 1 1250000 125000

/-- The words of the time block: the adjustment range in ppb and the stamp resolution in ns. That the range of ±100,000
stands as its one magnitude, and not as its least and its greatest value, is the model's choice (assumption 6). -/
def timeWords : List Int := [100000, 1]

/-- The words of the identity block: the serial, the own site, and the start-up count that step 8 will set. -/
def identityWords (s : State) : List Int :=
  [Config.unitSerial.toNat, s.ownSite.val, (s.startUp.count + 1).toNat]

/-- A parameter header. -/
def parameterHeader (id len off : Nat) : List Byte :=
  leBytes 2 id ++ leBytes 2 (Config.blockRevision id).toNat ++ leBytes 2 len ++ leBytes 2 off

/-- The capability table. -/
def capabilityTable (s : State) : List Byte :=
  let a := identityWords s
  [0x56, 0x4A, 0x44, 0x54] ++ leBytes 2 Config.tableRevision.toNat ++ leBytes 2 3 ++
  parameterHeader 1 a.length 32 ++ parameterHeader 2 limitsWords.length (32 + 8 * a.length) ++
  parameterHeader 3 timeWords.length (32 + 8 * a.length + 8 * limitsWords.length) ++
  (a ++ limitsWords ++ timeWords).flatMap (leSigned 8)

/-- Bytes cut into whole lines from a line on, each to be written whole. -/
def linesFrom (line : Nat) (bs : List Byte) : List (Nat × Option WLine × OwnTag) :=
  ((chunks 64 (ceilDiv bs.length 64) bs).zipIdx).map (fun c => (line + c.2, some (wholeLine [(0, c.1)]), .startUp))

/-! ## The status area (R171, step 4) -/

/-- Line 5, the start-up status (12.3). -/
def startUpLineOf (x : StartStatus) : WLine :=
  wholeLine [(0, [if x.stationReset then 2 else 1]), (1, leBytes 1 x.straps), (2, [x.result.code]),
    (3, leBytes 1 x.blocks), (4, [flagByte x.foreign]), (5, match x.badType with | some i => leBytes 1 i | none => [0xFF]),
    (8, x.states.toList.map TypeState.code), (16, x.refused.toList.flatMap (leBytes 2))]

/-- The status area's writes. -/
def statusWrites (s : State) : List (Nat × Option WLine × OwnTag) :=
  let c := s.controlLine
  [(c, some (causeLineOf s.cmd.causes), .startUp), (c + 2, some (summaryLineOf s), .startUp),
   (c + 3, some (lowHopLineOf s), .startUp), (c + 4, some (highHopLineOf s), .startUp),
   (c + 5, some (startUpLineOf s.startUp.status), .startUp)]

/-! ## The steps -/

/-- A step is begun: its number, and how many own requests it waits for. -/
def beginStep (n left : Nat) (s : State) : State := { s with startUp := { s.startUp with step := n, left := left } }

/-- Step 8 waits for the READY event. -/
def stepEight (s : State) : State := beginStep 8 0 s

/-- The present receive rings. That step 7 starts several in the order of their window entries is the model's choice:
R144 and R171 give none (assumption 12). -/
def receiveWindows (s : State) : List Window := s.mi.windows.toList.filter (fun w => w.isOn .receive)

/-- Step 7: each present receive ring starts. -/
def stepSeven (s : State) : State :=
  let ws := receiveWindows s
  if ws.isEmpty then stepEight s
  else overAll ws (fun w s => startRxRing (Fin.ofNat 8 w.param) w .startUp s) (beginStep 7 ws.length s)

/-- Step 6's write of a block: IDLE at a power-on start, ABORTED for a block noted aborted (R167). -/
def restartWrite (s : State) (b : BlockNo) : List (Nat × Option WLine × OwnTag) :=
  let write := fun (status : Byte) =>
    [(s.blockLine b, some (partLine [(3, [status, 0, 0, 0, 0])]), OwnTag.startUp)]
  if s.startUp.status.stationReset then (if s.cmd.blocks[b].aborted then write 4 else []) else write 0

/-- Step 6: bytes 3 to 7 of the blocks, as one group in the order of the blocks (assumption 12). -/
def stepSix (s : State) : State :=
  let reqs := (List.finRange 8).flatMap (restartWrite s)
  let s := { s with cmd := { s.cmd with blocks := s.cmd.blocks.map (fun b => { b with aborted := false }) } }
  if reqs.isEmpty then stepSeven s else formGroup reqs .nothing (beginStep 6 reqs.length s)

/-- Step 5: each block's tag is read, as one group in the order of the blocks (assumption 12). -/
def stepFive (s : State) : State :=
  formGroup ((List.finRange 8).map (fun b => (s.blockLine b, none, .tagRead b))) .nothing (beginStep 5 8 s)

/-- Step 4: the status area is written; changes from here on form writes of their own. -/
def stepFour (s : State) : State :=
  formGroup (statusWrites s) .nothing
    (beginStep 4 5 { s with cmd := { s.cmd with statusOn := true, changes := [] } })

/-- Step 3: the capability table is written at the base of the descriptor window (R172), as one group in the order of
its lines (assumption 12). -/
def stepThree (s : State) : State :=
  let reqs := linesFrom (s.mi.windows[15].base * 64) (capabilityTable s)
  formGroup reqs .nothing (beginStep 3 reqs.length s)

/-- The step after the one that has finished. -/
def nextStep (s : State) : State :=
  match s.startUp.step with
  | 3 => stepFour s
  | 4 => stepFive s
  | 5 => stepSix s
  | 6 => stepSeven s
  | 7 => stepEight s
  | _ => s

/-- One own request of the running step has been answered. -/
def stepAnswered (s : State) : State :=
  if s.startUp.left ≤ 1 then nextStep (beginStep s.startUp.step 0 s)
  else beginStep s.startUp.step (s.startUp.left - 1) s

/-- A block's tag has been read: it is taken as seen, or 0 at ERROR (R157). -/
def tagAnswered (b : BlockNo) (ok : Bool) (data : List Byte) (s : State) : State :=
  stepAnswered (s.updBlock b (fun x => { x with lastTag := if ok then data.getD 1 0 else 0 }))

/-! ## START_UP_ORDER (R171) -/

/-- Whether an outstanding request is an own one. -/
def Outstanding.isOwn : Outstanding → Bool
  | .own _ => true
  | .forwarded .. => false

/-- Whether the own-request queue has drained: every group joined, issued and answered (R90, R167). -/
def Interposer.drained (m : Interposer) : Bool :=
  m.own.isEmpty && m.waiting.isEmpty && !m.outstanding.any Outstanding.isOwn

/-- The start-up order may begin: the reset input is released, or a station reset has drained the queue. -/
def mayStart (s : State) : Bool :=
  s.startUp.phase == .inReset || (s.startUp.phase == .resetting && s.mi.drained)

/-- Steps 1 to 3. -/
def startUpOrder (straps : Fin 8) (flash : Option (List Byte)) (s : State) : State :=
  if mayStart s then stepThree (applyImage flash (restartBlocks straps s)) else s

/-- START_UP_ORDER (R171): nothing unless the order may begin. -/
def execStartUpOrder (straps : Fin 8) (flash : Option (List Byte)) (s : State) : Host.Outcome State Fault Refusal :=
  run (startUpOrder straps flash) s

/-! ## READY (R171) -/

/-- The enabled TRANSMIT windows are handed to CU (R81, R96). -/
def noticeRings (s : State) : State :=
  overAll (s.mi.windows.toList.filter (fun w => w.isOn .transmit)) (fun w => startRing (Fin.ofNat 4 w.param) w) s

/-- Ready has been set: the rings are handed on, and PM evaluates its DOWN paths (R171). -/
def becomeReady (s : State) : State := evalPaths (noticeRings s)

/-- What a join that set ready brings. -/
def afterJoin (before s : State) : State := if s.isReady && !before.isReady then becomeReady s else s

/-- Step 8: the start-up count rises and line 2 is written with the ready flag set. -/
def readyStep (s : State) : State :=
  if s.startUp.phase = .starting ∧ s.startUp.step = 8 then
    let s' := beginStep 0 0 { s with startUp := { s.startUp with count := s.startUp.count + 1 } }
    afterJoin s (formGroup [(s.controlLine + 2, some [], .summary)] .ready s')
  else s

/-- READY (R171): nothing unless the start-up order has reached step 8. -/
def execReady (s : State) : Host.Outcome State Fault Refusal := run readyStep s

/-! ## OWN_GROUP_JOIN (R90) -/

/-- The group that has waited longest joins, once the queue has room for all its lines. -/
def ownGroupJoin (s : State) : State :=
  match s.mi.waiting with
  | g :: rest =>
    if s.hasRoom g then afterJoin s (joinGroup g { s with mi := { s.mi with waiting := rest } }) else s
  | [] => s

/-- OWN_GROUP_JOIN (R90): nothing unless a group waits and fits. -/
def execOwnGroupJoin (s : State) : Host.Outcome State Fault Refusal := run ownGroupJoin s

/-! ## OWN_RESPONSE (R91, R92) -/

/-- A list read has been answered (R160). -/
def listAnswered (ok : Bool) (data : List Byte) (s : State) : State :=
  match s.cmd.exec with
  | some (.portList b line bytes) => portListAnswer b line bytes ok data s
  | some (.hopList b line bytes left) => hopListAnswer b line bytes left ok data s
  | _ => s

/-- The answer reaches the block that made the request (R91). -/
def ownAnswer (t : OwnTag) (ok : Bool) (data : List Byte) (s : State) : State :=
  match t with
  | .done hdr => recordClosed hdr s
  | .captureHead hdr => captureAnswer hdr false ok data s
  | .captureBody hdr => captureAnswer hdr true ok data s
  | .completion b => blockClosed b s
  | .listRead => listAnswered ok data s
  | .startUp => stepAnswered s
  | .tagRead b => tagAnswered b ok data s
  | _ => s

/-- The answer to a write lifts it from the head's holds (R92). -/
def liftHold (id : Nat) (s : State) : State :=
  { s with mi := { s.mi with head := s.mi.head.map (fun h => { h with held := h.held.filter (· ≠ id) }) } }

/-- The answer to the oldest outstanding request, an own one. -/
def ownAnswered (r : OwnReq) (ok : Bool) (data : List Byte) (rest : List Outstanding) (s : State) : State :=
  ownAnswer r.tag ok data (liftHold r.id { s with mi := { s.mi with outstanding := rest } })

/-- OWN_RESPONSE (R91): nothing unless the oldest outstanding request is an own one. -/
def execOwnResponse (ok : Bool) (data : List Byte) (s : State) : Host.Outcome State Fault Refusal :=
  match s.mi.outstanding with
  | .own r :: rest =>
    if ok && r.write.isNone && data.length != 64 then .refused .illFormedResponse
    else run (ownAnswered r ok data rest) s
  | _ => run id s

end Sys2Proof.Machine
end

