-- ==== Sys2Proof/Machine/Dispatch.lean ====
section
/-! DEFINITION. The dispatch: one arm for each command. -/

namespace Sys2Proof.Machine

/-- The effect of a command on everything but the queue. -/
def exec (i : Instr) (s : State) : Host.Outcome State Fault Refusal :=
  match i with
  | .announcement chars => Sys2Proof.Machine.execAnnouncement chars s
  | .secondPulse => Sys2Proof.Machine.execSecondPulse s
  | .pulseMissingExpiry => Sys2Proof.Machine.execPulseMissingExpiry s
  | .holdoverExpiry => Sys2Proof.Machine.execHoldoverExpiry s
  | .request r => Sys2Proof.Machine.execRequest r s
  | .requestHead => Sys2Proof.Machine.execRequestHead s
  | .memoryGrant => Sys2Proof.Machine.execMemoryGrant s
  | .forwardedResponse ok data => Sys2Proof.Machine.execForwardedResponse ok data s
  | .ownGroupJoin => Sys2Proof.Machine.execOwnGroupJoin s
  | .ownResponse ok data => Sys2Proof.Machine.execOwnResponse ok data s
  | .selection hdr => Sys2Proof.Machine.execSelection hdr s
  | .reselection port => Sys2Proof.Machine.execReselection port s
  | .frameComplete port => Sys2Proof.Machine.execFrameComplete port s
  | .holdoffExpiry port => Sys2Proof.Machine.execHoldoffExpiry port s
  | .linkUp port => Sys2Proof.Machine.execLinkUp port s
  | .linkLost port => Sys2Proof.Machine.execLinkLost port s
  | .frameArrival port bytes => Sys2Proof.Machine.execFrameArrival port bytes s
  | .reportTimerExpiry hop => Sys2Proof.Machine.execReportTimerExpiry hop s
  | .probeTimerExpiry path => Sys2Proof.Machine.execProbeTimerExpiry path s
  | .silenceTimerExpiry path => Sys2Proof.Machine.execSilenceTimerExpiry path s
  | .probeLifetimeExpiry path => Sys2Proof.Machine.execProbeLifetimeExpiry path s
  | .holeTimerExpiry site cls => Sys2Proof.Machine.execHoleTimerExpiry site cls s
  | .badCommand => Sys2Proof.Machine.execBadCommand s
  | .setWindow => Sys2Proof.Machine.execSetWindow s
  | .setPort => Sys2Proof.Machine.execSetPort s
  | .setHops => Sys2Proof.Machine.execSetHops s
  | .setPath => Sys2Proof.Machine.execSetPath s
  | .enablePath => Sys2Proof.Machine.execEnablePath s
  | .disablePath => Sys2Proof.Machine.execDisablePath s
  | .setRoute => Sys2Proof.Machine.execSetRoute s
  | .setEpoch => Sys2Proof.Machine.execSetEpoch s
  | .setTime => Sys2Proof.Machine.execSetTime s
  | .setTiming => Sys2Proof.Machine.execSetTiming s
  | .setNotify => Sys2Proof.Machine.execSetNotify s
  | .readPath => Sys2Proof.Machine.execReadPath s
  | .readHop => Sys2Proof.Machine.execReadHop s
  | .readRoute => Sys2Proof.Machine.execReadRoute s
  | .readPort => Sys2Proof.Machine.execReadPort s
  | .readTime => Sys2Proof.Machine.execReadTime s
  | .readGuard => Sys2Proof.Machine.execReadGuard s
  | .clearExtremes => Sys2Proof.Machine.execClearExtremes s
  | .resyncSite => Sys2Proof.Machine.execResyncSite s
  | .loopback => Sys2Proof.Machine.execLoopback s
  | .loopbackTimerExpiry => Sys2Proof.Machine.execLoopbackTimerExpiry s
  | .saveConfig => Sys2Proof.Machine.execSaveConfig s
  | .flashStageComplete => Sys2Proof.Machine.execFlashStageComplete s
  | .flashFailure => Sys2Proof.Machine.execFlashFailure s
  | .saveTimerExpiry => Sys2Proof.Machine.execSaveTimerExpiry s
  | .resetStation => Sys2Proof.Machine.execResetStation s
  | .resetInput => Sys2Proof.Machine.execResetInput s
  | .startUpOrder straps flash => Sys2Proof.Machine.execStartUpOrder straps flash s
  | .ready => Sys2Proof.Machine.execReady s
  | .frameReceptionStart port => Sys2Proof.Machine.execFrameReceptionStart port s

end Sys2Proof.Machine
end

