-- ==== Sys2Proof/Safety.lean ====
section
/-! DEFINITION. What a safe state is, and the words the statements use: what an event may leave changed, what a
command's taking and its completion are. -/

namespace Sys2Proof.Machine

/-! ## Ranges the manual gives the part's state -/

/-- The Time Unit's ranges (1.2): I and adj within ±100,000 ppb, the good-run count at most 8. -/
def TimeUnit.inRange (t : TimeUnit) : Prop :=
  -100000 ≤ t.integral ∧ t.integral ≤ 100000 ∧ -100000 ≤ t.adj ∧ t.adj ≤ 100000 ∧ t.goodRun ≤ 8

/-- The own-request queue holds at most 32 line requests (R90). -/
def Interposer.inRange (m : Interposer) : Prop := m.own.length ≤ 32

/-- A port's queues hold at most 32 urgent frames and 16 bulk frames (7.1). -/
def Transmitter.inRange (t : Transmitter) : Prop := t.urgent.length ≤ 32 ∧ t.bulk.length ≤ 16

/-- A path has at most 4 outstanding probes (R49). -/
def PathRec.inRange (p : PathRec) : Prop := p.outstanding.length ≤ 4

/-- The catch buffer holds at most 32 lines (R101). -/
def CaptureUnit.inRange (c : CaptureUnit) : Prop := c.buffer.length ≤ 32

/-- A site's pending list holds at most 8 records (9.2). -/
def RxSite.inRange (x : RxSite) : Prop := x.ring.pending.length ≤ 8

/-- Every capacity is kept. -/
structure State.Safe (s : State) : Prop where
  time : s.tu.inRange
  own : s.mi.inRange
  ports : ∀ k : PortNo, s.tx[k].inRange
  probes : ∀ p : PathNo, s.paths[p].inRange
  caught : s.cu.inRange
  records : ∀ r : Site, s.rmu[r].inRange

/-- A stale mirror line is in order when a write of its own waits for room. -/
def State.staleWaits (s : State) (stale : Bool) (tag : OwnTag) : Prop :=
  stale = true → s.cmd.statusOn = true ∧ s.mi.waiting.any (fun g => g.has tag) = true

/-- CMD owes no write: every change of the cause set has formed its write, and every stale mirror line has a
write that waits (R163, R166). -/
structure State.Settled (s : State) : Prop where
  changes : s.cmd.changes = []
  summary : s.staleWaits s.cmd.staleSummary .summary
  low : s.staleWaits s.cmd.staleLow .hopsLow
  high : s.staleWaits s.cmd.staleHigh .hopsHigh

/-! ## What an event leaves unchanged -/

/-- The state outside CMD, the own-request queue and the pins. -/
def State.outside (s : State) : State :=
  { s with out := [], cmd := CommandUnit.reset, mi := { s.mi with own := [], waiting := [], nextId := 0 } }

/-- The state outside these and what sending touches: the ports, the paths, the routes and the records. -/
def State.outsideSending (s : State) : State :=
  { s.outside with tx := Vector.replicate 6 Transmitter.reset, paths := Vector.replicate 16 PathRec.reset,
                   rs := RouteSelector.reset, cu := CaptureUnit.reset }

/-- The state outside these and the Receive Merge Unit. -/
def State.outsideTraffic (s : State) : State :=
  { s.outsideSending with rmu := Vector.replicate 8 RxSite.reset }

/-- A cause is set. -/
def State.hasCause (s : State) (c : Cause) : Prop := s.cmd.causes.getLsbD c.code = true

/-- No cause was raised but, it may be, COMMAND_DONE. -/
def State.raisedNothing (s t : State) : Prop :=
  t.cmd.causes = s.cmd.causes ∨ t.cmd.causes = s.cmd.causes ||| Cause.commandDone.bit

/-- An own request has been formed and not yet granted: it has joined the queue or waits for room. -/
def State.owes (s : State) (line : Nat) (write : Option WLine) (tag : OwnTag) : Prop :=
  ∃ r ∈ s.mi.own ++ s.mi.waiting.flatMap (·.reqs), r.line = line ∧ r.write = write ∧ r.tag = tag

/-- Own requests have been formed as a run, in this order with nothing between them. -/
def State.owesRun (s : State) (run : List (Nat × Option WLine × OwnTag)) : Prop :=
  run <:+: (s.mi.own ++ s.mi.waiting.flatMap (·.reqs)).map (fun r => (r.line, r.write, r.tag))

/-- Where CMD owed nothing and the queue has room for two lines, a change of the cause set has formed two writes, of the
summary mirror as it now stands and then of the cause line (R163, R166). -/
def State.WritesBoth (s t : State) : Prop :=
  s.Settled → s.cmd.statusOn = true → s.mi.waiting = [] → s.mi.own.length + 2 ≤ 32 → t.cmd.causes ≠ s.cmd.causes →
  t.mi.own = s.mi.own ++ [⟨s.mi.nextId, s.controlLine + 2, some (summaryLineOf t), .summary⟩,
    ⟨s.mi.nextId + 1, s.controlLine, some (causeLineOf t.cmd.causes), .causeLine⟩]

/-- The answer to the oldest outstanding request, an own one, has been taken: the head is no longer held on it (R91,
R92). -/
def State.answered (s : State) (r : OwnReq) (rest : List Outstanding) : State :=
  { s with
    out := []
    mi := { s.mi with
      outstanding := rest
      head := s.mi.head.map (fun h => (⟨h.parts, h.held.filter (· ≠ r.id)⟩ : Head)) } }

/-! ## Time, routes, ports and rings -/

/-- The seconds an accepted pulse is given: the announcement's, or previous seconds plus 1 outside UNSET (R6). -/
def State.GivesSeconds (s : State) (sec : Nat) : Prop :=
  s.tu.annValid = true ∧ sec = s.tu.annSeconds ∨
  s.tu.annValid = false ∧ s.tu.state ≠ .unset ∧ ∃ q, s.tu.prevSeconds = some q ∧ sec = q + 1

/-- A path is eligible for a message to the site: a candidate that is UP (R68). -/
def State.eligibleFor (s : State) (site : Site) (p : PathNo) : Prop :=
  p ∈ s.rs.routes[site].cands ∧ s.paths[p].state = .up

/-- A port holds an urgent copy: in its urgent queue, or on its line. -/
def Transmitter.holds (t : Transmitter) (m : Msg) : Prop :=
  UFrame.msg m ∈ t.urgent ∨ ∃ stamp, t.line = some (.msg m, stamp)

/-- A bulk frame stands in a port's bulk queue as the last not-started one of its path, with the frames ahead of it and
behind it, and has room for a message of `n` payload bytes more (R114). -/
structure Transmitter.LastTakes (t : Transmitter) (n : Nat) (ahead : List BulkFrame) (f : BulkFrame)
    (behind : List BulkFrame) : Prop where
  queued : t.bulk = ahead ++ f :: behind
  last : ∀ g ∈ behind, g.path ≠ f.path
  count : f.msgs.length < 8
  total : f.total + 8 + n ≤ 1024

/-- A port's queue has room for a message of a class and a payload length on a path (R69): an urgent queue below 32
frames; a bulk queue below 16 frames, or a frame of the path that the message would join. -/
def Transmitter.hasRoom (t : Transmitter) (p : PathNo) (cls : MsgClass) (n : Nat) : Prop :=
  match cls with
  | .urgent => t.urgent.length < 32
  | .bulk => t.bulk.length < 16 ∨ ∃ ahead f behind, t.LastTakes n ahead f behind ∧ f.path = p

/-- The port of a path has room for a message (R69). -/
def State.pathHasRoom (s : State) (p : PathNo) (cls : MsgClass) (n : Nat) : Prop :=
  s.tx[s.paths[p].port].hasRoom p cls n

/-- A port carries a copy: an urgent one in its queue or on its line, a bulk one in a frame of its path that waits or is
in progress. -/
def Transmitter.carries (t : Transmitter) (m : Msg) : Prop :=
  match m.cls with
  | .urgent => t.holds m
  | .bulk => ∃ f : BulkFrame, (f ∈ t.bulk ∨ ∃ c, t.ctx = some c ∧ c.frame = f) ∧ f.path = m.path ∧ m ∈ f.msgs

/-- What placing a bulk message does to a port's bulk queue: it joins the last not-started frame of its path, if that
has room, and opens a frame at the tail otherwise (R69, R114). -/
structure Transmitter.TakesBulk (t t' : Transmitter) (m : Msg) : Prop where
  joins : ∀ ahead f behind, t.LastTakes m.payload.length ahead f behind → f.path = m.path →
    t'.bulk = ahead ++ { f with msgs := f.msgs ++ [m] } :: behind
  opens : (∀ ahead f behind, t.LastTakes m.payload.length ahead f behind → f.path ≠ m.path) →
    t'.bulk = t.bulk ++ [⟨m.path, [m]⟩]

/-- A dual copy is wanted beside a primary on a path (R70). -/
def State.wantsDual (s : State) (site : Site) (p : PathNo) (force : Bool) : Prop :=
  s.rs.routes[site].dual = .always ∨ (s.rs.routes[site].dual = .onFade ∧ 0 < s.paths[p].fading) ∨ force = true

/-- A control or urgent frame waits at a port (R118). -/
def Transmitter.hasWaiting (t : Transmitter) : Prop := t.probeBack ≠ none ∨ t.probe ≠ none ∨ t.urgent ≠ []

/-- Path `p`'s probe `id` starts on its port's free line: it is outstanding, the oldest of four making way as lost, and
counted sent (R49, R116). -/
def PathRec.withProbe (id : Byte) (t1 : Stamp) (now : Nat) (x : PathRec) : PathRec :=
  { x with
    outstanding := x.outstanding.drop (if 4 ≤ x.outstanding.length then 1 else 0) ++ [⟨id, t1, now⟩]
    counters := { x.counters with
      sent := x.counters.sent + 1, lost := x.counters.lost + if 4 ≤ x.outstanding.length then 1 else 0 } }

/-- A ring that is present and has so many free slots (R142). -/
def RxRing.roomy (x : RxRing) (free : Nat → Prop) : Prop :=
  ∃ base n : Nat, x.place = some (base, n) ∧ free (freeSlots n x.consumer x.producer)

/-- A path is the one path not OFF over a port to its site (R40, R131). -/
def State.OnlyPath (s : State) (k : PortNo) (p : PathNo) : Prop :=
  s.paths[p].port = k ∧ s.paths[p].state ≠ .off ∧
  ∀ q : PathNo, q ≠ p → s.paths[q].state ≠ .off → s.paths[q].port ≠ k ∨ s.paths[q].site ≠ s.paths[p].site

/-- A ring of N slots after the slot at its producer is taken (R142). -/
def RxRing.after (n : Nat) (x : RxRing) : RxRing :=
  { x with producer := if x.producer + 1 = n then 0 else x.producer + 1
           lap := if x.producer + 1 = n then !x.lap else x.lap }

/-- The three writes of a slot at the producer of a ring of N slots with its control line at `base` (R145). -/
def RxRing.slotWrites (base n : Nat) (first second : List Byte) (x : RxRing) : List (Nat × Option WLine × OwnTag) :=
  [(base + 3 + 2 * x.producer, some (second.map some), .receiveSlot),
   (base + 2 + 2 * x.producer, some ((first.set 0 (if x.lap then 0xA1 else 0xA0)).map some), .receiveSlot),
   (base, some (partLine [(0, leBytes 4 (x.after n).producer ++ [if (x.after n).lap then 0xA1 else 0xA0])]),
     .receiveSlot)]

/-- The bytes a fragment 0's header announces: T (R133). -/
def Fragment.total (f : Fragment) : Nat := ((f.lengths.take f.count).map (8 + ·)).sum

/-- A fragment 0's header passes: 1 to 8 messages of 1 to 96 bytes, and at most 1,024 bytes in all (R133). -/
def Fragment.goodHeader (f : Fragment) : Prop :=
  1 ≤ f.count ∧ f.count ≤ 8 ∧ (∀ n ∈ f.lengths.take f.count, 1 ≤ n ∧ n ≤ 96) ∧ f.total ≤ 1024

/-- A range of pages holds neither the page of entry 14 nor, `e` apart, a page of an enabled entry of a given sort. -/
def State.clearOf (s : State) (e : EntryNo) (sort : Window → Prop) (lo hi : Nat) : Prop :=
  (s.mi.windows[14].limit < lo ∨ hi < s.mi.windows[14].base) ∧
  ∀ i : EntryNo, i ≠ e → s.mi.windows[i].enabled = true → sort s.mi.windows[i] →
    s.mi.windows[i].limit < lo ∨ hi < s.mi.windows[i].base

/-- An entry is no enabled TRANSMIT or RECEIVE one: its range, kind and parameter may be changed (R82). -/
def State.mayChange (s : State) (e : EntryNo) : Prop :=
  s.mi.windows[e].enabled = true → s.mi.windows[e].kind ≠ .transmit ∧ s.mi.windows[e].kind ≠ .receive

/-- Another enabled entry of a kind names the same ring or site. -/
def State.namesToo (s : State) (e : EntryNo) (kind : WinKind) (param : Nat) : Prop :=
  ∃ i : EntryNo, i ≠ e ∧ s.mi.windows[i].enabled = true ∧ s.mi.windows[i].kind = kind ∧ s.mi.windows[i].param = param

/-- A range of pages, `e` apart, holds a page of an enabled entry of a given sort. -/
def State.sharesWith (s : State) (e : EntryNo) (sort : Window → Prop) (lo hi : Nat) : Prop :=
  ∃ i : EntryNo, i ≠ e ∧ s.mi.windows[i].enabled = true ∧ sort s.mi.windows[i] ∧
    lo ≤ s.mi.windows[i].limit ∧ s.mi.windows[i].base ≤ hi

/-- An enabled entry with the range, kind code and parameter fails one of the BAD_PARAM checks (R82). -/
def State.badWindow (s : State) (e : EntryNo) (kind : Byte) (param lo hi : Nat) : Prop :=
  hi < lo ∨ 16777215 < lo ∨ 16777215 < hi ∨ kind = 3 ∨ kind = 4 ∧ (e ≠ 15 ∨ lo ≠ hi) ∨
  kind = 1 ∧ (3 < param ∨ s.namesToo e .transmit param ∨ lo + 8 ≤ hi) ∨
  kind = 2 ∧ (7 < param ∨ param = s.ownSite.val ∨ s.namesToo e .receive param ∨ lo + 8 ≤ hi) ∨
  lo ≤ s.mi.windows[14].limit ∧ s.mi.windows[14].base ≤ hi ∨
  (kind = 1 ∨ kind = 2 ∨ kind = 4) ∧ s.sharesWith e (fun _ => True) lo hi ∨
  kind = 5 ∧ s.sharesWith e (fun w => w.kind ≠ .guard) lo hi

/-! ## SET_HOPS' records (R22, R23) -/

/-- A hop with the thresholds of a record, clamped, and what applying a record clears (R22, R23). -/
def HopRec.given (rec : List Byte) (h : HopRec) : HopRec :=
  let down := max (-1000) (min (-201) (signedField rec 4 2))
  let fade := max down (max (-1000) (min (-201) (signedField rec 2 2)))
  { h with
    fade := fade, down := down, hyst := min (-200 - fade) (max 1 (min 200 (byteAt rec 6))),
    debounce := min 8 (max 1 (byteAt rec 7)), state := .unknown, count := 0, last := none,
    extremes := false, step := 0, lastReport := none, reportDue := none }

/-- What records applied in list order make of a hop: those that name it, one after the other (R23). -/
def hopAfter (recs : List (List Byte)) (h : HopNo) (x : HopRec) : HopRec :=
  recs.foldl (fun x rec => if byteAt rec 0 = h.val then x.given rec else x) x

/-- A record may be applied: it names a hop whose port, if it has one, has every path OFF (R23). -/
def State.takesRecord (s : State) (rec : List Byte) : Prop :=
  rec.length = 8 ∧ ∃ h : HopNo, byteAt rec 0 = h.val ∧ ∀ (k : PortNo) (i : Nat), s.hops[h].place = some (k, i) →
    ∀ q : PathNo, s.paths[q].port = k → s.paths[q].state = .off

/-- A record is refused, with its error (R23). -/
inductive State.RefusesRecord (s : State) (rec : List Byte) : ErrorCode → Prop where
  | noHop (bad : 95 < byteAt rec 0) : RefusesRecord s rec .badParam
  | inUse (h : HopNo) (k : PortNo) (i : Nat) (q : PathNo) (named : byteAt rec 0 = h.val)
      (place : s.hops[h].place = some (k, i)) (on : s.paths[q].port = k) (used : s.paths[q].state ≠ .off) :
      RefusesRecord s rec .notOff

/-! ## The start-up order (R171) -/

/-- The own-request queue has drained: every own request issued and answered (R167). -/
def State.Drained (s : State) : Prop :=
  s.mi.own = [] ∧ s.mi.waiting = [] ∧ ∀ o ∈ s.mi.outstanding, ∃ n cause, o = .forwarded n cause

/-- The present receive rings: the enabled RECEIVE entries (R144). -/
def State.receiveRings (s : State) : List Window :=
  s.mi.windows.toList.filter (fun w => w.enabled && w.kind == .receive)

/-- Each enabled RECEIVE entry names a site, no two the same, and no record is pending. -/
structure State.RingsPlaced (s : State) : Prop where
  sites : ∀ i : EntryNo, s.mi.windows[i].enabled = true → s.mi.windows[i].kind = .receive →
    s.mi.windows[i].param < 8 ∧ ∀ j : EntryNo, s.mi.windows[j].enabled = true → s.mi.windows[j].kind = .receive →
      s.mi.windows[j].param = s.mi.windows[i].param → j = i
  empty : ∀ r : Site, s.rmu[r].ring.pending = []

/-- Step 7 has been begun: every present receive ring has started, its control line's write formed, and the order waits
for as many answers; with no ring it is at step 8 (R144, R171). -/
structure State.StartsRings (s t : State) : Prop where
  step : t.startUp = { s.startUp with
    step := if s.receiveRings = [] then 8 else 7, left := s.receiveRings.length }
  started : ∀ (i : EntryNo) (r : Site), s.mi.windows[i].enabled = true → s.mi.windows[i].kind = .receive →
    s.mi.windows[i].param = r.val →
    t.rmu[r] = { s.rmu[r] with ring := ⟨some (s.mi.windows[i].base * 64,
      32 * (s.mi.windows[i].limit + 1 - s.mi.windows[i].base) - 1), 0, true, 0, []⟩ } ∧
    t.owes (s.mi.windows[i].base * 64) (some (partLine [(0, [0, 0, 0, 0, 0xA1, 0, 0, 0, 0, 0, 0, 0])])) .startUp
  others : ∀ r : Site, (∀ i : EntryNo, s.mi.windows[i].enabled = true → s.mi.windows[i].kind = .receive →
    s.mi.windows[i].param ≠ r.val) → t.rmu[r] = s.rmu[r]

/-- The writes of step 6 for some blocks, in their order: bytes 3 to 7, a status and zeros (R167, R171). -/
def State.blockWrites (s : State) (status : Byte) (blocks : List BlockNo) : List (Nat × Option WLine × OwnTag) :=
  blocks.map (fun b => (s.blockLine b, some (partLine [(3, [status, 0, 0, 0, 0])]), .startUp))

/-- The blocks noted aborted, in their order (R167). -/
def State.abortedBlocks (s : State) : List BlockNo := (List.finRange 8).filter (fun b => s.cmd.blocks[b].aborted)

/-! ## Images (R169, 12.5) -/

/-- The flash holds no image that CL accepts, with the result that says why (R169). -/
inductive FlashFails : Option (List Byte) → ImageResult → Prop where
  | silent : FlashFails none .noFlash
  | signature (image : List Byte) (long : 16 ≤ image.length) (bad : image.take 4 ≠ [0x56, 0x4A, 0x43, 0x31]) :
      FlashFails (some image) .badSignature
  | length (image : List Byte) (long : 16 ≤ image.length) (good : image.take 4 = [0x56, 0x4A, 0x43, 0x31])
      (bad : field image 4 4 < 16 + 8 * byteAt image 8 ∨ 65536 < field image 4 4 ∨ 12 < byteAt image 8) :
      FlashFails (some image) .badLength
  | crc (image : List Byte) (good : image.take 4 = [0x56, 0x4A, 0x43, 0x31])
      (fits : 16 + 8 * byteAt image 8 ≤ field image 4 4 ∧ field image 4 4 ≤ 65536 ∧ byteAt image 8 ≤ 12)
      (held : field image 4 4 ≤ image.length)
      (bad : (image.drop 12).take 4 ≠ crcBytes ((image.take (field image 4 4)).drop 16)) :
      FlashFails (some image) .badCrc

/-- An image of the blocks given, each with its type, in that order (12.5). -/
def imageOf (blocks : List (Byte × List Byte)) : List Byte :=
  let start := 16 + 8 * blocks.length
  let descriptors := blocks.zipIdx.flatMap (fun b =>
    [b.1.1, 0, 0, 0] ++ leBytes 2 (start + ((blocks.take b.2).map (·.2.length)).sum) ++ leBytes 2 b.1.2.length)
  let rest := descriptors ++ blocks.flatMap (·.2)
  [0x56, 0x4A, 0x43, 0x31] ++ leBytes 4 (16 + rest.length) ++ leBytes 1 blocks.length ++ [0, 0, 0] ++ crcBytes rest ++
    rest

/-- An image of four blocks: NOTIFY, then TIMING, then HOPS with one record, then IDENTITY. -/
def fourBlockImage (site : Byte) (serial : BitVec 64) (causes limit : Nat) (timeouts : Fin 14 → Nat)
    (hop : List Byte) : List Byte :=
  imageOf [(8, leBytes 2 causes),
    (7, layout 48 [(0, leBytes 2 limit), (4, (List.finRange 14).flatMap (fun i => leBytes 3 (timeouts i)))]),
    (4, hop), (1, layout 16 [(0, [site]), (8, leBytes 8 serial.toNat)])]

/-- The place of a remote site's urgent timeout among the fourteen; that of its bulk timeout follows (12.3). -/
def timeoutPlace (own r : Site) : Nat := 2 * if r < own then r.val else r.val - 1

/-! ## Commands -/

/-- CMD can take a command: block `b`'s, whose copy has the code and the parameters, with `rest` behind it. -/
structure State.Takes (s : State) (b : BlockNo) (rest : List BlockNo) (code : Nat) (p : List Byte) : Prop where
  ready : s.isReady = true
  free : s.cmd.exec = none
  front : s.cmd.pending = b :: rest
  coded : byteAt s.cmd.blocks[b].copy 0 = code
  params : s.cmd.blocks[b].copy.drop 16 = p

/-- Block `b`'s command has ended with the error, the remaining count and the results: its completion write is
formed, it is CLOSING, and the other blocks and the own requests formed before are as they were (R161). -/
structure State.Completes (s t : State) (b : BlockNo) (e : ErrorCode) (remaining : Nat)
    (results : List (Nat × List Byte)) : Prop where
  closing : t.cmd.blocks[b].state = .closing
  error : t.cmd.blocks[b].error = e
  count : t.cmd.blocks[b].remaining = remaining
  others : ∀ c : BlockNo, c ≠ b → t.cmd.blocks[c] = s.cmd.blocks[c]
  write : t.owes (s.blockLine b)
    (some (partLine (statusBytes e s.cmd.blocks[b].overrun remaining ++ results))) (.completion b)
  kept : ∀ line w tag, s.owes line w tag → t.owes line w tag

/-- The command at the front was taken and has ended, CMD carries out none, and the enable set, a save in progress and
the loopback run number are as they were. -/
structure State.Done (s t : State) (b : BlockNo) (rest : List BlockNo) (e : ErrorCode)
    (results : List (Nat × List Byte)) : Prop where
  ended : s.Completes t b e 0 results
  pending : t.cmd.pending = rest
  free : t.cmd.exec = none
  enables : t.cmd.enables = s.cmd.enables
  save : t.cmd.save = s.cmd.save
  runNo : t.cmd.runNo = s.cmd.runNo

/-- The command was refused, and changed nothing. -/
def State.Refuses (s t : State) (b : BlockNo) (rest : List BlockNo) (e : ErrorCode) : Prop :=
  s.Done t b rest e [] ∧ t.outside = s.outside ∧ s.raisedNothing t

/-! ## Frames of the six kinds, well formed -/

/-- The fields of a frame's body lie in the ranges its layout can carry (8.1, 12.4). -/
def FrameBody.wellFormed : FrameBody → Prop
  | .msg _ _ _ _ payload => 1 ≤ payload.length ∧ payload.length ≤ 96
  | .bulk f => f.index < 16 ∧ f.count < 256 ∧ f.lengths.length = 8 ∧ (∀ n ∈ f.lengths, n < 256) ∧
      1 ≤ f.payload.length ∧ f.payload.length ≤ 64
  | .probe _ => True
  | .probeBack .. => True
  | .hopstat es => es.length ≤ 24 ∧
      ∀ e ∈ es, e.position < 256 ∧ -32768 ≤ e.level ∧ e.level ≤ 32767 ∧ e.step < 128
  | .test _ index pattern => index < 256 ∧ pattern.length = 64

/-- A frame a receiver of the site may take: its body well formed, and, for a kind whose sites are examined,
destined to the site and from another (R130). -/
def Frame.wellFormed (own : Site) (f : Frame) : Prop :=
  f.body.wellFormed ∧
  (f.body.directed = true → f.dst.toNat = own.val ∧ f.src.toNat ≤ 7 ∧ f.src.toNat ≠ own.val)

end Sys2Proof.Machine
end

