-- ==== Sys2Proof/Certificates/Slice0/Obligations.lean ====
section
/-! DEFINITION. The statements for the provers. -/

open Sys2Proof Sys2Proof.Machine

/-! ## The machine -/

/-- A step takes the command at the front of the queue and is its meaning on the state with the queue's rest;
on an empty queue one nanosecond of the oscillator passes (the model's choice, assumption 1): the interval clock
advances at each thousandth (R2), station time runs on by 1 ns corrected by adj, what is below 1 ns being kept (R1),
and nothing else changes. -/
def Obligations.StepRunsTheFront : Prop :=
  (∀ (c : Instr) (rest : List Instr) (s : State),
    step { s with pending := c :: rest } = exec c { s with pending := rest }) ∧
  ∀ s : State, s.pending = [] → -100000 ≤ s.tu.adj → ∃ n f : Nat,
    (n : Int) * 1000000000 + f = s.tu.frac + 1000000000 + s.tu.adj ∧ f < 1000000000 ∧
    step s = .next { s with
      out := []
      clock := if s.subMicro + 1 < 1000 then s.clock else s.clock + 1
      subMicro := if s.subMicro + 1 < 1000 then s.subMicro + 1 else 0
      tu := { s.tu with station := s.tu.station + BitVec.ofNat 64 n, frac := f } }

/-- No command touches the queue of the commands that wait (the model's own, assumption 1). -/
def Obligations.CommandsLeaveTheQueue : Prop :=
  ∀ (c : Instr) (s t : State), exec c s = .next t → t.pending = s.pending

/-- Right after power-on reset every capacity and range holds, and no write is owed. -/
def Obligations.ResetIsSafe : Prop := State.reset.Safe ∧ State.reset.Settled

/-- Every step keeps I and adj within ±100,000 ppb and the good-run count at most 8 (R1, 1.2). -/
def Obligations.TimeStaysInRange : Prop :=
  ∀ s t : State, s.tu.inRange → step s = .next t → t.tu.inRange

/-- The own-request queue never holds more than 32 line requests (R90). -/
def Obligations.OwnQueueStaysBounded : Prop :=
  ∀ s t : State, s.mi.inRange → step s = .next t → t.mi.inRange

/-- No step takes a port's urgent queue above 32 frames or its bulk queue above 16 (R69, R113, R114). -/
def Obligations.PortQueuesStayBounded : Prop :=
  ∀ s t : State, (∀ k : PortNo, s.tx[k].inRange) → step s = .next t → ∀ k : PortNo, t.tx[k].inRange

/-- No step takes a path above 4 outstanding probes, the catch buffer above 32 lines, or a site's pending list
above 8 records (R49, R101, R153). -/
def Obligations.BuffersStayBounded : Prop :=
  ∀ s t : State, step s = .next t →
    ((∀ p : PathNo, s.paths[p].inRange) → ∀ p : PathNo, t.paths[p].inRange) ∧
    (s.cu.inRange → t.cu.inRange) ∧
    ((∀ r : Site, s.rmu[r].inRange) → ∀ r : Site, t.rmu[r].inRange)

/-- After every step CMD's record of what it has to write is in order: the list of changes of the cause set not yet
taken up is empty, and each stale mirror line has a write of its own that waits for room. It is kept so at the end of
each event (the model's choice, assumption 14), where changes are dropped unwritten until the status area of a start-up
has been written (the model's choice, assumption 15); PulsesMissed says which writes a change forms (R163, R166). -/
def Obligations.ChangesAreWritten : Prop :=
  ∀ s t : State, s.Settled → step s = .next t → t.Settled

/-! ## Frames -/

/-- A well-formed frame of any of the six kinds, as the part forms it, passes every check of a receiver it is
meant for, which reads back the same frame (R130, 12.4). -/
def Obligations.FramesReadBack : Prop :=
  ∀ (own : Site) (f : Frame), f.wellFormed own → judge own f.encode = .good f

/-! ## Station time -/

/-- ANNOUNCEMENT: one of fourteen characters, 0x24 and the length 12 first, whose check is right and whose seconds
count is in range, is held as valid, and any other is discarded (R4). SECOND_PULSE: one less than 500,000 µs after the
last accepted is ignored entirely (R5), and an accepted one with neither an announcement nor previous seconds, or in
UNSET without an announcement, only restarts the pulse-missing timer (R5, R6). Nothing else changes. -/
def Obligations.AnnouncementIsHeld : Prop :=
  ∀ s : State, s.Settled →
    (∀ sec : Nat, sec ≤ 18446744073 →
      exec (.announcement (0x24 :: 12 :: leBytes 8 sec ++ crcBytes (12 :: leBytes 8 sec))) s =
        .next { s with out := [], tu := { s.tu with annSeconds := sec, annValid := true } }) ∧
    (∀ chars : List Byte, chars.length ≠ 14 ∨ byteAt chars 0 ≠ 0x24 ∨ byteAt chars 1 ≠ 12 ∨
      18446744073 < field chars 2 8 ∨ (chars.drop 10).take 4 ≠ crcBytes ((chars.drop 1).take 9) →
      exec (.announcement chars) s = .next { s with out := [] }) ∧
    (∀ l : Nat, s.tu.lastPulse = some l → s.now < l + 500000 → exec .secondPulse s = .next { s with out := [] }) ∧
    ((∀ l, s.tu.lastPulse = some l → l + 500000 ≤ s.now) → s.tu.annValid = false →
      s.tu.prevSeconds = none ∨ s.tu.state = .unset →
      exec .secondPulse s = .next { s with
        out := []
        tu := { s.tu with lastPulse := some s.now, missingDue := some (s.now + 1500000) } })

/-- SECOND_PULSE, steering: an accepted pulse given its seconds, by the announcement or as previous seconds plus 1, with
a phase error e of at most 1 ms moves I and adj, counts good pulses and changes the time state as R9 gives; station
time is not stepped. -/
def Obligations.PulseSteers : Prop :=
  ∀ (s : State) (sec : Nat) (e : Int),
    (∀ l, s.tu.lastPulse = some l → l + 500000 ≤ s.now) → s.GivesSeconds sec → s.tu.state ≠ .unset →
    e = (s.tu.station.toNat : Int) - (sec : Int) * 1000000000 → e.natAbs ≤ 1000000 →
    ∃ t, exec .secondPulse s = .next t ∧
      t.tu.integral = max (-100000) (min 100000 (s.tu.integral - e.tdiv 16)) ∧
      t.tu.adj = max (-100000) (min 100000 (t.tu.integral - e.tdiv 4)) ∧
      t.tu.goodRun = (if e.natAbs ≤ 100 then min 8 (s.tu.goodRun + 1) else 0) ∧
      (s.tu.state = .acquiring → t.tu.state = if t.tu.goodRun = 8 then .locked else .acquiring) ∧
      (s.tu.state = .locked → t.tu.state = if 1000 < e.natAbs then .acquiring else .locked) ∧
      (s.tu.state = .holdover ∨ s.tu.state = .free → t.tu.state = .acquiring) ∧
      (s.tu.state = .holdover → t.tu.holdoverStart = none ∧ t.tu.holdoverDue = none) ∧
      (t.tu.state ≠ s.tu.state → t.hasCause .timeChange) ∧
      t.tu.lastPulse = some s.now ∧ t.tu.missingDue = some (s.now + 1500000) ∧ t.tu.annValid = false ∧
      t.tu.prevSeconds = some sec ∧ t.tu.lastError = e ∧
      t.tu.station = s.tu.station ∧ t.tu.steps = s.tu.steps ∧ t.outside = { s with tu := t.tu }.outside

/-- SECOND_PULSE, stepping: an accepted pulse given its seconds, by the announcement or as previous seconds plus 1, with
a phase error above 1 ms, in any state but UNSET, steps station time onto the second; ACQUIRING, good run 0, I and adj
kept, the holdover timer and start cleared out of HOLDOVER, with R12's consequences (R8). In UNSET an announced pulse
sets the clock, whatever its phase error: ACQUIRING with I, adj and the good run 0 (R7). -/
def Obligations.LargeErrorSteps : Prop :=
  ∀ (s : State) (sec : Nat) (e : Int),
    (∀ l, s.tu.lastPulse = some l → l + 500000 ≤ s.now) → s.GivesSeconds sec →
    e = (s.tu.station.toNat : Int) - (sec : Int) * 1000000000 → s.tu.state = .unset ∨ 1000000 < e.natAbs →
    ∃ t, exec .secondPulse s = .next t ∧
      t.tu.station = BitVec.ofNat 64 (sec * 1000000000) ∧ t.tu.state = .acquiring ∧ t.tu.goodRun = 0 ∧
      t.tu.integral = (if s.tu.state = .unset then 0 else s.tu.integral) ∧
      t.tu.adj = (if s.tu.state = .unset then 0 else s.tu.adj) ∧
      (s.tu.state = .holdover → t.tu.holdoverStart = none ∧ t.tu.holdoverDue = none) ∧
      t.tu.steps = s.tu.steps + 1 ∧ t.hasCause .timeChange ∧
      t.tu.lastPulse = some s.now ∧ t.tu.missingDue = some (s.now + 1500000) ∧ t.tu.annValid = false ∧
      t.tu.prevSeconds = some sec ∧ t.tu.lastError = max (-(2 ^ 63)) (min (2 ^ 63 - 1) e) ∧
      (∀ p : PathNo, t.paths[p] = { s.paths[p] with outstanding := [] }) ∧
      (∀ k : PortNo, t.tx[k] = { s.tx[k] with probeBack := none }) ∧
      t.outside = { s with tu := t.tu, paths := t.paths, tx := t.tx }.outside

/-- PULSE_MISSING_EXPIRY and HOLDOVER_EXPIRY: LOCKED goes to HOLDOVER with adj at I and the holdover timer running,
ACQUIRING to FREE, the other states stand (R10); HOLDOVER goes to FREE (R11). Each change raises TIME_CHANGE and forms
the writes of the summary mirror and of the cause line, in that order (R13, R163, R166; formed at the event's end,
assumption 14). -/
def Obligations.PulsesMissed : Prop :=
  ∀ (s : State) (d : Nat), d ≤ s.now →
    (s.tu.missingDue = some d →
      (s.tu.state = .locked → ∃ t, exec .pulseMissingExpiry s = .next t ∧
        t.tu = { s.tu with state := .holdover, adj := s.tu.integral, goodRun := 0, missingDue := none,
                           holdoverStart := some s.now,
                           holdoverDue := some (s.now + s.tu.limit * 1000000) } ∧
        t.hasCause .timeChange ∧ s.WritesBoth t ∧ t.outside = { s with tu := t.tu }.outside) ∧
      (s.tu.state = .acquiring → ∃ t, exec .pulseMissingExpiry s = .next t ∧
        t.tu = { s.tu with state := .free, adj := s.tu.integral, goodRun := 0, missingDue := none } ∧
        t.hasCause .timeChange ∧ s.WritesBoth t ∧ t.outside = { s with tu := t.tu }.outside) ∧
      (s.tu.state ≠ .locked → s.tu.state ≠ .acquiring → s.Settled →
        exec .pulseMissingExpiry s = .next { s with out := [], tu := { s.tu with missingDue := none } })) ∧
    (s.tu.holdoverDue = some d → s.tu.state = .holdover → ∃ t, exec .holdoverExpiry s = .next t ∧
      t.tu = { s.tu with state := .free, holdoverStart := none, holdoverDue := none } ∧
      t.hasCause .timeChange ∧ s.WritesBoth t ∧ t.outside = { s with tu := t.tu }.outside)

/-! ## Hops -/

/-- REPORT_TIMER_EXPIRY: a CLEAR or FADING hop whose report timer has run out goes DOWN with step 0 and raises
HOP_CHANGE; its settings and every other hop are unchanged (R31, R34). -/
def Obligations.SilentHopGoesDown : Prop :=
  ∀ (s : State) (h : HopNo) (d : Nat), s.isReady = true → s.hops[h].reportDue = some d → d ≤ s.now →
    s.hops[h].state = .clear ∨ s.hops[h].state = .fading →
    ∃ t, exec (.reportTimerExpiry h) s = .next t ∧
      t.hops[h] = { s.hops[h] with state := .down, step := 0, count := 0, reportDue := none } ∧
      (∀ g : HopNo, g ≠ h → t.hops[g] = s.hops[g]) ∧ t.hasCause .hopChange ∧
      t.outsideSending = { s with hops := t.hops }.outsideSending

/-- FRAME_ARRIVAL of a HOPSTAT frame with one entry: the hop its position names takes the report, brought into
range, its level and step recorded and its report timer restarted, and DOWN at once when the report is link-lost,
at step 0 or below the down threshold (R24 to R26); other hops are unchanged. -/
def Obligations.HopReportIsTaken : Prop :=
  ∀ (s : State) (k : PortNo) (stamp : Stamp) (here : Bool) (src dst : Byte) (e : HopEntry) (h : HopNo),
    s.isReady = true → s.link[k] = true → s.rx[k].reception = some (stamp, here) → s.ports[k].kind = .radio →
    1 ≤ e.position → e.position < 256 → -32768 ≤ e.level → e.level ≤ 32767 → e.step < 128 →
    s.ports[k].chain[e.position - 1]? = some h →
    ∃ t, exec (.frameArrival k (Frame.encode ⟨src, dst, .hopstat [e]⟩)) s = .next t ∧
      t.hops[h].lastReport = some s.now ∧
      t.hops[h].reportDue = some (s.now + s.ports[k].timeoutMs * 1000) ∧
      t.hops[h].step = (if e.lost then 0 else min 7 e.step) ∧
      t.hops[h].last = (if e.lost then s.hops[h].last else some (max (-1000) (min (-200) e.level))) ∧
      (e.lost = true ∨ e.step = 0 ∨ max (-1000) (min (-200) e.level) < s.hops[h].down →
        t.hops[h].state = .down ∧ t.hops[h].count = 0) ∧
      (∀ g : HopNo, g ≠ h → t.hops[g] = s.hops[g]) ∧
      t.rx[k].counters = { s.rx[k].counters with good := s.rx[k].counters.good + 1 } ∧
      t.outsideSending = { s with hops := t.hops, rx := t.rx }.outsideSending

/-- The debounce of a hop's state: what a report that does not meet the DOWN condition makes of UNKNOWN, CLEAR,
FADING and DOWN (R27 to R30). -/
def Obligations.HopStateFollowsReports : Prop :=
  ∀ (h : HopRec) (now timeout : Nat) (level : Int) (step : Nat), 1 ≤ step → h.down ≤ level → 1 ≤ h.debounce →
    (h.state = .unknown →
      (h.report now timeout level step false).state = (if level < h.fade then .fading else .clear) ∧
      (h.report now timeout level step false).count = 0) ∧
    (h.state = .clear → h.fade ≤ level →
      (h.report now timeout level step false).state = .clear ∧ (h.report now timeout level step false).count = 0) ∧
    (h.state = .clear → level < h.fade → h.count + 1 < h.debounce →
      (h.report now timeout level step false).state = .clear ∧
      (h.report now timeout level step false).count = h.count + 1) ∧
    (h.state = .clear → level < h.fade → h.debounce ≤ h.count + 1 →
      (h.report now timeout level step false).state = .fading ∧
      (h.report now timeout level step false).count = 0) ∧
    (h.state = .fading → level < h.fade + h.hyst →
      (h.report now timeout level step false).state = .fading ∧
      (h.report now timeout level step false).count = 0) ∧
    (h.state = .fading → h.fade + h.hyst ≤ level → h.count + 1 < h.debounce →
      (h.report now timeout level step false).state = .fading ∧
      (h.report now timeout level step false).count = h.count + 1) ∧
    (h.state = .fading → h.fade + h.hyst ≤ level → h.debounce ≤ h.count + 1 →
      (h.report now timeout level step false).state = .clear ∧
      (h.report now timeout level step false).count = 0) ∧
    (h.state = .down → h.down + h.hyst ≤ level →
      (h.report now timeout level step false).state = .fading ∧
      (h.report now timeout level step false).count = 0) ∧
    (h.state = .down → level < h.down + h.hyst → (h.report now timeout level step false).state = .down)

/-! ## Paths -/

/-- PROBE_TIMER_EXPIRY and PROBE_LIFETIME_EXPIRY: a probe is placed with the path's next id and the timer restarted
with the interval in force (R47, R48). On a busy line, or behind a PROBE-BACK, it waits in the port's slot; on a free
line it starts, is outstanding and counted sent (R49, R116). A probe that waited in the slot is counted replaced at
its path (R48, R115). The oldest outstanding probe at the end of its lifetime is removed and counted lost, and nothing
else changes (R50). -/
def Obligations.ProbeTimers : Prop :=
  ∀ (s : State) (p : PathNo) (k : PortNo), s.isReady = true → s.paths[p].port = k →
    (∀ d, s.paths[p].probeDue = some d → d ≤ s.now →
      ∃ (t : State) (replaced : PathNo → BitVec 32), exec (.probeTimerExpiry p) s = .next t ∧
        (∀ q : PathNo, replaced q =
          s.paths[q].counters.replaced + if (s.tx[k].probe.map (·.1)) = some q then 1 else 0) ∧
        (∀ placed : PathRec, placed = { s.paths[p] with
            nextId := s.paths[p].nextId + 1
            probeDue := some (s.now +
              if s.paths[p].state = .up ∧ s.paths[p].fading = 0 then s.paths[p].normal else s.paths[p].fast)
            counters := { s.paths[p].counters with replaced := replaced p } } →
          (lineFree k s = false → t.paths[p] = placed ∧
            t.tx[k] = { s.tx[k] with probe := some (p, s.paths[p].nextId) }) ∧
          (lineFree k s = true → s.tx[k].probeBack ≠ none → t.paths[p] = placed ∧
            t.tx[k].probe = some (p, s.paths[p].nextId)) ∧
          (lineFree k s = true → s.tx[k].probeBack = none →
            t.paths[p] = placed.withProbe s.paths[p].nextId s.tu.station s.now ∧
            t.tx[k] = { s.tx[k] with
              probe := none, line := some (.probe p s.paths[p].nextId, s.tu.station), state := .urgent
              holdoffDue := none })) ∧
        (∀ q : PathNo, q ≠ p →
          t.paths[q] = { s.paths[q] with counters := { s.paths[q].counters with replaced := replaced q } }) ∧
        (∀ j : PortNo, j ≠ k → t.tx[j] = s.tx[j]) ∧
        t.outside = { s with tx := t.tx, paths := t.paths }.outside) ∧
    (s.Settled → ∀ (o : Probe) (rest : List Probe), s.paths[p].outstanding = o :: rest →
      o.sentAt + min (4 * s.paths[p].normal) 20000 ≤ s.now →
      exec (.probeLifetimeExpiry p) s = .next ({ s with out := [] }.updPath p (fun x =>
        { x with outstanding := rest, counters := { x.counters with lost := x.counters.lost + 1 } })))

/-- SILENCE_TIMER_EXPIRY: a PROBING or UP path, whose link is then up and whose hops all CLEAR or FADING (R42), goes
DOWN and straight back to PROBING: the estimator unseeded, est and its settings kept, the outstanding probes emptied
and none counted lost, the silence timer at now + 2^N, the probe timer at now + B, a probe with the next id waiting in
the port's slot or started on its free line, and PATH_CHANGE raised (R42 to R44, R46, R48). -/
def Obligations.SilentPathGoesDown : Prop :=
  ∀ (s : State) (p : PathNo) (d : Nat), s.isReady = true → s.paths[p].silenceDue = some d → d ≤ s.now →
    s.paths[p].state = .probing ∨ s.paths[p].state = .up → passable s p = true →
    ∃ t, exec (.silenceTimerExpiry p) s = .next t ∧
      t.paths[p] = { s.paths[p] with
        state := .probing, seeded := false, run := 0, nextId := s.paths[p].nextId + 1,
        silenceDue := some (s.now + 2 ^ s.paths[p].silence), probeDue := some (s.now + s.paths[p].fast),
        outstanding := t.paths[p].outstanding,
        counters := { s.paths[p].counters with sent := t.paths[p].counters.sent } } ∧
      (t.tx[s.paths[p].port].probe = some (p, s.paths[p].nextId) ∧ t.paths[p].outstanding = [] ∧
          t.paths[p].counters.sent = s.paths[p].counters.sent ∨
        t.tx[s.paths[p].port].line = some (.probe p s.paths[p].nextId, s.tu.station) ∧
          t.paths[p].outstanding = [⟨s.paths[p].nextId, s.tu.station, s.now⟩] ∧
          t.paths[p].counters.sent = s.paths[p].counters.sent + 1) ∧
      (s.tx[s.paths[p].port].line ≠ none → t.paths[p].outstanding = []) ∧
      (∀ q : PathNo, q ≠ p → t.paths[q].state = s.paths[q].state) ∧ t.hasCause .pathChange ∧
      t.outsideSending = s.outsideSending

/-- FRAME_ARRIVAL of a PROBE-BACK that answers a PROBING path's only outstanding probe with a valid HALF sample:
the estimator is seeded and the path goes UP, and PATH_CHANGE is raised (R51 to R53, R55). -/
def Obligations.FirstSampleTakesPathUp : Prop :=
  ∀ (s : State) (k : PortNo) (p : PathNo) (stamp t2 t3 : Stamp) (o : Probe) (rtt : Int),
    s.isReady = true → s.link[k] = true → s.rx[k].reception = some (stamp, false) →
    s.paths[p].port = k → s.paths[p].site ≠ s.ownSite → s.paths[p].state = .probing → s.paths[p].seeded = false →
    (∀ q : PathNo, q ≠ p → s.paths[q].state ≠ .off →
      s.paths[q].port ≠ k ∨ s.paths[q].site ≠ s.paths[p].site) →
    s.paths[p].outstanding = [o] → rtt = ((stamp - o.t1) - (t3 - t2)).toInt → 0 ≤ rtt → rtt ≤ 200000000 →
    ∃ t, exec (.frameArrival k
        (Frame.encode ⟨siteByte s.paths[p].site, siteByte s.ownSite, .probeBack o.id true t2 t3⟩)) s = .next t ∧
      t.paths[p].state = .up ∧ t.paths[p].seeded = true ∧ t.paths[p].est = (rtt / 2).toNat ∧
      t.paths[p].rttEst = rtt.toNat ∧ t.paths[p].method = some .half ∧ t.paths[p].run = 0 ∧
      t.paths[p].outstanding = [] ∧ t.paths[p].counters.samples = s.paths[p].counters.samples + 1 ∧
      t.paths[p].silenceDue = some (s.now + 2 ^ s.paths[p].silence) ∧ t.hasCause .pathChange ∧
      t.outsideSending = { s with rx := t.rx }.outsideSending

/-- A valid sample (R52): it counts, its method becomes the path's, and it seeds an unseeded path or one whose method
changes (R53). One that does not seed and is an outlier leaves the estimates until the fourth in a row, which
reseeds; any other ends the run and moves both estimates toward the sample by the floor of the difference over 2 to
the filter shift (R54). -/
def Obligations.SamplesAreTaken : Prop :=
  ∀ (x : PathRec) (rtt f : Int) (m : Method), 0 ≤ f → f ≤ rtt → rtt ≤ 200000000 →
    (x.takeSample rtt m f).counters.samples = x.counters.samples + 1 ∧
    (x.takeSample rtt m f).method = some m ∧
    (x.seeded = false ∨ x.method ≠ some m →
      (x.takeSample rtt m f).est = f.toNat ∧ (x.takeSample rtt m f).rttEst = rtt.toNat ∧
      (x.takeSample rtt m f).run = 0 ∧ (x.takeSample rtt m f).seeded = true ∧
      (x.takeSample rtt m f).counters.reseeds =
        if x.seeded = true then x.counters.reseeds + 1 else x.counters.reseeds) ∧
    (x.est ≤ 200000000 → x.rttEst ≤ 200000000 → x.seeded = true → x.method = some m →
      (x.outlier < (f - x.est).natAbs →
        (x.takeSample rtt m f).counters.outliers = x.counters.outliers + 1 ∧
        (x.run + 1 < 4 → (x.takeSample rtt m f).run = x.run + 1 ∧ (x.takeSample rtt m f).est = x.est ∧
          (x.takeSample rtt m f).rttEst = x.rttEst ∧
          (x.takeSample rtt m f).counters.reseeds = x.counters.reseeds) ∧
        (4 ≤ x.run + 1 → (x.takeSample rtt m f).run = 0 ∧ (x.takeSample rtt m f).est = f.toNat ∧
          (x.takeSample rtt m f).rttEst = rtt.toNat ∧
          (x.takeSample rtt m f).counters.reseeds = x.counters.reseeds + 1)) ∧
      ((f - x.est).natAbs ≤ x.outlier →
        (x.takeSample rtt m f).run = 0 ∧
        ((x.takeSample rtt m f).est : Int) = x.est + (f - x.est) / 2 ^ x.shift ∧
        ((x.takeSample rtt m f).rttEst : Int) = x.rttEst + (rtt - x.rttEst) / 2 ^ x.shift ∧
        (x.takeSample rtt m f).counters.outliers = x.counters.outliers ∧
        (x.takeSample rtt m f).counters.reseeds = x.counters.reseeds))

/-! ## Routes -/

/-- SELECTION while an eligible path has room for the message's class: an eligible path with room is given the
primary, with the route's next number of the class, the epoch and the placement mark. An urgent one stands in its
port's urgent queue or, the line being free, on the line; a bulk one joins the last not-started bulk frame of its path
or opens one (R69, R114). The path is the current path where that has room and no eligible path is faster by more than
H, and else the fastest, where that has room; any other is a fallback, and is counted (R68, R69, R76). A dual copy is
made only where one is wanted and another path is eligible, and, where the fastest such path is on another port,
exactly if that has room: it stands there as copy 1 with the same number and mark, and is counted (R64, R70). The
destination's entry is queued (R105); the other destinations, the other routes, the epoch and what sending does not
touch are unchanged (R63, R64, R68 to R71). Where no eligible path has room the destination is settled QUEUE_FULL, and
NO_ROUTE where none is eligible: one refusal is counted, no number and no mark is taken, and no port is touched (R63,
R68, R69). -/
def Obligations.SelectionPlaces : Prop :=
  ∀ (s : State) (hdr : Nat) (r : Record) (site : Site), s.isReady = true → s.rs.epoch ≠ 0 →
    s.recordOf hdr = some r → r.asking = some site →
    (∀ x : PathNo, s.eligibleFor site x → s.pathHasRoom x r.cls r.size →
      ∃ (t : State) (r' : Record) (p : PathNo) (dual : DualState) (m : Msg), exec (.selection hdr) s = .next t ∧
        s.eligibleFor site p ∧ s.pathHasRoom p r.cls r.size ∧
        m = { site := site, cls := r.cls, epoch := s.rs.epoch,
              seq := if r.cls = .urgent then s.rs.routes[site].nextUrgent else s.rs.routes[site].nextBulk,
              dual := false, capture := r.capture, payload := r.payload.getD [], slot := hdr, path := p,
              mark := s.rs.placement } ∧
        t.tx[s.paths[p].port].carries m ∧
        (∀ c : PathNo, s.rs.routes[site].current = some c → s.eligibleFor site c → s.pathHasRoom c r.cls r.size →
          (∀ q : PathNo, s.eligibleFor site q →
            arrival s r.cls r.size c ≤ arrival s r.cls r.size q + s.rs.routes[site].hyst) →
          p = c ∧ t.rs.routes[site].current = some c) ∧
        (∀ f : PathNo, s.eligibleFor site f → s.pathHasRoom f r.cls r.size →
          (∀ q : PathNo, s.eligibleFor site q → q ≠ f → arrival s r.cls r.size f < arrival s r.cls r.size q) →
          (∀ c : PathNo, s.rs.routes[site].current = some c → s.eligibleFor site c →
            arrival s r.cls r.size f + s.rs.routes[site].hyst < arrival s r.cls r.size c) →
          p = f ∧ t.rs.routes[site].current = some f) ∧
        (r.cls = .bulk → lineFree s.paths[p].port s = false →
          dual = .absent ∨ (∀ q : PathNo, s.eligibleFor site q → q ≠ p → s.paths[q].port ≠ s.paths[p].port) →
          s.tx[s.paths[p].port].TakesBulk t.tx[s.paths[p].port] m) ∧
        t.recordOf hdr = some r' ∧ r'.phase = .routing ∧
        (∀ i : Site, r'.dests[i] = if i = site then .live .queued false dual else r.dests[i]) ∧
        (dual = .absent ∧ t.rs.routes[site].counters.duals = s.rs.routes[site].counters.duals ∨
          dual = .queued ∧ t.rs.routes[site].counters.duals = s.rs.routes[site].counters.duals + 1 ∧
            ∃ q : PathNo, s.eligibleFor site q ∧ q ≠ p ∧
              t.tx[s.paths[q].port].carries { m with dual := true, path := q }) ∧
        (¬ s.wantsDual site p r.force ∨ (∀ q : PathNo, s.eligibleFor site q → q = p) → dual = .absent) ∧
        (s.wantsDual site p r.force → ∀ q : PathNo, s.eligibleFor site q → q ≠ p →
          (∀ x : PathNo, s.eligibleFor site x → x ≠ p → x ≠ q →
            arrival s r.cls r.size q < arrival s r.cls r.size x) →
          s.paths[q].port ≠ s.paths[p].port →
          (s.pathHasRoom q r.cls r.size → dual = .queued ∧
            t.tx[s.paths[q].port].carries { m with dual := true, path := q }) ∧
          (¬ s.pathHasRoom q r.cls r.size → dual = .absent)) ∧
        t.rs.routes[site].nextUrgent =
          s.rs.routes[site].nextUrgent + (if r.cls = .urgent then 1 else 0) ∧
        t.rs.routes[site].nextBulk = s.rs.routes[site].nextBulk + (if r.cls = .bulk then 1 else 0) ∧
        t.rs.routes[site].counters.placed = s.rs.routes[site].counters.placed + 1 ∧
        t.rs.routes[site].counters.fallbacks =
          s.rs.routes[site].counters.fallbacks + (if t.rs.routes[site].current = some p then 0 else 1) ∧
        t.rs.routes[site].counters.refused = s.rs.routes[site].counters.refused ∧
        t.rs.placement = s.rs.placement + 1 ∧ t.rs.epoch = s.rs.epoch ∧
        (∀ other : Site, other ≠ site → t.rs.routes[other] = s.rs.routes[other]) ∧
        (∀ q : PathNo, t.paths[q].state = s.paths[q].state) ∧ t.outsideSending = s.outsideSending) ∧
    ((∀ x : PathNo, s.eligibleFor site x → ¬ s.pathHasRoom x r.cls r.size) →
      ∃ (t : State) (r' : Record), exec (.selection hdr) s = .next t ∧ t.recordOf hdr = some r' ∧
        ((∃ x : PathNo, s.eligibleFor site x) → r'.dests[site] = .settled .queueFull) ∧
        ((∀ x : PathNo, ¬ s.eligibleFor site x) → r'.dests[site] = .settled .noRoute ∧
          t.rs.routes[site].current = s.rs.routes[site].current) ∧
        (∀ i : Site, i ≠ site → r'.dests[i] = r.dests[i]) ∧
        t.rs.routes[site].counters.refused = s.rs.routes[site].counters.refused + 1 ∧
        t.rs.routes[site].counters.placed = s.rs.routes[site].counters.placed ∧
        t.rs.routes[site].nextUrgent = s.rs.routes[site].nextUrgent ∧
        t.rs.routes[site].nextBulk = s.rs.routes[site].nextBulk ∧
        (∀ other : Site, other ≠ site → t.rs.routes[other] = s.rs.routes[other]) ∧
        t.rs.placement = s.rs.placement ∧ t.rs.epoch = s.rs.epoch ∧
        t.outside = { s with rs := t.rs, cu := t.cu }.outside)

/-- RESELECTION of a displaced message, urgent or bulk, which leaves its batch and takes no number and no mark. With
an eligible path that has room for its class, such a path's port carries the message, its epoch, sequence and mark
kept, the path being the fastest that has room; a bulk message joins the last not-started bulk frame of that path or
opens one; the destination is noted re-selected, and a fallback is counted when a faster eligible path had none. No
dual copy is made. Where no eligible path has room the destination's primary is flushed, settled unless its dual copy
is still queued (R69, R73, R75, R76, R105, R114). -/
def Obligations.DisplacedMessageReselected : Prop :=
  ∀ (s : State) (k : PortNo) (m : Msg) (rest : List Msg) (bs : List Batch),
    s.rs.batches = ⟨k, m :: rest⟩ :: bs →
    (∀ x : PathNo, s.eligibleFor m.site x → s.pathHasRoom x m.cls m.payload.length →
      ∃ (t : State) (p : PathNo), exec (.reselection k) s = .next t ∧
        s.eligibleFor m.site p ∧ s.pathHasRoom p m.cls m.payload.length ∧
        t.tx[s.paths[p].port].carries { m with path := p } ∧
        (m.cls = .bulk → lineFree s.paths[p].port s = false →
          s.tx[s.paths[p].port].TakesBulk t.tx[s.paths[p].port] { m with path := p }) ∧
        (∀ j : PortNo, j ≠ s.paths[p].port → t.tx[j] = s.tx[j]) ∧
        (∀ q : PathNo, s.eligibleFor m.site q →
          arrival s m.cls m.payload.length q < arrival s m.cls m.payload.length p →
          ¬ s.pathHasRoom q m.cls m.payload.length) ∧
        (∀ (r : Record) (re : Bool) (dual : DualState), s.recordOf m.slot = some r → r.phase = .routing →
          r.dests[m.site] = .live .queued re dual →
          ∃ r', t.recordOf m.slot = some r' ∧ r'.phase = .routing ∧
            ∀ i : Site, r'.dests[i] = if i = m.site then .live .queued true dual else r.dests[i]) ∧
        t.rs.routes[m.site] = { s.rs.routes[m.site] with counters := { s.rs.routes[m.site].counters with
          rerouted := s.rs.routes[m.site].counters.rerouted + 1
          fallbacks := t.rs.routes[m.site].counters.fallbacks } } ∧
        ((∃ q : PathNo, s.eligibleFor m.site q ∧
            arrival s m.cls m.payload.length q < arrival s m.cls m.payload.length p) →
          t.rs.routes[m.site].counters.fallbacks = s.rs.routes[m.site].counters.fallbacks + 1) ∧
        ((∀ q : PathNo, s.eligibleFor m.site q → q ≠ p →
            arrival s m.cls m.payload.length p < arrival s m.cls m.payload.length q) →
          t.rs.routes[m.site].counters.fallbacks = s.rs.routes[m.site].counters.fallbacks) ∧
        (∀ other : Site, other ≠ m.site → t.rs.routes[other] = s.rs.routes[other]) ∧
        t.rs.placement = s.rs.placement ∧ t.rs.batches = (if rest = [] then bs else ⟨k, rest⟩ :: bs) ∧
        t.outsideSending = s.outsideSending) ∧
    ((∀ x : PathNo, s.eligibleFor m.site x → ¬ s.pathHasRoom x m.cls m.payload.length) →
      ∃ t, exec (.reselection k) s = .next t ∧
        (∀ (r : Record) (re : Bool) (dual : DualState), s.recordOf m.slot = some r → r.phase = .routing →
          r.dests[m.site] = .live .queued re dual →
          ∃ r', t.recordOf m.slot = some r' ∧
            ∀ i : Site, r'.dests[i] = if i = m.site then
              (if dual = .queued then .live .flushed re .queued else .settled .flushed) else r.dests[i]) ∧
        t.rs.routes[m.site] = { s.rs.routes[m.site] with counters := { s.rs.routes[m.site].counters with
          flushed := s.rs.routes[m.site].counters.flushed + 1 } } ∧
        (∀ other : Site, other ≠ m.site → t.rs.routes[other] = s.rs.routes[other]) ∧
        t.rs.placement = s.rs.placement ∧ t.rs.batches = (if rest = [] then bs else ⟨k, rest⟩ :: bs) ∧
        t.outside = { s with rs := t.rs, cu := t.cu }.outside)

/-! ## Ports -/

/-- FRAME_COMPLETE of a MSG frame's primary, the only copy of its destination: the port counts it sent and the
destination is settled, SENT or REROUTED (R75, R105, R122, R128). Of the last fragment of a bulk frame: the frame is
counted sent, each primary in it settles its destination likewise, and the port, with nothing waiting, is IDLE with no
bulk context (R122). Of a fragment that is not the last: with nothing waiting, or at the suspend ceiling, the next
fragment starts; else the frame is suspended and the frame that waits starts (R116 to R118). Of an abandoned fragment,
with nothing waiting: the line is free, and nothing is reported (R123). -/
def Obligations.PrimarySentSettles : Prop :=
  (∀ (s : State) (k : PortNo) (m : Msg) (stamp : Stamp) (r : Record) (re : Bool),
    s.tx[k].line = some (.msg m, stamp) → m.dual = false → s.recordOf m.slot = some r → r.phase = .routing →
    r.dests[m.site] = .live .queued re .absent →
    ∃ t r', exec (.frameComplete k) s = .next t ∧ t.recordOf m.slot = some r' ∧
      r'.dests[m.site] = .settled (if re then .rerouted else .sent) ∧
      t.tx[k].counters.urgentSent = s.tx[k].counters.urgentSent + 1 ∧
      (∀ j : PortNo, j ≠ k → t.tx[j] = s.tx[j]) ∧
      t.outsideSending = s.outsideSending) ∧
  (∀ (s : State) (k : PortNo) (f : BulkFrame) (id : Byte) (i : Nat) (stamp : Stamp),
    s.tx[k].line = some (.frag f id i false, stamp) → i + 1 = f.count →
    ∃ t, exec (.frameComplete k) s = .next t ∧
      t.tx[k].counters.bulkSent = s.tx[k].counters.bulkSent + 1 ∧
      (∀ (m : Msg) (r : Record) (re : Bool), m ∈ f.msgs → m.dual = false →
        (∀ m' ∈ f.msgs, m'.slot = m.slot → m' = m) → s.recordOf m.slot = some r → r.phase = .routing →
        r.dests[m.site] = .live .queued re .absent →
        ∃ r', t.recordOf m.slot = some r' ∧ r'.dests[m.site] = .settled (if re then .rerouted else .sent)) ∧
      (s.link[k] = true → ¬ s.tx[k].hasWaiting → s.tx[k].bulk = [] →
        t.tx[k] = { s.tx[k] with
          line := none, ctx := none, state := .idle, holdoffDue := none
          counters := { s.tx[k].counters with bulkSent := s.tx[k].counters.bulkSent + 1 } }) ∧
      (∀ j : PortNo, j ≠ k → t.tx[j] = s.tx[j]) ∧ t.outsideSending = s.outsideSending) ∧
  (∀ (s : State) (k : PortNo) (c : BulkContext) (i : Nat) (stamp : Stamp) (ceiling : Option Nat),
    s.tx[k].line = some (.frag c.frame c.id i false, stamp) → i + 1 ≠ c.frame.count → s.tx[k].ctx = some c →
    s.link[k] = true →
    ceiling = [some 128000, some 256000, some 512000, none].getD s.tx[k].ceilingCode none →
    ∃ t, exec (.frameComplete k) s = .next t ∧
      (∀ next : Transmitter, next = { s.tx[k] with
          line := some (.frag c.frame c.id c.next false, s.tu.station), state := .bulk, holdoffDue := none
          ctx := some { c with next := c.next + 1, since := none }
          counters := { s.tx[k].counters with fragments := s.tx[k].counters.fragments + 1 } } →
        (¬ s.tx[k].hasWaiting → t.tx[k] = next) ∧
        (∀ limit : Nat, s.tx[k].hasWaiting → ceiling = some limit → limit ≤ c.suspended →
          t.tx[k] = { next with counters := { next.counters with
            ceilingHolds := s.tx[k].counters.ceilingHolds + 1 } })) ∧
      (∀ set : Transmitter, set = { s.tx[k] with
          state := .urgent, holdoffDue := none, ctx := some { c with since := some s.nowNs }
          counters := { s.tx[k].counters with suspensions := s.tx[k].counters.suspensions + 1 } } →
        (∀ limit : Nat, ceiling = some limit → c.suspended < limit) →
        (∀ b : ProbeBack, s.tx[k].probeBack = some b →
          t.tx[k] = { set with probeBack := none, line := some (.probeBack b.dst b.id b.t2, s.tu.station) }) ∧
        (∀ (p : PathNo) (id : Byte), s.tx[k].probeBack = none → s.tx[k].probe = some (p, id) →
          t.tx[k] = { set with probe := none, line := some (.probe p id, s.tu.station) }) ∧
        (∀ (u : UFrame) (more : List UFrame), s.tx[k].probeBack = none → s.tx[k].probe = none →
          s.tx[k].urgent = u :: more →
          t.tx[k] = { set with
            urgent := more
            line := some (match u with | .msg m => .msg m | .test run j => .test run j, s.tu.station) })) ∧
      (∀ j : PortNo, j ≠ k → t.tx[j] = s.tx[j]) ∧ t.outsideSending = s.outsideSending) ∧
  (∀ (s : State) (k : PortNo) (f : BulkFrame) (id : Byte) (i : Nat) (stamp : Stamp),
    s.tx[k].line = some (.frag f id i true, stamp) → s.link[k] = true → ¬ s.tx[k].hasWaiting → s.tx[k].bulk = [] →
    s.tx[k].ctx = none →
    ∃ t, exec (.frameComplete k) s = .next t ∧
      t.tx[k] = { s.tx[k] with line := none, state := .idle, holdoffDue := none } ∧
      t.outside = { s with tx := t.tx }.outside ∧ (∀ j : PortNo, j ≠ k → t.tx[j] = s.tx[j]))

/-- HOLDOFF_EXPIRY: the suspended bulk frame resumes with its next fragment, its cumulative suspension grown by the
time since it was suspended (R119, R120). -/
def Obligations.HoldoffEndsInResume : Prop :=
  ∀ (s : State) (k : PortNo) (c : BulkContext) (d t0 : Nat), s.isReady = true → s.link[k] = true →
    s.tx[k].line = none → s.tx[k].holdoffDue = some d → d ≤ s.nowNs → s.tx[k].ctx = some c →
    c.since = some t0 →
    ∃ t, exec (.holdoffExpiry k) s = .next t ∧
      t.tx[k] = { s.tx[k] with
        line := some (.frag c.frame c.id c.next false, s.tu.station), state := .bulk, holdoffDue := none,
        ctx := some { c with next := c.next + 1, suspended := c.suspended + (s.nowNs - t0), since := none },
        counters := { s.tx[k].counters with fragments := s.tx[k].counters.fragments + 1 } } ∧
      (∀ j : PortNo, j ≠ k → t.tx[j] = s.tx[j]) ∧
      t.outside = { s with tx := t.tx, cu := t.cu }.outside

/-- LINK_UP: the port's link flag is up, PATH_CHANGE is raised, and every DOWN path of the port stays DOWN or is
PROBING as its hops allow (R42, R45). -/
def Obligations.LinkReturns : Prop :=
  ∀ (s : State) (k : PortNo), s.isReady = true → s.link[k] = false →
    ∃ t, exec (.linkUp k) s = .next t ∧ t.link[k] = true ∧ t.linkInput[k] = true ∧
      (∀ j : PortNo, j ≠ k → t.link[j] = s.link[j] ∧ t.linkInput[j] = s.linkInput[j]) ∧ t.hasCause .pathChange ∧
      (∀ p : PathNo, s.paths[p].port = k → s.paths[p].state = .down →
        t.paths[p].state = if (s.ports[k].chain.take s.paths[p].drop).all (fun h =>
          s.hops[h].state == .clear || s.hops[h].state == .fading) then .probing else .down) ∧
      (∀ p : PathNo, s.paths[p].port ≠ k ∨ s.paths[p].state ≠ .down → t.paths[p].state = s.paths[p].state) ∧
      t.outsideSending = { s with link := t.link, linkInput := t.linkInput }.outsideSending

/-- LINK_LOST: the port's transmitter holds nothing any more, and the primaries it held, on the line, queued or in the
bulk frame in progress, stand in one batch of the port at RS, behind the earlier batches and ordered by capture time
and then by placement mark (one batch, as the transmitter acts before PM: the model's choice, assumption 12); its
receiver has no frame in reception and no reassembly, no path of the port is PROBING or UP, and PATH_CHANGE is raised
(R45, R72, R123, R125, R138). It speaks of a link lost while CMD carries out no command. -/
def Obligations.LinkLossEmptiesPort : Prop :=
  ∀ (s : State) (k : PortNo), s.isReady = true → s.link[k] = true → s.cmd.exec = none →
    ∃ t, exec (.linkLost k) s = .next t ∧ t.link[k] = false ∧ t.linkInput[k] = false ∧
      t.tx[k].urgent = [] ∧ t.tx[k].bulk = [] ∧ t.tx[k].probe = none ∧ t.tx[k].probeBack = none ∧
      t.tx[k].line = none ∧ t.tx[k].ctx = none ∧ t.tx[k].state = .idle ∧ t.tx[k].holdoffDue = none ∧
      (∃ batch : List Msg,
        batch.Perm ((s.tx[k].lineMessages ++ s.tx[k].urgent.flatMap UFrame.msgs ++ s.tx[k].bulk.flatMap (·.msgs) ++
          (s.tx[k].ctx.map (·.frame.msgs)).getD []).filter (fun m => !m.dual)) ∧
        batch.Pairwise (fun a b => a.capture < b.capture ∨ (a.capture = b.capture ∧ a.mark ≤ b.mark)) ∧
        t.rs.batches = s.rs.batches ++ (if batch = [] then [] else [⟨k, batch⟩])) ∧
      t.rx[k].ctx = none ∧ t.rx[k].reception = none ∧
      t.rx[k].counters = (if s.rx[k].reception.isSome then
        { s.rx[k].counters with aborted := s.rx[k].counters.aborted + 1 } else s.rx[k].counters) ∧
      (∀ p : PathNo, s.paths[p].port = k → t.paths[p].state ≠ .probing ∧ t.paths[p].state ≠ .up) ∧
      (∀ p : PathNo, s.paths[p].port ≠ k → t.paths[p].state = s.paths[p].state) ∧
      (∀ j : PortNo, j ≠ k → t.link[j] = s.link[j] ∧ t.rx[j] = s.rx[j]) ∧ t.hasCause .pathChange ∧
      t.outsideSending = { s with link := t.link, linkInput := t.linkInput, rx := t.rx }.outsideSending

/-! ## Receiving -/

/-- FRAME_RECEPTION_START: the receiver takes the arrival stamp and the traceable flag, and nothing else changes
(R16, R129). FRAME_ARRIVAL of a good bulk fragment with a path: a fragment 0 whose header passes opens the reassembly
context, in place of one that is open, which counts one break, and completes it at once when it is flagged last; the
next fragment of that frame extends it; a last fragment that brings exactly the T bytes completes it and hands its
messages on, and one that brings fewer breaks it; any other fragment, one that is short and not last, and one that runs
past T discards the context and counts one break (R133, R134; the number of breaks where a fragment 0 both finds a
context open and is broken itself is the model's choice, assumption 19). -/
def Obligations.ReceptionTakesStamp : Prop :=
  ∀ (s : State) (k : PortNo), s.isReady = true → s.link[k] = true →
    (s.rx[k].reception = none → s.Settled →
      exec (.frameReceptionStart k) s = .next ({ s with out := [] }.updRx k (fun r =>
        { r with reception := some (s.tu.station,
            decide (s.tu.state = TimeState.locked ∨ s.tu.state = TimeState.holdover)) }))) ∧
    (∀ (p : PathNo) (stamp : Stamp) (here : Bool) (f : Fragment), s.rx[k].reception = some (stamp, here) →
      s.OnlyPath k p → s.paths[p].site ≠ s.ownSite → (FrameBody.bulk f).wellFormed →
      ∃ t, exec (.frameArrival k (Frame.encode ⟨siteByte s.paths[p].site, siteByte s.ownSite, .bulk f⟩)) s = .next t ∧
        t.rx[k].reception = none ∧ (∀ j : PortNo, j ≠ k → t.rx[j] = s.rx[j]) ∧
        t.outsideTraffic = { s with rx := t.rx }.outsideTraffic ∧
        -- A fragment 0 with a header that passes: the first of several, and the only one.
        (f.index = 0 → f.goodHeader → f.last = false → f.payload.length = 64 → 64 ≤ f.total →
          t.rx[k].ctx = some ⟨s.paths[p].site, p, f.id, 1, stamp, f.lengths.take f.count, f.copies, f.payload⟩ ∧
          t.rx[k].counters.breaks = s.rx[k].counters.breaks + (if s.rx[k].ctx.isSome then 1 else 0) ∧ t.rmu = s.rmu) ∧
        (f.index = 0 → f.goodHeader → f.last = true → f.payload.length ≤ f.total →
          t.rx[k].ctx = none ∧
          (f.payload.length = f.total → t.rx[k].counters.bulk = s.rx[k].counters.bulk + 1 ∧
            t.rx[k].counters.breaks = s.rx[k].counters.breaks + (if s.rx[k].ctx.isSome then 1 else 0)) ∧
          (f.payload.length < f.total → t.rmu = s.rmu ∧
            t.rx[k].counters.breaks = s.rx[k].counters.breaks + (if s.rx[k].ctx.isSome then 2 else 1))) ∧
        -- The next fragment of the open reassembly: not the last, and the last.
        (∀ c : Reassembly, f.index ≠ 0 → s.rx[k].ctx = some c → c.site = s.paths[p].site → c.id = f.id →
          c.next = f.index → f.last = false → f.payload.length = 64 →
          c.bytes.length + 64 ≤ (c.lengths.map (8 + ·)).sum →
          t.rx[k].ctx = some { c with bytes := c.bytes ++ f.payload, next := c.next + 1, path := p } ∧
          t.rx[k].counters.breaks = s.rx[k].counters.breaks ∧ t.rmu = s.rmu) ∧
        (∀ (c : Reassembly) (n : Nat) (epoch : BitVec 32), f.index ≠ 0 → s.rx[k].ctx = some c →
          c.site = s.paths[p].site → c.id = f.id → c.next = f.index → f.last = true →
          (c.bytes.length + f.payload.length = (c.lengths.map (8 + ·)).sum →
            t.rx[k].ctx = none ∧ t.rx[k].counters.breaks = s.rx[k].counters.breaks ∧
            t.rx[k].counters.bulk = s.rx[k].counters.bulk + 1 ∧
            (c.lengths = [n] → epoch = BitVec.ofNat 32 (field (c.bytes ++ f.payload) 0 4) → epoch ≠ 0 →
              epoch ≠ s.rmu[s.paths[p].site].bulk.epoch → epoch ≠ s.rmu[s.paths[p].site].bulk.prevEpoch →
              t.rmu[s.paths[p].site].bulk.epoch = epoch ∧
              t.rmu[s.paths[p].site].bulk.top = some (BitVec.ofNat 32 (field (c.bytes ++ f.payload) 4 4)) ∧
              t.rmu[s.paths[p].site].urgent = s.rmu[s.paths[p].site].urgent)) ∧
          (c.bytes.length + f.payload.length ≠ (c.lengths.map (8 + ·)).sum →
            t.rx[k].ctx = none ∧ t.rx[k].counters.breaks = s.rx[k].counters.breaks + 1 ∧ t.rmu = s.rmu)) ∧
        -- A fragment 0 that fails or runs past T, one that matches no context, a short one, and one past T.
        (f.index = 0 ∧ (¬ f.goodHeader ∨ f.total < f.payload.length) ∨
          f.index ≠ 0 ∧ (∀ c : Reassembly, s.rx[k].ctx = some c →
            c.site ≠ s.paths[p].site ∨ c.id ≠ f.id ∨ c.next ≠ f.index ∨
            (c.lengths.map (8 + ·)).sum < c.bytes.length + f.payload.length) ∨
          f.last = false ∧ f.payload.length ≠ 64 →
          t.rx[k].ctx = none ∧ t.rx[k].counters.breaks = s.rx[k].counters.breaks + 1 ∧ t.rmu = s.rmu))

/-- FRAME_ARRIVAL of a good PROBE with a path, while the port's line is busy: an answer waits in the probe-back
slot with the arrival stamp as t2, and the path's silence timer is restarted if it is PROBING or UP (R131, R135). -/
def Obligations.ProbeIsAnswered : Prop :=
  ∀ (s : State) (k : PortNo) (p : PathNo) (stamp : Stamp) (here : Bool) (id : Byte), s.Settled →
    s.isReady = true → s.link[k] = true → s.tx[k].line ≠ none → s.rx[k].reception = some (stamp, here) →
    s.paths[p].port = k → s.paths[p].state ≠ .off → s.paths[p].site ≠ s.ownSite →
    ∃ t, exec (.frameArrival k (Frame.encode ⟨siteByte s.paths[p].site, siteByte s.ownSite, .probe id⟩)) s = .next t ∧
      t.tx[k] = { s.tx[k] with probeBack := some ⟨s.paths[p].site, id, stamp⟩ } ∧
      t.rx[k] = { s.rx[k] with reception := none, counters := { s.rx[k].counters with
        good := s.rx[k].counters.good + 1, answered := s.rx[k].counters.answered + 1 } } ∧
      (s.paths[p].state = .probing ∨ s.paths[p].state = .up →
        t.paths[p].silenceDue = some (s.now + 2 ^ s.paths[p].silence)) ∧
      (∀ j : PortNo, j ≠ k → t.tx[j] = s.tx[j] ∧ t.rx[j] = s.rx[j]) ∧
      t.cmd = s.cmd ∧ t.outside = { s with tx := t.tx, rx := t.rx, paths := t.paths }.outside

/-- FRAME_ARRIVAL of an urgent message with a path. A new epoch opens a session with the message's number as top
(R146): where the ring has room for two slots, a RESTART slot and the message's slot are written, with no cause-line
write between them (the model's choice, assumption 14); where it has one, the RESTART is written and the number is a
hole; where the ring is full, is not present or has records pending, fewer than eight, the RESTART waits behind them
and the number is a hole (R150, R153). Epoch 0 and the previous epoch are stale. A message of the current epoch is
judged by its place: above top it makes holes of the numbers passed over and is written, or is a hole itself when no
slot can be written (R148, R150); one above top, where the number that leaves a full window is a hole, that number is
lost, and its GAP record is written before the message or waits (R148, R152); it fills a hole, or leaves it a hole
when no slot can be written, as the ring is full, is not present or has records pending, and where all 256 positions
then are holes the oldest is LOST and reported (R150); an accepted number is a duplicate, whose trailing lag is taken
(R56, R149); a lost number, one that holds no position, and one below the window are discarded (R147, R149). The other
window, the other sites and what receiving does not touch are unchanged. A number two or more above top that pushes
holes out of the window is not spoken of. -/
def Obligations.NewEpochOpensSession : Prop :=
  ∀ (s : State) (k : PortNo) (p : PathNo) (stamp capture : Stamp) (here : Bool) (copy : Byte)
      (epoch seq : BitVec 32) (payload : List Byte) (r : Site) (w b : RxWindow) (ring : RxRing),
    s.isReady = true → s.link[k] = true → s.rx[k].reception = some (stamp, here) →
    s.paths[p].port = k → s.paths[p].state ≠ .off → s.paths[p].site = r → r ≠ s.ownSite →
    1 ≤ payload.length → payload.length ≤ 96 → s.rmu[r] = ⟨w, b, ring⟩ →
    ∃ t, exec (.frameArrival k (Frame.encode
        ⟨siteByte r, siteByte s.ownSite, .msg copy epoch seq capture payload⟩)) s = .next t ∧
      t.rmu[r].bulk = b ∧ (∀ x : Site, x ≠ r → t.rmu[x] = s.rmu[x]) ∧
      t.outsideTraffic = { s with rx := t.rx }.outsideTraffic ∧
      (epoch ≠ 0 → epoch ≠ w.epoch → epoch ≠ w.prevEpoch →
        t.rmu[r].urgent.epoch = epoch ∧ t.rmu[r].urgent.prevEpoch = w.epoch ∧ t.rmu[r].urgent.top = some seq ∧
        t.rmu[r].urgent.map.length = 1 ∧
        (∀ base n : Nat, s.OnlyPath k p → ring.place = some (base, n) → ring.pending = [] →
          ring.producer < n → 2 ≤ freeSlots n ring.consumer ring.producer →
          t.rmu[r].urgent.map = [some (.accepted stamp p)] ∧ t.rmu[r].ring = (ring.after n).after n ∧
          t.owesRun
            (ring.slotWrites base n ((RingRecord.restart .urgent epoch w.epoch seq false).line r) (List.replicate 64 0) ++
             (ring.after n).slotWrites base n (Arrived.line ⟨r, .urgent, epoch, seq, copy, some capture, payload, stamp, p⟩)
              (Arrived.second ⟨r, .urgent, epoch, seq, copy, some capture, payload, stamp, p⟩)) ∧ t.hasCause .gap) ∧
        (s.OnlyPath k p → ring.roomy (· = 1) → ring.pending = [] →
          ∃ base n : Nat, ring.place = some (base, n) ∧ t.rmu[r].urgent.map = [some (.hole s.now)] ∧
            t.rmu[r].urgent.holeDue = some (s.now + w.timeout) ∧ t.rmu[r].ring = ring.after n ∧
            t.owesRun (ring.slotWrites base n ((RingRecord.restart .urgent epoch w.epoch seq false).line r)
              (List.replicate 64 0)) ∧ t.hasCause .gap ∧ t.hasCause .ringOverrun) ∧
        (ring.place = none ∨ ring.roomy (· = 0) ∨ ring.pending ≠ [] → ring.pending.length < 8 →
          t.rmu[r].urgent.map = [some (.hole s.now)] ∧ t.rmu[r].urgent.holeDue = some (s.now + w.timeout) ∧
          t.rmu[r].ring = { ring with pending := ring.pending ++ [.restart .urgent epoch w.epoch seq false] } ∧
          t.hasCause .ringOverrun)) ∧
      (epoch = 0 ∨ epoch = w.prevEpoch → t.rmu = s.rmu) ∧
      (∀ top : BitVec 32, s.OnlyPath k p → epoch ≠ 0 → epoch = w.epoch → epoch ≠ w.prevEpoch → w.top = some top →
        -- Above top, with a slot to write and no hole to lose.
        (∀ base n : Nat, 1 ≤ (seq - top).toNat → (seq - top).toNat ≤ 256 → ring.place = some (base, n) →
          ring.pending = [] → 1 ≤ freeSlots n ring.consumer ring.producer →
          (∀ since : Nat, some (.hole since) ∉ w.map.drop (256 - (seq - top).toNat)) →
          t.rmu[r].urgent = { w with
            top := some seq
            map := (some (Position.accepted stamp p) ::
              List.replicate ((seq - top).toNat - 1) (some (Position.hole s.now)) ++ w.map).take 256
            holeDue := t.rmu[r].urgent.oldest.map (· + w.timeout) } ∧
          t.rmu[r].ring = ring.after n ∧
          t.owesRun (ring.slotWrites base n (Arrived.line ⟨r, .urgent, epoch, seq, copy, some capture, payload, stamp, p⟩)
            (Arrived.second ⟨r, .urgent, epoch, seq, copy, some capture, payload, stamp, p⟩))) ∧
        -- Above top, with no slot to write and no hole to lose.
        (1 ≤ (seq - top).toNat → (seq - top).toNat ≤ 256 →
          ring.place = none ∨ ring.roomy (· = 0) ∨ ring.pending ≠ [] →
          (∀ since : Nat, some (.hole since) ∉ w.map.drop (256 - (seq - top).toNat)) →
          (seq - top).toNat + w.map.length < 256 ∨
            (∃ x ∈ w.map.take (256 - (seq - top).toNat), ∀ h : Nat, x ≠ some (.hole h)) →
          t.rmu[r].urgent = { w with
            top := some seq
            map := (List.replicate (seq - top).toNat (some (Position.hole s.now)) ++ w.map).take 256
            holeDue := t.rmu[r].urgent.oldest.map (· + w.timeout) } ∧
          t.rmu[r].ring = ring ∧ t.hasCause .ringOverrun) ∧
        -- One above top, in a full window whose oldest position is a hole: that number is lost.
        (∀ since : Nat, (seq - top).toNat = 1 → w.map.length = 256 → w.map[255]? = some (some (.hole since)) →
          ring.pending = [] →
          (∀ base n : Nat, ring.place = some (base, n) → ring.producer < n →
            2 ≤ freeSlots n ring.consumer ring.producer →
            t.rmu[r].urgent = { w with
              top := some seq
              map := some (Position.accepted stamp p) :: w.map.dropLast
              holeDue := t.rmu[r].urgent.oldest.map (· + w.timeout) } ∧
            t.rmu[r].ring = (ring.after n).after n ∧
            t.owesRun
              (ring.slotWrites base n ((RingRecord.gap .urgent w.epoch (top - 255) 1 .overflow false).line r)
                (List.replicate 64 0) ++
               (ring.after n).slotWrites base n
                (Arrived.line ⟨r, .urgent, epoch, seq, copy, some capture, payload, stamp, p⟩)
                (Arrived.second ⟨r, .urgent, epoch, seq, copy, some capture, payload, stamp, p⟩)) ∧
            t.hasCause .gap) ∧
          (ring.place = none ∨ ring.roomy (· = 0) →
            (∃ x ∈ w.map.dropLast, ∀ h : Nat, x ≠ some (.hole h)) →
            t.rmu[r].urgent = { w with
              top := some seq
              map := some (Position.hole s.now) :: w.map.dropLast
              holeDue := t.rmu[r].urgent.oldest.map (· + w.timeout) } ∧
            t.rmu[r].ring = { ring with pending := [.gap .urgent w.epoch (top - 255) 1 .overflow false] } ∧
            t.hasCause .ringOverrun)) ∧
        -- In the window, at a hole: filled, or a hole from now on.
        (∀ since : Nat, (top - seq).toNat ≤ 255 → w.map[(top - seq).toNat]? = some (some (.hole since)) →
          (∀ base n : Nat, ring.place = some (base, n) → ring.pending = [] →
            1 ≤ freeSlots n ring.consumer ring.producer →
            t.rmu[r].urgent = { w with
              map := w.map.set (top - seq).toNat (some (.accepted stamp p))
              holeDue := t.rmu[r].urgent.oldest.map (· + w.timeout) } ∧
            t.rmu[r].ring = ring.after n ∧
            t.owesRun (ring.slotWrites base n
              (Arrived.line ⟨r, .urgent, epoch, seq, copy, some capture, payload, stamp, p⟩)
              (Arrived.second ⟨r, .urgent, epoch, seq, copy, some capture, payload, stamp, p⟩))) ∧
          (ring.place = none ∨ ring.roomy (· = 0) ∨ ring.pending ≠ [] →
            (w.map.length < 256 ∨ (∃ x ∈ w.map, ∀ h : Nat, x ≠ some (.hole h)) →
              t.rmu[r].urgent = { w with
                map := w.map.set (top - seq).toNat (some (.hole s.now))
                holeDue := t.rmu[r].urgent.oldest.map (· + w.timeout) } ∧
              t.rmu[r].ring = ring) ∧
            (w.map.length = 256 → (∀ x ∈ w.map, ∃ h : Nat, x = some (.hole h)) → ring.pending = [] →
              t.rmu[r].urgent = { w with
                map := (w.map.set (top - seq).toNat (some (.hole s.now))).set 255 (some .lost)
                holeDue := t.rmu[r].urgent.oldest.map (· + w.timeout) } ∧
              t.rmu[r].ring = { ring with pending := [.gap .urgent w.epoch (top - 255) 1 .overflow false] }) ∧
            t.hasCause .ringOverrun)) ∧
        -- In the window, accepted already.
        (∀ (first : Stamp) (q : PathNo), (top - seq).toNat ≤ 255 →
          w.map[(top - seq).toNat]? = some (some (.accepted first q)) →
          t.rmu = s.rmu ∧ t.paths[p].lag = some (stamp - first, stamp) ∧
          t.paths[p].counters = { s.paths[p].counters with duplicates := s.paths[p].counters.duplicates + 1 }) ∧
        -- In the window, lost or without a position; and below the window.
        ((top - seq).toNat ≤ 255 ∧
            (w.map[(top - seq).toNat]? = some (some .lost) ∨ w.map[(top - seq).toNat]? = some none ∨
              w.map.length ≤ (top - seq).toNat) ∨
          255 < (top - seq).toNat ∧ 2 ^ 31 ≤ (seq - top).toNat →
          t.rmu = s.rmu ∧ t.paths[p].lag = s.paths[p].lag ∧ t.paths[p].counters = s.paths[p].counters))

/-- HOLE_TIMER_EXPIRY: every hole whose since is at or before the expiry less the timeout is LOST, every other
position stands, and the timer follows the oldest hole left (R151); a lone hole so lost is reported as one GAP record
with cause TIMEOUT, written as a slot at the ring's producer where a slot can be written (R142, R145, R152), and made
pending where the site has no ring (R153). MEMORY_GRANT of a write of a present ring's control line with the consumer
index enabled: a value of N or more is ignored; any other is taken, and the oldest pending record is then written, if
the ring has room (R143, R154). -/
def Obligations.OldHolesAreLost : Prop :=
  (∀ (s : State) (site : Site) (cls : MsgClass) (d : Nat), s.isReady = true →
    (s.rmu[site].window cls).holeDue = some d → d ≤ s.now → (s.rmu[site].window cls).top ≠ none →
    ∃ t, exec (.holeTimerExpiry site cls) s = .next t ∧
      (t.rmu[site].window cls).map = (s.rmu[site].window cls).map.map (fun p =>
        match p with
        | some (.hole since) => if since + (s.rmu[site].window cls).timeout ≤ d then some .lost else p
        | _ => p) ∧
      (t.rmu[site].window cls).holeDue =
        (((t.rmu[site].window cls).map.filterMap (fun p =>
          match p with
          | some (.hole since) => some since
          | _ => none)).min?).map (· + (s.rmu[site].window cls).timeout) ∧
      (t.rmu[site].window cls).top = (s.rmu[site].window cls).top ∧
      (t.rmu[site].window cls).epoch = (s.rmu[site].window cls).epoch ∧
      (∀ (top : BitVec 32) (i since : Nat), (s.rmu[site].window cls).top = some top →
        (s.rmu[site].window cls).map[i]? = some (some (.hole since)) →
        since + (s.rmu[site].window cls).timeout ≤ d →
        (∀ j other : Nat, j ≠ i → (s.rmu[site].window cls).map[j]? = some (some (.hole other)) →
          d < other + (s.rmu[site].window cls).timeout) → s.rmu[site].ring.pending = [] →
        (∀ base n : Nat, s.rmu[site].ring.place = some (base, n) →
          1 ≤ freeSlots n s.rmu[site].ring.consumer s.rmu[site].ring.producer →
          t.rmu[site].ring = s.rmu[site].ring.after n ∧ t.hasCause .gap ∧
          t.owesRun (s.rmu[site].ring.slotWrites base n
            ((RingRecord.gap cls (s.rmu[site].window cls).epoch (top - BitVec.ofNat 32 i) 1 .timeout false).line site)
            (List.replicate 64 0))) ∧
        (s.rmu[site].ring.place = none → t.hasCause .ringOverrun ∧
          t.rmu[site].ring = { s.rmu[site].ring with
            pending := [.gap cls (s.rmu[site].window cls).epoch (top - BitVec.ofNat 32 i) 1 .timeout false] })) ∧
      (∀ r : Site, r ≠ site → t.rmu[r] = s.rmu[r]) ∧ t.outside = { s with rmu := t.rmu }.outside) ∧
  ∀ (s : State) (site : Site) (win : Window) (w : WLine) (n v : Nat), s.isReady = true → s.mi.own = [] →
    win.kind = .receive → win.param = site.val → n = 32 * (win.limit + 1 - win.base) - 1 →
    s.rmu[site].ring.place = some (win.base * 64, n) → enabledRun w 8 4 = some (leBytes 4 v) → v < 2 ^ 32 →
    s.mi.head = some ⟨[⟨.write (win.base * 64) [w], some win⟩], []⟩ →
    ∃ t, exec .memoryGrant s = .next t ∧ t.out = [.memory (.write (win.base * 64) [w])] ∧
      (n ≤ v → t.rmu = s.rmu) ∧
      (v < n → s.rmu[site].ring.pending = [] ∨ freeSlots n v s.rmu[site].ring.producer = 0 →
        t.rmu[site].ring = { s.rmu[site].ring with consumer := v }) ∧
      (∀ rec : RingRecord, v < n → s.rmu[site].ring.pending = [rec] →
        1 ≤ freeSlots n v s.rmu[site].ring.producer →
        t.rmu[site].ring = { s.rmu[site].ring.after n with consumer := v, pending := [] } ∧ t.hasCause .gap ∧
        t.owesRun (s.rmu[site].ring.slotWrites (win.base * 64) n (rec.line site) (List.replicate 64 0))) ∧
      t.rmu[site].urgent = s.rmu[site].urgent ∧ t.rmu[site].bulk = s.rmu[site].bulk ∧
      (∀ r : Site, r ≠ site → t.rmu[r] = s.rmu[r]) ∧
      t.outside = { s with rmu := t.rmu, mi := { s.mi with head := none, outstanding := t.mi.outstanding,
                                                           lastForwarded := true } }.outside

/-! ## Memory -/

/-- REQUEST: a well-formed one is queued behind those taken before, the reset input not asserted, and nothing else
changes (R78, R94); one that is not a request of 1 to 4 whole lines is refused, and one past the address space
faults (the model's choice, assumption 21). -/
def Obligations.RequestIsQueued : Prop :=
  ∀ (s : State) (r : MemReq),
    (r.wellFormed = true → s.startUp.phase ≠ .inReset → s.Settled →
      exec (.request r) s = .next { s with out := [], mi := { s.mi with queue := s.mi.queue ++ [r] } }) ∧
    (r.countOk = false ∨ r.linesOk = false → exec (.request r) s = .refused .illFormedRequest) ∧
    (r.countOk = true → r.linesOk = true → r.inSpace = false → exec (.request r) s = .fault .addressOutsideSpace)

/-- REQUEST_HEAD before ready: a read within one page becomes the head as plain, noted to be held on every own
write pending to a line it touches (R80, R92). -/
def Obligations.PlainRequestIsHeld : Prop :=
  ∀ (s : State) (line n : Nat) (rest : List MemReq), s.isReady = false → s.mi.head = none → s.Settled →
    s.mi.queue = .read line n :: rest → n ≤ 64 - line % 64 →
    ∃ t held, exec .requestHead s = .next t ∧ t.mi.head = some ⟨[⟨.read line n, none⟩], held⟩ ∧
      (∀ w : Nat × Nat, w ∈ s.pendingWrites → (line ≤ w.2 ∧ w.2 < line + n) → w.1 ∈ held) ∧
      (∀ i ∈ held, ∃ w ∈ s.pendingWrites, w.1 = i ∧ line ≤ w.2 ∧ w.2 < line + n) ∧
      t.mi.queue = rest ∧ t.mi.own = s.mi.own ∧ t.cmd = s.cmd ∧
      t.outside = { s with mi := { s.mi with head := t.mi.head, queue := rest, answers := t.mi.answers } }.outside

/-- REQUEST_HEAD of a write in a GUARD window with write-block set, nothing else owed to the processor: it is
dropped and answered ERROR; the violation count rises, the first violation is kept or taken, and GUARD is raised
(R83, R84). -/
def Obligations.GuardedWriteIsDropped : Prop :=
  ∀ (s : State) (line : Nat) (w : WLine) (rest : List MemReq) (i : EntryNo), s.isReady = true →
    s.mi.head = none → s.mi.answers = [] → s.mi.queue = .write line [w] :: rest → noneEnabled w = false →
    s.mi.windows[i].enabled = true → s.mi.windows[i].kind = .guard → s.mi.windows[i].writeBlock = true →
    s.mi.windows[i].base ≤ line / 64 → line / 64 ≤ s.mi.windows[i].limit →
    (∀ j : EntryNo, j < i → s.mi.windows[j].enabled = true →
      line / 64 < s.mi.windows[j].base ∨ s.mi.windows[j].limit < line / 64) →
    ∃ t, exec .requestHead s = .next t ∧ t.out = [.response false []] ∧ t.mi.head = none ∧ t.mi.answers = [] ∧
      t.mi.queue = rest ∧ t.mi.violations = s.mi.violations + 1 ∧
      t.mi.violation = s.mi.violation.or (some ⟨line, true, i, .blocked⟩) ∧ t.hasCause .guard ∧
      t.mi.outstanding = s.mi.outstanding ∧ t.mi.windows = s.mi.windows ∧
      t.outside = { s with mi := { s.mi with queue := rest, violations := t.mi.violations,
                                             violation := t.mi.violation } }.outside

/-- MEMORY_GRANT while a plain head and an own request both present: the one that did not receive the previous grant
is granted and issued (R91, R93). -/
def Obligations.ArbiterAlternates : Prop :=
  ∀ (s : State) (q : MemReq) (r : OwnReq) (own : List OwnReq), s.Settled →
    s.mi.head = some ⟨[⟨q, none⟩], []⟩ → s.mi.own = r :: own →
    (s.mi.lastForwarded = true → exec .memoryGrant s = .next { s with
      out := [.memory (match r.write with | some w => .write r.line [w] | none => .read r.line 1)],
      mi := { s.mi with own := own, outstanding := s.mi.outstanding ++ [.own r], lastForwarded := false } }) ∧
    (s.mi.lastForwarded = false → ∃ o, exec .memoryGrant s = .next { s with
      out := [.memory q],
      mi := { s.mi with head := none, outstanding := s.mi.outstanding ++ [o], lastForwarded := true } })

/-- MEMORY_GRANT of a write that posts a slot of an enabled ring: the capture time is placed in the line as it goes
to memory, with zeros in the done byte, the egress time and the outcomes; the slot is IN_FLIGHT expecting the other
lap; and a record with that capture time, the length, the mask and the payload bytes 32 to 63 that the write enabled is
open (R85, R97, R99). -/
def Obligations.PostingIsCaptured : Prop :=
  ∀ (s : State) (win : Window) (t : RingTable) (ring : RingNo) (j : Nat) (lap : Bool) (w : WLine),
    s.isReady = true → s.mi.own = [] → win.kind = .transmit → win.param = ring.val →
    s.cu.rings[ring] = some t → t.base = win.base → t.limit = win.limit → t.slots[j]? = some ⟨false, lap⟩ →
    s.mi.head = some ⟨[⟨.write (t.base * 64 + 2 * j) [w], some win⟩], []⟩ → w.length = 64 →
    w[4]? = some (some (if lap then 0xA1 else 0xA0)) → (∀ i : Nat, i < 4 → enabledAt w i = true) →
    ∃ u w', exec .memoryGrant s = .next u ∧
      OutEvent.memory (.write (t.base * 64 + 2 * j) [w']) ∈ u.out ∧
      w'.length = 64 ∧ enabledRun w' 8 8 = some (leBytes 8 s.tu.station.toNat) ∧
      w'[5]? = some (some 0) ∧ enabledRun w' 16 16 = some (List.replicate 16 0) ∧
      (∀ i : Nat, i < 5 ∨ i = 6 ∨ i = 7 ∨ 32 ≤ i → w'[i]? = w[i]?) ∧
      (∃ r ∈ u.cu.records, r.hdr = t.base * 64 + 2 * j ∧ r.ring = ring ∧ r.slot = j ∧
        r.capture = s.tu.station ∧ w[0]? = some (some (BitVec.ofNat 8 r.len)) ∧ w[1]? = some (some r.mask) ∧
        r.head = w.drop 32) ∧
      (∃ t', u.cu.rings[ring] = some t' ∧ t'.slots[j]? = some ⟨true, !lap⟩) ∧
      u.outside = { s with cu := u.cu, mi := { s.mi with head := none, outstanding := u.mi.outstanding,
                                                         lastForwarded := true } }.outside

/-- MEMORY_GRANT of a write of one command block. A write of the whole block with a tag other than the last seen, the
block IDLE, issues the command: byte 3 goes to memory as BUSY, the block is PENDING with its copy, and joins the tail
of the pending list (R87, R157, R158). A new tag on a block that is not IDLE is noted as seen and sets the overrun
mark. A new tag on an IDLE block in a write that leaves a byte out is not noted: the write passes unchanged, the block
is CLOSING, and a write of ERROR with BAD_ISSUE is formed (R158). Any other write issues nothing and changes no
record. Byte 3, if enabled, goes to memory as BUSY on every block that is not IDLE (R87). A refresh write of a CLOSING
block's completion values is formed for a new tag and for a write that enables byte 3, and for nothing else (R161). -/
def Obligations.IssueJoinsPending : Prop :=
  (∀ (s : State) (win : Window) (b : BlockNo) (bytes : List Byte), s.isReady = true → s.Settled → s.mi.own = [] →
    win.kind = .control → bytes.length = 64 → s.cmd.blocks[b].state = .idle →
    bytes[1]? ≠ some s.cmd.blocks[b].lastTag →
    s.mi.head = some ⟨[⟨.write (s.mi.windows[14].base * 64 + 6 + b.val) [bytes.map some], some win⟩], []⟩ →
    ∃ t, exec .memoryGrant s = .next t ∧
      t.out = [.memory (.write (s.mi.windows[14].base * 64 + 6 + b.val) [(bytes.set 3 1).map some])] ∧
      t.cmd.blocks[b].state = .pending ∧ bytes[1]? = some t.cmd.blocks[b].lastTag ∧
      t.cmd.blocks[b].copy = bytes.set 3 1 ∧ t.cmd.pending = s.cmd.pending ++ [b] ∧
      (∀ c : BlockNo, c ≠ b → t.cmd.blocks[c] = s.cmd.blocks[c]) ∧ t.cmd.causes = s.cmd.causes ∧
      t.outside = { s with mi := { s.mi with head := none, outstanding := t.mi.outstanding,
                                             lastForwarded := true } }.outside) ∧
  ∀ (s : State) (win : Window) (b : BlockNo) (w busied : WLine) (tag : Option Byte), s.isReady = true → s.Settled →
    s.mi.own = [] → win.kind = .control → w.length = 64 → w[1]? = some tag →
    busied = (if w[3]? = some none then w else w.set 3 (some 1)) →
    s.mi.head = some ⟨[⟨.write (s.mi.windows[14].base * 64 + 6 + b.val) [w], some win⟩], []⟩ →
    (∀ new : Byte, tag = some new → new ≠ s.cmd.blocks[b].lastTag → s.cmd.blocks[b].state ≠ .idle →
      ∃ t, exec .memoryGrant s = .next t ∧
        t.out = [.memory (.write (s.mi.windows[14].base * 64 + 6 + b.val) [busied])] ∧
        t.cmd = { s.cmd with blocks := s.cmd.blocks.set b { s.cmd.blocks[b] with lastTag := new, overrun := true } } ∧
        (s.cmd.blocks[b].state = .closing → t.owes (s.blockLine b) (some (partLine
          (statusBytes s.cmd.blocks[b].error true s.cmd.blocks[b].remaining))) (.refresh b)) ∧
        (s.cmd.blocks[b].state ≠ .closing → t.mi.own = [] ∧ t.mi.waiting = s.mi.waiting) ∧
        t.outside = { s with mi := { s.mi with head := none, outstanding := t.mi.outstanding,
                                               lastForwarded := true } }.outside) ∧
    (∀ new : Byte, tag = some new → new ≠ s.cmd.blocks[b].lastTag → s.cmd.blocks[b].state = .idle → none ∈ w →
      ∃ t, exec .memoryGrant s = .next t ∧
        t.out = [.memory (.write (s.mi.windows[14].base * 64 + 6 + b.val) [w])] ∧
        t.cmd = { s.cmd with blocks := s.cmd.blocks.set b { s.cmd.blocks[b] with
          state := .closing, error := .badIssue, remaining := 0 } } ∧
        t.owes (s.blockLine b) (some (partLine (statusBytes .badIssue false 0))) (.completion b) ∧
        t.outside = { s with mi := { s.mi with head := none, outstanding := t.mi.outstanding,
                                               lastForwarded := true } }.outside) ∧
    (tag = none ∨ tag = some s.cmd.blocks[b].lastTag →
      ∃ t, exec .memoryGrant s = .next t ∧ t.cmd = s.cmd ∧
        t.out = [.memory (.write (s.mi.windows[14].base * 64 + 6 + b.val)
          [if s.cmd.blocks[b].state = .idle then w else busied])] ∧
        (s.cmd.blocks[b].state = .closing → w[3]? ≠ some none → t.owes (s.blockLine b) (some (partLine
          (statusBytes s.cmd.blocks[b].error s.cmd.blocks[b].overrun s.cmd.blocks[b].remaining))) (.refresh b)) ∧
        (s.cmd.blocks[b].state ≠ .closing ∨ w[3]? = some none → t.mi.own = [] ∧ t.mi.waiting = s.mi.waiting) ∧
        t.outside = { s with mi := { s.mi with head := none, outstanding := t.mi.outstanding,
                                               lastForwarded := true } }.outside)

/-- FORWARDED_RESPONSE to the only request whose answer is owed, a read of one line that is not the cause line: the
processor receives the response that message memory gives, OK or ERROR, with the line it carries (R78, R79). -/
def Obligations.ReadIsAnswered : Prop :=
  ∀ (s : State) (ok : Bool) (line : List Byte) (rest : List Outstanding), s.Settled →
    s.mi.outstanding = .forwarded 1 false :: rest → s.mi.answers = [[.waiting]] → line.length = 64 →
    exec (.forwardedResponse ok [line]) s = .next { s with
      out := [.response ok [line]],
      mi := { s.mi with outstanding := rest, answers := [] } }

/-- FORWARDED_RESPONSE to a cause-line read: each cause present in the value and absent from the read's re-raise
record is cleared, the others stand, and the record is discarded; a read answered ERROR clears nothing (R164). That a
byte of the value other than 0 shows its cause present, not only 1, is the model's choice (assumption 22). -/
def Obligations.CauseReadClears : Prop :=
  ∀ (s : State) (line : List Byte) (seen : BitVec 9) (more : List (BitVec 9)) (rest : List Outstanding),
    s.mi.outstanding = .forwarded 1 true :: rest → s.cmd.reRaise = seen :: more → line.length = 64 →
    (∃ t, exec (.forwardedResponse true [line]) s = .next t ∧ t.cmd.reRaise = more ∧
      (∀ i : Nat, i < 9 → t.cmd.causes.getLsbD i =
        (s.cmd.causes.getLsbD i && (line.getD i 0 == 0 || seen.getLsbD i))) ∧
      t.cmd.enables = s.cmd.enables ∧ t.cmd.blocks = s.cmd.blocks ∧
      t.outside = { s with mi := { s.mi with outstanding := rest, answers := t.mi.answers } }.outside) ∧
    (∃ t, exec (.forwardedResponse false []) s = .next t ∧ t.cmd.reRaise = more ∧ t.cmd.causes = s.cmd.causes ∧
      t.cmd.enables = s.cmd.enables ∧ t.cmd.blocks = s.cmd.blocks ∧
      t.outside = { s with mi := { s.mi with outstanding := rest, answers := t.mi.answers } }.outside)

/-- OWN_GROUP_JOIN: the group that has waited longest joins whole, in its order, when the queue has room for all its
lines, and no other joins before it (R90). -/
def Obligations.GroupJoinsWhole : Prop :=
  ∀ (s : State) (g : Group) (rest : List Group), s.mi.waiting = g :: rest → g.act = .nothing →
    (∀ r ∈ g.reqs, r.tag ≠ .summary ∧ r.tag ≠ .hopsLow ∧ r.tag ≠ .hopsHigh) → s.Settled →
    (s.mi.own.length + g.reqs.length ≤ 32 → exec .ownGroupJoin s =
      .next { s with out := [], mi := { s.mi with own := s.mi.own ++ g.reqs, waiting := rest } }) ∧
    (32 < s.mi.own.length + g.reqs.length → exec .ownGroupJoin s = .next { s with out := [] })

/-- OWN_RESPONSE to a block's completion write, OK or ERROR: the block is IDLE with no overrun mark, and the head is
no longer held on that write (R91, R92, R157). To a slot's done write, OK or ERROR: the record closes and its slot is
FREE, its expected lap kept (R107). To the last of a record's capture reads, OK: the line's bytes as read are taken and
the record is ROUTING; ERROR: each destination not settled is FLUSHED, SLOT_FAULT is raised, and the record is CLOSING
with its outcome and done writes formed (R103, R107). -/
def Obligations.CompletionIsAnswered : Prop :=
  ∀ (s : State) (ok : Bool) (r : OwnReq) (rest : List Outstanding), s.Settled → s.mi.outstanding = .own r :: rest →
    (∀ b : BlockNo, r.tag = .completion b → r.write ≠ none → s.cmd.blocks[b].state = .closing →
      exec (.ownResponse ok []) s = .next ((s.answered r rest).updBlock b
        (fun x => { x with state := .idle, overrun := false }))) ∧
    (∀ hdr : Nat, r.tag = .done hdr → r.write ≠ none →
      ∃ t, exec (.ownResponse ok []) s = .next t ∧ t.recordOf hdr = none ∧
        (∀ other : Nat, other ≠ hdr → t.recordOf other = s.recordOf other) ∧ t.cu.buffer = s.cu.buffer ∧
        (∀ ring : RingNo, s.cu.rings[ring] = none → t.cu.rings[ring] = none) ∧
        (∀ (ring : RingNo) (tab : RingTable), s.cu.rings[ring] = some tab →
          ∃ slots, t.cu.rings[ring] = some { tab with slots := slots } ∧ slots.length = tab.slots.length ∧
            ∀ (j : Nat) (x : Slot), tab.slots[j]? = some x →
              slots[j]? = some (if tab.base * 64 + 2 * j = hdr then { x with inFlight := false } else x)) ∧
        { t with cu := s.cu } = s.answered r rest) ∧
    (∀ (hdr : Nat) (rec : Record), s.recordOf hdr = some rec → rec.hdr = hdr → rec.phase = .assembling →
      r.write = none →
      (∀ (data head : List Byte), ok = true → data.length = 64 → r.tag = .captureBody hdr →
        enabledRun rec.head 0 (min rec.len 32) = some head →
        ∃ t, exec (.ownResponse ok data) s = .next t ∧
          t.recordOf hdr = some { rec with body := some (data.take (rec.len - 32)), phase := .routing } ∧
          { t with cu := s.cu } = s.answered r rest) ∧
      (∀ (data body : List Byte), ok = true → data.length = 64 → r.tag = .captureHead hdr → rec.body = some body →
        ∃ t, exec (.ownResponse ok data) s = .next t ∧
          t.recordOf hdr = some { rec with head := (data.drop 32).map some, phase := .routing } ∧
          { t with cu := s.cu } = s.answered r rest) ∧
      (ok = false → r.tag = .captureHead hdr ∨ r.tag = .captureBody hdr →
        ∃ t rec', exec (.ownResponse ok []) s = .next t ∧ t.recordOf hdr = some rec' ∧ rec'.phase = .closing ∧
          (∀ i : Site, rec'.dests[i] = match rec.dests[i] with
            | .none => .none
            | .settled o => .settled o
            | _ => .settled .flushed) ∧ t.hasCause .slotFault ∧
          t.owesRun [(hdr, some (partLine [(24, rec'.dests.toList.map Dest.byte)]), .outcomes hdr),
            (hdr, some (partLine [(5, [rec.code])]), .done hdr)] ∧
          t.outside = { s.answered r rest with cu := t.cu }.outside))

/-! ## Commands -/

/-- BAD_COMMAND: a taken command whose code is 0 or above 22 ends at once with BAD_COMMAND, changing nothing
(R159); where its completion write joins the own-request queue at once, COMMAND_DONE is raised when the notify flag of
the issuing copy is set, and no cause when it is clear (R161). -/
def Obligations.BadCodeEndsAtOnce : Prop :=
  ∀ (s : State) (b : BlockNo) (rest : List BlockNo) (code : Nat) (p : List Byte),
    s.Takes b rest code p → code = 0 ∨ 22 < code →
    ∃ t, exec .badCommand s = .next t ∧ s.Refuses t b rest .badCommand ∧
      (s.Settled → s.mi.waiting = [] → s.mi.own.length < 32 →
        ((s.cmd.blocks[b].copy.getD 2 0).getLsbD 0 = true → t.hasCause .commandDone) ∧
        ((s.cmd.blocks[b].copy.getD 2 0).getLsbD 0 = false → t.cmd.causes = s.cmd.causes))

/-- SET_WINDOW (R82; an enable byte other than 0 enables, the model's choice, assumption 29). A GUARD entry clear of
every enabled entry of another kind is stored. A TRANSMIT or RECEIVE entry that passes the checks is stored: the
ring's slots expect lap 1 and are FREE but for those of open records (R96), or the receive ring starts, its control
line written (R144). Disabling such an entry as it stands discards the slot table with the buffered bodies of its
range (R109), or the ring is no longer present (R144); changing its range, kind or parameter while it is enabled is
refused NOT_OFF. Its GUARD flags may be changed alone: another value starts a receive ring again and tells CU nothing
(the model's choice, assumption 30). An entry left disabled is stored unchecked, with its 32-bit pages and its kind
code as given (the model's choice, assumption 16). Entry 15 moves as a one-page DESCRIPTOR window. BAD_PARAM is given
for an entry above 15, entry 14, and entry 15 disabled or of another kind; for a page above 16,777,215, a limit below
the base, kind CONTROL, or DESCRIPTOR for another entry than 15 or more than one page; for a ring above 3 or named
twice, a site above 7, the own site or one named twice, and more than 8 pages; for the page of entry 14; and for a
shared page. NOT_OFF is given last for a TRANSMIT entry that leaves an open record of its ring outside its range. An
enabled entry whose code names no kind is not spoken of but for the checks that do not ask its kind. -/
def Obligations.GuardEntryIsStored : Prop :=
  ∀ (s : State) (b : BlockNo) (rest : List BlockNo) (p : List Byte), s.Takes b rest 1 p →
    (∀ e : EntryNo, byteAt p 0 = e.val → e < 14 → byteAt p 1 ≠ 0 → p.getD 2 0 = 5 →
      s.mayChange e → field p 8 4 ≤ field p 12 4 → field p 12 4 ≤ 16777215 →
      s.clearOf e (fun w => w.kind ≠ .guard) (field p 8 4) (field p 12 4) →
      ∃ t, exec .setWindow s = .next t ∧ s.Done t b rest .none [] ∧ s.raisedNothing t ∧
        t.mi.windows = s.mi.windows.set e
          { enabled := true, base := field p 8 4, limit := field p 12 4, kind := .guard, param := byteAt p 3,
            readBlock := (p.getD 4 0).getLsbD 0, writeBlock := (p.getD 4 0).getLsbD 1 } ∧
        t.outside = { s with mi := { s.mi with windows := t.mi.windows } }.outside) ∧
    (∀ (e : EntryNo) (ring : RingNo), byteAt p 0 = e.val → e < 14 → byteAt p 1 ≠ 0 → p.getD 2 0 = 1 →
      byteAt p 3 = ring.val → s.mayChange e → field p 8 4 ≤ field p 12 4 →
      field p 12 4 < field p 8 4 + 8 → field p 12 4 ≤ 16777215 →
      s.clearOf e (fun _ => True) (field p 8 4) (field p 12 4) →
      (∀ i : EntryNo, i ≠ e → s.mi.windows[i].enabled = true → s.mi.windows[i].kind = .transmit →
        s.mi.windows[i].param ≠ ring.val) →
      ((∀ x ∈ s.cu.records, x.ring = ring → field p 8 4 ≤ x.hdr / 64 ∧ x.hdr / 64 ≤ field p 12 4) →
        ∃ (t : State) (slots : List Slot), exec .setWindow s = .next t ∧ s.Done t b rest .none [] ∧
          s.raisedNothing t ∧
          t.mi.windows = s.mi.windows.set e
            { enabled := true, base := field p 8 4, limit := field p 12 4, kind := .transmit, param := ring.val,
              readBlock := (p.getD 4 0).getLsbD 0, writeBlock := (p.getD 4 0).getLsbD 1 } ∧
          t.cu = { s.cu with rings := s.cu.rings.set ring (some ⟨field p 8 4, field p 12 4, slots⟩) } ∧
          slots.length = 32 * (field p 12 4 + 1 - field p 8 4) ∧
          (∀ (j : Nat) (slot : Slot), slots[j]? = some slot → slot.lap = true ∧
            (slot.inFlight = true ↔ ∃ x ∈ s.cu.records, x.hdr = field p 8 4 * 64 + 2 * j)) ∧
          t.outside = { s with cu := t.cu, mi := { s.mi with windows := t.mi.windows } }.outside) ∧
      ((∃ x ∈ s.cu.records, x.ring = ring ∧ (x.hdr / 64 < field p 8 4 ∨ field p 12 4 < x.hdr / 64)) →
        ∃ t, exec .setWindow s = .next t ∧ s.Refuses t b rest .notOff)) ∧
    (∀ (e : EntryNo) (r : Site), byteAt p 0 = e.val → e < 14 → byteAt p 1 ≠ 0 → p.getD 2 0 = 2 →
      byteAt p 3 = r.val → r ≠ s.ownSite → s.mayChange e → field p 8 4 ≤ field p 12 4 →
      field p 12 4 < field p 8 4 + 8 → field p 12 4 ≤ 16777215 →
      s.clearOf e (fun _ => True) (field p 8 4) (field p 12 4) →
      (∀ i : EntryNo, i ≠ e → s.mi.windows[i].enabled = true → s.mi.windows[i].kind = .receive →
        s.mi.windows[i].param ≠ r.val) → s.rmu[r].ring.pending = [] →
      ∃ t, exec .setWindow s = .next t ∧ s.Done t b rest .none [] ∧ s.raisedNothing t ∧
        t.mi.windows = s.mi.windows.set e
          { enabled := true, base := field p 8 4, limit := field p 12 4, kind := .receive, param := r.val,
            readBlock := (p.getD 4 0).getLsbD 0, writeBlock := (p.getD 4 0).getLsbD 1 } ∧
        t.rmu[r] = { s.rmu[r] with ring := ⟨some (field p 8 4 * 64, 32 * (field p 12 4 + 1 - field p 8 4) - 1),
          0, true, 0, []⟩ } ∧ (∀ x : Site, x ≠ r → t.rmu[x] = s.rmu[x]) ∧
        t.owes (field p 8 4 * 64) (some (partLine [(0, [0, 0, 0, 0, 0xA1, 0, 0, 0, 0, 0, 0, 0])])) .ringStart ∧
        t.outside = { s with rmu := t.rmu, mi := { s.mi with windows := t.mi.windows } }.outside) ∧
    (∀ e : EntryNo, byteAt p 0 = e.val → e < 14 → s.mi.windows[e].enabled = true →
      s.mi.windows[e].kind = .transmit ∨ s.mi.windows[e].kind = .receive →
      (field p 8 4 ≠ s.mi.windows[e].base ∨ field p 12 4 ≠ s.mi.windows[e].limit ∨
          p.getD 2 0 ≠ s.mi.windows[e].kind.code ∨ byteAt p 3 ≠ s.mi.windows[e].param →
        ∃ t, exec .setWindow s = .next t ∧ s.Refuses t b rest .notOff) ∧
      (byteAt p 1 = 0 → field p 8 4 = s.mi.windows[e].base → field p 12 4 = s.mi.windows[e].limit →
        p.getD 2 0 = s.mi.windows[e].kind.code → byteAt p 3 = s.mi.windows[e].param →
        ∃ t, exec .setWindow s = .next t ∧ s.Done t b rest .none [] ∧ s.raisedNothing t ∧
          t.mi.windows[e].enabled = false ∧ (∀ i : EntryNo, i ≠ e → t.mi.windows[i] = s.mi.windows[i]) ∧
          (∀ ring : RingNo, s.mi.windows[e].kind = .transmit → s.mi.windows[e].param = ring.val →
            t.cu.rings = s.cu.rings.set ring none ∧ t.cu.records = s.cu.records ∧
            t.cu.buffer = s.cu.buffer.filter (fun x =>
              decide (x.line / 64 < s.mi.windows[e].base ∨ s.mi.windows[e].limit < x.line / 64)) ∧ t.rmu = s.rmu) ∧
          (∀ r : Site, s.mi.windows[e].kind = .receive → s.mi.windows[e].param = r.val →
            t.rmu[r] = { s.rmu[r] with ring := { s.rmu[r].ring with place := none } } ∧
            (∀ x : Site, x ≠ r → t.rmu[x] = s.rmu[x]) ∧ t.cu = s.cu) ∧
          t.outside = { s with cu := t.cu, rmu := t.rmu, mi := { s.mi with windows := t.mi.windows } }.outside)) ∧
    (byteAt p 0 = 15 → byteAt p 1 ≠ 0 → p.getD 2 0 = 4 → field p 8 4 = field p 12 4 → field p 12 4 ≤ 16777215 →
      s.clearOf 15 (fun _ => True) (field p 8 4) (field p 12 4) →
      s.mayChange 15 →
      ∃ t, exec .setWindow s = .next t ∧ s.Done t b rest .none [] ∧ s.raisedNothing t ∧
        t.mi.windows[15].base = field p 8 4 ∧ t.mi.windows[15].limit = field p 8 4 ∧
        t.mi.windows[15].enabled = true ∧ t.mi.windows[15].kind = .descriptor ∧
        (∀ i : EntryNo, i ≠ 15 → t.mi.windows[i] = s.mi.windows[i]) ∧
        t.outside = { s with mi := { s.mi with windows := t.mi.windows } }.outside) ∧
    -- The GUARD flags of an enabled TRANSMIT or RECEIVE entry changed alone, or nothing changed.
    (∀ e : EntryNo, byteAt p 0 = e.val → e < 14 → byteAt p 1 ≠ 0 → ¬ s.mayChange e →
      field p 8 4 = s.mi.windows[e].base → field p 12 4 = s.mi.windows[e].limit →
      p.getD 2 0 = s.mi.windows[e].kind.code → byteAt p 3 = s.mi.windows[e].param →
      ¬ s.badWindow e (p.getD 2 0) (byteAt p 3) (field p 8 4) (field p 12 4) →
      (∀ x ∈ s.cu.records, x.ring.val = byteAt p 3 → field p 8 4 ≤ x.hdr / 64 ∧ x.hdr / 64 ≤ field p 12 4) →
      (∀ r : Site, r.val = byteAt p 3 → s.rmu[r].ring.pending = []) →
      ∃ (t : State) (w : Window), exec .setWindow s = .next t ∧ s.Done t b rest .none [] ∧ s.raisedNothing t ∧
        w = { s.mi.windows[e] with
          readBlock := (p.getD 4 0).getLsbD 0, writeBlock := (p.getD 4 0).getLsbD 1 } ∧
        t.mi.windows = s.mi.windows.set e w ∧
        (s.mi.windows[e].kind = .transmit ∨ w = s.mi.windows[e] → t.rmu = s.rmu) ∧
        (∀ r : Site, s.mi.windows[e].kind = .receive → w ≠ s.mi.windows[e] → r.val = byteAt p 3 →
          t.rmu[r] = { s.rmu[r] with ring := ⟨some (w.base * 64, 32 * (w.limit + 1 - w.base) - 1), 0, true, 0, []⟩ } ∧
          (∀ x : Site, x ≠ r → t.rmu[x] = s.rmu[x]) ∧
          t.owes (w.base * 64) (some (partLine [(0, [0, 0, 0, 0, 0xA1, 0, 0, 0, 0, 0, 0, 0])])) .ringStart) ∧
        t.outside = { s with rmu := t.rmu, mi := { s.mi with windows := t.mi.windows } }.outside) ∧
    -- An entry left disabled.
    (∀ e : EntryNo, byteAt p 0 = e.val → e < 14 → byteAt p 1 = 0 → s.mayChange e →
      ∃ t, exec .setWindow s = .next t ∧ s.Done t b rest .none [] ∧ s.raisedNothing t ∧
        t.mi.windows = s.mi.windows.set e
          { enabled := false, base := field p 8 4, limit := field p 12 4, kind := WinKind.ofCode (p.getD 2 0),
            param := byteAt p 3, readBlock := (p.getD 4 0).getLsbD 0, writeBlock := (p.getD 4 0).getLsbD 1 } ∧
        t.outside = { s with mi := { s.mi with windows := t.mi.windows } }.outside) ∧
    -- The BAD_PARAM checks of an enabled entry.
    (∀ e : EntryNo, byteAt p 0 = e.val → e < 14 ∨ e = 15 → byteAt p 1 ≠ 0 → s.mayChange e →
      s.badWindow e (p.getD 2 0) (byteAt p 3) (field p 8 4) (field p 12 4) →
      ∃ t, exec .setWindow s = .next t ∧ s.Refuses t b rest .badParam) ∧
    (15 < byteAt p 0 ∨ byteAt p 0 = 14 ∨ byteAt p 0 = 15 ∧ (byteAt p 1 = 0 ∨ p.getD 2 0 ≠ 4) →
      ∃ t, exec .setWindow s = .next t ∧ s.Refuses t b rest .badParam)

/-- SET_PORT without a list, on a port none of whose paths is on: the kind, the rates, the timeout, the holdoff and
the ceiling are stored clamped; a FIBRE port's chain is empty and a RADIO port's stands (R20, R31, R33, R120). That a
FIBRE port stores the seven step rates as well, and a RADIO port the FIBRE rate, is the model's choice (assumption
31). -/
def Obligations.PortIsSet : Prop :=
  ∀ (s : State) (b : BlockNo) (rest : List BlockNo) (p : List Byte) (k : PortNo) (kind : PortKind),
    s.Takes b rest 2 p → field s.cmd.blocks[b].copy 8 8 = 0 → byteAt p 0 = k.val →
    byteAt p 1 = (if kind = .radio then 1 else 2) →
    (∀ q : PathNo, s.paths[q].port = k → s.paths[q].state = .off) →
    ∃ t, exec .setPort s = .next t ∧ s.Done t b rest .none [] ∧
      t.ports[k].kind = kind ∧ t.ports[k].chain = (if kind = .fibre then [] else s.ports[k].chain) ∧
      t.ports[k].timeoutMs = min 1000 (max 1 (field p 6 2)) ∧
      t.ports[k].fibreRate = min 1250000 (max 1 (field p 8 4)) ∧
      (∀ i : Fin 7, t.ports[k].rates[i] = min 1250000 (max 1 (field p (12 + 4 * i.val) 4))) ∧
      t.tx[k].holdoffCode = min 7 (byteAt p 3) ∧ t.tx[k].ceilingCode = min 3 (byteAt p 4) ∧
      (∀ j : PortNo, j ≠ k → t.ports[j] = s.ports[j] ∧ t.tx[j].holdoffCode = s.tx[j].holdoffCode ∧
        t.tx[j].ceilingCode = s.tx[j].ceilingCode) ∧
      t.outsideSending = { s with ports := t.ports, hops := t.hops }.outsideSending

/-- SET_PORT with a chain list and SET_HOPS: each reads its list from memory at the list pointer, here the start of a
line, and waits on it, changing nothing yet and taking no other command (R20, R23, R159, R160). OWN_RESPONSE to a line
of a SET_HOPS list: its records are applied in list order, as many as are left, up to the first that is refused; each
hop they name takes its thresholds clamped and is UNKNOWN, a later record of a hop standing (R22, R23). With the last
record applied the command is DONE; while records are left the next line is read, and the command waits on it; a
record that names a hop above 95 ends it BAD_PARAM, one of a hop whose port has a path on NOT_OFF, and a read answered
ERROR MEMORY_ERROR, with the count of records not applied, those applied standing. OWN_RESPONSE to the line of a
chain: a chain that passes the checks is applied, each hop of it UNKNOWN at its place and each hop that leaves UNKNOWN
and unassigned, and the command is DONE; one that names a hop above 95, a hop twice or a hop of another port's chain
ends BAD_PARAM, and a read answered ERROR MEMORY_ERROR, with nothing applied (R20). -/
def Obligations.ListIsRead : Prop :=
  (∀ (s : State) (b : BlockNo) (rest : List BlockNo) (p : List Byte) (line : Nat), s.Settled →
    field s.cmd.blocks[b].copy 8 8 = 64 * line → 0 < line → line < 2 ^ 30 →
    (∀ k : PortNo, s.Takes b rest 2 p → byteAt p 0 = k.val → byteAt p 1 = 1 → 1 ≤ byteAt p 2 → byteAt p 2 ≤ 24 →
      (∀ q : PathNo, s.paths[q].port = k → s.paths[q].state = .off) →
      ∃ t, exec .setPort s = .next t ∧ t.cmd.exec = some (.portList b line []) ∧ t.owes line none .listRead ∧
        t.cmd.blocks[b].state = .executing ∧ t.cmd.pending = rest ∧ t.outside = s.outside) ∧
    (s.Takes b rest 3 p → 1 ≤ field p 0 2 →
      ∃ t, exec .setHops s = .next t ∧ t.cmd.exec = some (.hopList b line [] (min 96 (field p 0 2))) ∧
        t.owes line none .listRead ∧ t.cmd.blocks[b].state = .executing ∧ t.cmd.pending = rest ∧
        t.outside = s.outside)) ∧
  ∀ (s : State) (b : BlockNo) (r : OwnReq) (rest : List Outstanding) (line first : Nat) (data : List Byte),
    s.mi.outstanding = .own r :: rest → r.tag = .listRead → r.write = none → data.length = 64 →
    field s.cmd.blocks[b].copy 8 8 = 64 * first → first < 2 ^ 30 →
    (∀ (held : List Byte) (left : Nat), s.cmd.exec = some (.hopList b line held left) →
      (∀ (recs : List (List Byte)) (tail : List Byte), held ++ data = recs.flatten ++ tail → recs.length ≤ left →
        (∀ rec ∈ recs, s.takesRecord rec) →
        recs.length = left ∨ tail.length < 8 ∨ (∃ e, s.RefusesRecord tail e) →
        ∃ t, exec (.ownResponse true data) s = .next t ∧
          (∀ h : HopNo, t.hops[h] = hopAfter recs h s.hops[h]) ∧
          (∀ rec ∈ recs, ∀ h : HopNo, byteAt rec 0 = h.val → s.hops[h].state ≠ .unknown → t.hasCause .hopChange) ∧
          (recs.length = left → s.Completes t b .none 0 [] ∧ t.cmd.exec = none) ∧
          (recs.length < left → tail.length < 8 → line + 1 < 2 ^ 30 →
            t.cmd.exec = some (.hopList b (line + 1) tail (left - recs.length)) ∧
            t.owes (line + 1) none .listRead ∧ t.cmd.blocks = s.cmd.blocks) ∧
          (∀ e : ErrorCode, recs.length < left → 8 ≤ tail.length → s.RefusesRecord tail e →
            s.Completes t b e (left - recs.length) [] ∧ t.cmd.exec = none) ∧
          t.cmd.pending = s.cmd.pending ∧
          t.outsideSending = { s.answered r rest with hops := t.hops }.outsideSending) ∧
      (∃ t, exec (.ownResponse false data) s = .next t ∧ s.Completes t b .memoryError left [] ∧
        t.cmd.exec = none ∧ t.outside = (s.answered r rest).outside)) ∧
    (s.cmd.exec = some (.portList b line []) →
      ∃ t, exec (.ownResponse false data) s = .next t ∧ s.Completes t b .memoryError 0 [] ∧
        t.cmd.exec = none ∧ t.outside = (s.answered r rest).outside) ∧
    (∀ (k : PortNo) (n : Nat), s.cmd.exec = some (.portList b line []) →
      byteAt (s.cmd.blocks[b].copy.drop 16) 0 = k.val → byteAt (s.cmd.blocks[b].copy.drop 16) 1 = 1 →
      byteAt (s.cmd.blocks[b].copy.drop 16) 2 = n → 1 ≤ n → n ≤ 24 →
      (∃ x ∈ data.take n, 95 < x.toNat) ∨ ¬ (data.take n).Nodup ∨
        (∃ x ∈ data.take n, ∃ (h : HopNo) (j : PortNo) (i : Nat), x.toNat = h.val ∧ s.hops[h].place = some (j, i) ∧ j ≠ k) →
      ∃ t, exec (.ownResponse true data) s = .next t ∧ s.Completes t b .badParam 0 [] ∧
        t.cmd.exec = none ∧ t.outside = (s.answered r rest).outside) ∧
    (∀ (k : PortNo) (chain : List HopNo), s.cmd.exec = some (.portList b line []) →
      byteAt (s.cmd.blocks[b].copy.drop 16) 0 = k.val → byteAt (s.cmd.blocks[b].copy.drop 16) 1 = 1 →
      byteAt (s.cmd.blocks[b].copy.drop 16) 2 = chain.length → 1 ≤ chain.length → chain.length ≤ 24 →
      data.take chain.length = chain.map (fun h => BitVec.ofNat 8 h.val) → chain.Nodup →
      (∀ h ∈ chain, ∀ (j : PortNo) (i : Nat), s.hops[h].place = some (j, i) → j = k) →
      ∃ t, exec (.ownResponse true data) s = .next t ∧ s.Completes t b .none 0 [] ∧ t.cmd.exec = none ∧
        t.ports[k].chain = chain ∧ t.ports[k].kind = .radio ∧
        (∀ (i : Nat) (h : HopNo), chain[i]? = some h → t.hops[h] = { s.hops[h] with
          place := some (k, i + 1), state := .unknown, count := 0, last := none, extremes := false, step := 0,
          lastReport := none, reportDue := none }) ∧
        (∀ h : HopNo, h ∈ s.ports[k].chain → h ∉ chain → t.hops[h] = { s.hops[h] with
          place := none, state := .unknown, count := 0, last := none, extremes := false, step := 0,
          lastReport := none, reportDue := none }) ∧
        (∀ h : HopNo, h ∉ s.ports[k].chain → h ∉ chain → t.hops[h] = s.hops[h]) ∧
        (∀ j : PortNo, j ≠ k → t.ports[j] = s.ports[j]) ∧
        t.outsideSending = { s.answered r rest with ports := t.ports, hops := t.hops }.outsideSending)

/-- SET_PATH: its checks in order, and, when it passes, the clamped settings stored, the estimator, the counters and
the trailing lag reset, the fading count and the path rate recomputed, the path still OFF and the next probe id kept;
a path that no route of another site lists leaves the routes alone and raises no cause (R38, R61). -/
def Obligations.PathIsSet : Prop :=
  ∀ (s : State) (b : BlockNo) (rest : List BlockNo) (p : List Byte), s.Takes b rest 4 p →
    (15 < byteAt p 0 → ∃ t, exec .setPath s = .next t ∧ s.Refuses t b rest .badParam) ∧
    (∀ q : PathNo, byteAt p 0 = q.val → s.paths[q].state ≠ .off →
      ∃ t, exec .setPath s = .next t ∧ s.Refuses t b rest .notOff) ∧
    (∀ q : PathNo, byteAt p 0 = q.val → s.paths[q].state = .off →
      (5 < byteAt p 1 ∨ 7 < byteAt p 2 ∨ byteAt p 2 = s.ownSite.val ∨
        ∃ k : PortNo, byteAt p 1 = k.val ∧ ((byteAt p 3 = 0 ∧ s.ports[k].kind = .radio) ∨
          s.ports[k].chain.length < byteAt p 3)) →
      ∃ t, exec .setPath s = .next t ∧ s.Refuses t b rest .badParam) ∧
    (∀ (q : PathNo) (k : PortNo) (r : Site), byteAt p 0 = q.val → s.paths[q].state = .off → byteAt p 1 = k.val →
      byteAt p 2 = r.val → r ≠ s.ownSite → (byteAt p 3 ≠ 0 ∨ s.ports[k].kind = .fibre) →
      byteAt p 3 ≤ s.ports[k].chain.length →
      ∃ t, exec .setPath s = .next t ∧ s.Done t b rest .none [] ∧
        ((∀ x : Site, x ≠ r → q ∉ s.rs.routes[x].cands) → s.raisedNothing t ∧ t.rs = s.rs) ∧
        t.paths[q] = { s.paths[q] with
          configured := true, port := k, site := r, drop := byteAt p 3,
          normal := min 65535 (max 50 (field p 6 2)),
          fast := min (min 65535 (max 50 (field p 6 2))) (max 20 (field p 8 2)),
          silence := min 15 (max 4 (byteAt p 4)), shift := min 7 (byteAt p 5),
          outlier := min 10000000 (max 1000 (field p 12 4)), fadeUnit := min 1000000 (field p 16 4),
          seeded := false, est := 0, rttEst := 0, method := none, run := 0, lag := none,
          counters := ⟨0, 0, 0, 0, 0, 0, 0, 0, 0⟩,
          fading := fadingCount t q, rate := pathRate t q } ∧
        (∀ x : PathNo, x ≠ q → t.paths[x] = s.paths[x]) ∧
        t.outside = { s with paths := t.paths, rs := t.rs }.outside)

/-- ENABLE_PATH of an OFF path that passes its checks takes it to DOWN, and on to PROBING with its timers started
when its link is up and its hops passable; DISABLE_PATH takes a path to OFF, its timers stopped and its probes
emptied. Each raises PATH_CHANGE (R40 to R42, R44). -/
def Obligations.PathIsSwitched : Prop :=
  ∀ (s : State) (b : BlockNo) (rest : List BlockNo) (p : List Byte) (q : PathNo), byteAt p 0 = q.val →
    (s.Takes b rest 5 p → s.paths[q].state = .off → s.paths[q].configured = true →
      s.paths[q].drop ≤ s.ports[s.paths[q].port].chain.length →
      (s.paths[q].drop ≠ 0 ∨ s.ports[s.paths[q].port].kind = .fibre) →
      (∀ x : PathNo, x ≠ q → s.paths[x].state ≠ .off →
        s.paths[x].port ≠ s.paths[q].port ∨ s.paths[x].site ≠ s.paths[q].site) →
      ∃ t, exec .enablePath s = .next t ∧ s.Done t b rest .none [] ∧ t.hasCause .pathChange ∧
        (passable s q = false → t.paths[q] = { s.paths[q] with state := .down }) ∧
        (passable s q = true → t.paths[q].state = .probing ∧
          t.paths[q].silenceDue = some (s.now + 2 ^ s.paths[q].silence) ∧
          t.paths[q].probeDue = some (s.now + s.paths[q].fast) ∧ t.paths[q].nextId = s.paths[q].nextId + 1) ∧
        (∀ x : PathNo, x ≠ q → t.paths[x].state = s.paths[x].state) ∧
        t.outsideSending = s.outsideSending) ∧
    (s.Takes b rest 6 p → s.paths[q].state ≠ .off →
      ∃ t, exec .disablePath s = .next t ∧ s.Done t b rest .none [] ∧ t.hasCause .pathChange ∧
        t.paths[q] = { s.paths[q] with state := .off, seeded := false, run := 0, outstanding := [],
                                       probeDue := none, silenceDue := none } ∧
        (∀ x : PathNo, x ≠ q → t.paths[x].state = s.paths[x].state) ∧
        t.outsideSending = s.outsideSending)

/-- SET_ROUTE: it is refused for a site, a count, a dual mode or a candidate R60 bars; a command that passes replaces
the candidate list, the dual mode and H, and drops a current path not in the new list, or any as the route goes from
LIVE to DARK; the route is LIVE exactly while a candidate is UP, a change raising ROUTE_CHANGE (R65); the numbering, the
counters and the frames already queued are kept (R60). -/
def Obligations.RouteIsSet : Prop :=
  ∀ (s : State) (b : BlockNo) (rest : List BlockNo) (p : List Byte), s.Takes b rest 7 p →
    (7 < byteAt p 0 ∨ byteAt p 0 = s.ownSite.val ∨ byteAt p 1 = 0 ∨ 4 < byteAt p 1 ∨ 2 < byteAt p 6 →
      ∃ t, exec .setRoute s = .next t ∧ s.Refuses t b rest .badParam) ∧
    (∀ i : Nat, i < byteAt p 1 → byteAt p 1 ≤ 4 →
      (15 < byteAt p (2 + i) ∨ (∃ j : Nat, j < i ∧ byteAt p (2 + j) = byteAt p (2 + i)) ∨
        ∃ c : PathNo, byteAt p (2 + i) = c.val ∧
          (s.paths[c].configured = false ∨ s.paths[c].site.val ≠ byteAt p 0)) →
      ∃ t, exec .setRoute s = .next t ∧ s.Refuses t b rest .badParam) ∧
    (∀ (r : Site) (cands : List PathNo) (dual : DualMode), byteAt p 0 = r.val → r ≠ s.ownSite →
      byteAt p 1 = cands.length → 1 ≤ cands.length → cands.length ≤ 4 →
      (p.drop 2).take cands.length = cands.map (fun c => BitVec.ofNat 8 c.val) → cands.Nodup →
      (∀ c ∈ cands, s.paths[c].configured = true ∧ s.paths[c].site = r) → p.getD 6 0 = dual.code →
      ∃ t, exec .setRoute s = .next t ∧ s.Done t b rest .none [] ∧
        t.rs.routes[r].cands = cands ∧ t.rs.routes[r].dual = dual ∧
        t.rs.routes[r].hyst = min 1000000 (field p 8 4) ∧
        (∀ c, t.rs.routes[r].current = some c ↔ s.rs.routes[r].current = some c ∧ c ∈ cands ∧
          (s.rs.routes[r].live = true → ∃ x ∈ cands, s.paths[x].state = .up)) ∧
        (t.rs.routes[r].live = true ↔ ∃ c ∈ cands, s.paths[c].state = .up) ∧
        (t.rs.routes[r].live ≠ s.rs.routes[r].live → t.hasCause .routeChange) ∧
        t.rs.routes[r].nextUrgent = s.rs.routes[r].nextUrgent ∧
        t.rs.routes[r].nextBulk = s.rs.routes[r].nextBulk ∧ t.rs.routes[r].counters = s.rs.routes[r].counters ∧
        (∀ x : Site, x ≠ r → t.rs.routes[x] = s.rs.routes[x]) ∧ t.rs.epoch = s.rs.epoch ∧
        t.outside = { s with rs := t.rs }.outside)

/-- SET_EPOCH: 0 is refused and changes nothing; any other value becomes the epoch and restarts the numbering of every
route in both classes, raising no cause; while the epoch is 0, a selection is refused NO_EPOCH (R62). -/
def Obligations.EpochIsSet : Prop :=
  (∀ (s : State) (b : BlockNo) (rest : List BlockNo) (p : List Byte), s.Takes b rest 8 p →
    (field p 0 4 = 0 → ∃ t, exec .setEpoch s = .next t ∧ s.Refuses t b rest .badParam) ∧
    (field p 0 4 ≠ 0 → ∃ t, exec .setEpoch s = .next t ∧ s.Done t b rest .none [] ∧ s.raisedNothing t ∧
      t.rs.epoch = BitVec.ofNat 32 (field p 0 4) ∧
      (∀ r : Site, t.rs.routes[r] = { s.rs.routes[r] with nextUrgent := 0, nextBulk := 0 }) ∧
      t.rs.placement = s.rs.placement ∧ t.rs.batches = s.rs.batches ∧ t.outside = { s with rs := t.rs }.outside)) ∧
  ∀ (s : State) (hdr : Nat) (r : Record) (site : Site), s.isReady = true → s.rs.epoch = 0 →
    s.recordOf hdr = some r → r.asking = some site →
    ∃ t r', exec (.selection hdr) s = .next t ∧ t.recordOf hdr = some r' ∧ r'.dests[site] = .settled .noEpoch ∧
      t.rs.routes[site] = { s.rs.routes[site] with counters := { s.rs.routes[site].counters with
        refused := s.rs.routes[site].counters.refused + 1 } } ∧
      (∀ other : Site, other ≠ site → t.rs.routes[other] = s.rs.routes[other]) ∧ t.rs.epoch = 0 ∧
      t.rs.placement = s.rs.placement ∧ t.outside = { s with rs := t.rs, cu := t.cu }.outside

/-- SET_TIME: the result is station time before the step, and station time reads V; UNSET becomes FREE and every other
state stands, with the consequences of a step (R12); I, adj, the good run, the announcement, previous seconds and all
timers are left as they were (R14). That bytes 32 to 63 of the completion write are 0, which the manual says of a read
only (R174), is the model's choice (assumption 25). -/
def Obligations.TimeIsSet : Prop :=
  ∀ (s : State) (b : BlockNo) (rest : List BlockNo) (p : List Byte), s.Takes b rest 9 p →
    ∃ t, exec .setTime s = .next t ∧
      s.Done t b rest .none [(16, p.take 8 ++ layout 40 [(0, leBytes 8 s.tu.station.toNat)])] ∧
      t.tu = { s.tu with station := BitVec.ofNat 64 (field p 0 8), steps := s.tu.steps + 1,
                         state := if s.tu.state = .unset then .free else s.tu.state } ∧
      t.hasCause .timeChange ∧ (∀ q : PathNo, t.paths[q] = { s.paths[q] with outstanding := [] }) ∧
      (∀ k : PortNo, t.tx[k] = { s.tx[k] with probeBack := none }) ∧
      t.outside = { s with tu := t.tu, paths := t.paths, tx := t.tx }.outside

/-- SET_TIMING: the holdover limit and the fourteen hole timeouts are stored clamped; in HOLDOVER the holdover timer
moves, or runs out at once (R11, R141). A limit that ends at the present instant leaves HOLDOVER to the timer's own
expiry: passed is read as strictly before (the model's choice, assumption 26). -/
def Obligations.TimingIsSet : Prop :=
  ∀ (s : State) (b : BlockNo) (rest : List BlockNo) (p : List Byte), s.Takes b rest 10 p →
    ∃ t, exec .setTiming s = .next t ∧ s.Done t b rest .none [] ∧
      t.tu.limit = min 3600 (max 1 (field p 0 2)) ∧
      (∀ (i : Nat) (r : Site), ((List.finRange 8).filter (· ≠ s.ownSite))[i]? = some r →
        t.rmu[r].urgent.timeout = min 100000 (max 100 (field p (4 + 6 * i) 3)) ∧
        t.rmu[r].bulk.timeout = min 100000 (max 100 (field p (4 + 6 * i + 3) 3))) ∧
      t.rmu[s.ownSite] = s.rmu[s.ownSite] ∧
      (s.tu.state ≠ .holdover → t.tu = { s.tu with limit := t.tu.limit }) ∧
      (∀ start, s.tu.state = .holdover → s.tu.holdoverStart = some start →
        (s.now ≤ start + t.tu.limit * 1000000 →
          t.tu = { s.tu with limit := t.tu.limit, holdoverDue := some (start + t.tu.limit * 1000000) }) ∧
        (start + t.tu.limit * 1000000 < s.now →
          t.tu.state = .free ∧ t.tu.holdoverStart = none ∧ t.tu.holdoverDue = none ∧ t.hasCause .timeChange)) ∧
      t.outside = { s with tu := t.tu, rmu := t.rmu }.outside

/-- SET_NOTIFY: the enable set is the set the parameters give, flags beyond the nine ignored; it is never refused, and
the interrupt output is asserted exactly when the two sets share a cause (R165). -/
def Obligations.NotifyIsSet : Prop :=
  ∀ (s : State) (b : BlockNo) (rest : List BlockNo) (p : List Byte), s.Takes b rest 11 p →
    ∃ t, exec .setNotify s = .next t ∧ s.Completes t b .none 0 [] ∧ t.cmd.pending = rest ∧ t.cmd.exec = none ∧
      s.raisedNothing t ∧ t.cmd.save = s.cmd.save ∧ t.cmd.runNo = s.cmd.runNo ∧
      (∀ i : Nat, i < 9 → t.cmd.enables.getLsbD i = (field p 0 2).testBit i) ∧
      (t.interrupt = true ↔ ∃ i : Nat, i < 9 ∧ t.cmd.causes.getLsbD i = true ∧ t.cmd.enables.getLsbD i = true) ∧
      t.outside = s.outside

/-- The read commands: each ends DONE with the snapshot of the object and section it names, as 12.3 lays it out, and
changes nothing; READ_GUARD also makes the first violation absent and keeps the count (R17, R36, R58, R77, R84, R128,
R138, R162). -/
def Obligations.ReadsReturnSnapshots : Prop :=
  ∀ (s : State) (b : BlockNo) (rest : List BlockNo) (p : List Byte),
    (∀ q : PathNo, s.Takes b rest 12 p → byteAt p 0 = q.val → ∃ t, exec .readPath s = .next t ∧
      s.Done t b rest .none [(16, p.take 8 ++ layout 40 (pathSnapshot s (min 2 (byteAt p 1)) s.paths[q]))] ∧
      t.outside = { s with freeCount := t.freeCount }.outside) ∧
    (s.Takes b rest 13 p → ∃ t, exec .readHop s = .next t ∧
      s.Done t b rest .none [(16, p.take 8 ++ layout 40 (hopSnapshot s (Fin.ofNat 96 (min 95 (byteAt p 0)))))] ∧
      t.outside = { s with freeCount := t.freeCount }.outside) ∧
    (∀ r : Site, s.Takes b rest 14 p → byteAt p 0 = r.val → r ≠ s.ownSite → ∃ t, exec .readRoute s = .next t ∧
      s.Done t b rest .none [(16, p.take 8 ++ layout 40 (routeSnapshot s (min 2 (byteAt p 1)) s.rs.routes[r]))] ∧
      t.outside = { s with freeCount := t.freeCount }.outside) ∧
    (∀ k : PortNo, s.Takes b rest 15 p → byteAt p 0 = k.val → ∃ t, exec .readPort s = .next t ∧
      s.Done t b rest .none [(16, p.take 8 ++ layout 40 (portSnapshot s (min 3 (byteAt p 1)) k))] ∧
      t.outside = { s with freeCount := t.freeCount }.outside) ∧
    (s.Takes b rest 16 p → ∃ t, exec .readTime s = .next t ∧
      s.Done t b rest .none [(16, layout 48 (timeSnapshot s))] ∧ t.outside = s.outside) ∧
    (s.Takes b rest 17 p → ∃ t, exec .readGuard s = .next t ∧
      s.Done t b rest .none [(16, p.take 8 ++ layout 40 (guardSnapshot s))] ∧ t.mi.violation = none ∧
      t.outside = { s with freeCount := t.freeCount, mi := { s.mi with violation := none } }.outside)

/-- CLEAR_EXTREMES: the extremes of every hop of the range, its ends clamped to 95, become invalid, and nothing else
changes (R32). -/
def Obligations.ExtremesAreCleared : Prop :=
  ∀ (s : State) (b : BlockNo) (rest : List BlockNo) (p : List Byte), s.Takes b rest 18 p →
    ∃ t, exec .clearExtremes s = .next t ∧ s.Done t b rest .none [] ∧ s.raisedNothing t ∧
      (∀ h : HopNo, t.hops[h] = if min 95 (byteAt p 0) ≤ h.val ∧ h.val ≤ min 95 (byteAt p 1)
        then { s.hops[h] with extremes := false } else s.hops[h]) ∧
      t.outside = { s with hops := t.hops }.outside

/-- RESYNC_SITE: each window the selector names is emptied, its timeout kept, and its class's pending records removed;
the ring's indices, the other window and every other site stand, and no cause is raised; a bad site or selector is
refused (R155). -/
def Obligations.SiteIsResynced : Prop :=
  ∀ (s : State) (b : BlockNo) (rest : List BlockNo) (p : List Byte), s.Takes b rest 19 p →
    (7 < byteAt p 0 ∨ byteAt p 0 = s.ownSite.val ∨ byteAt p 1 = 0 ∨ 3 < byteAt p 1 →
      ∃ t, exec .resyncSite s = .next t ∧ s.Refuses t b rest .badParam) ∧
    (∀ r : Site, byteAt p 0 = r.val → r ≠ s.ownSite → 1 ≤ byteAt p 1 → byteAt p 1 ≤ 3 →
      ∃ t, exec .resyncSite s = .next t ∧ s.Done t b rest .none [] ∧ s.raisedNothing t ∧
        t.rmu[r].urgent = (if byteAt p 1 = 2 then s.rmu[r].urgent
          else { epoch := 0, prevEpoch := 0, top := none, map := [], holeDue := none,
                 timeout := s.rmu[r].urgent.timeout }) ∧
        t.rmu[r].bulk = (if byteAt p 1 = 1 then s.rmu[r].bulk
          else { epoch := 0, prevEpoch := 0, top := none, map := [], holeDue := none,
                 timeout := s.rmu[r].bulk.timeout }) ∧
        t.rmu[r].ring = { s.rmu[r].ring with pending := s.rmu[r].ring.pending.filter (fun x =>
          match x.cls with
          | .urgent => byteAt p 1 == 2
          | .bulk => byteAt p 1 == 1) } ∧
        (∀ x : Site, x ≠ r → t.rmu[x] = s.rmu[x]) ∧ t.outside = { s with rmu := t.rmu }.outside)

/-- LOOPBACK on a port none of whose paths is on and whose link is up starts a test: the run number rises, the loop
request is asserted and the 10 ms timer runs; TEST frame 0 waits in the urgent queue while the line is busy, and starts
at once on a free line with nothing waiting before it (R116, R139). LOOPBACK_TIMER_EXPIRY ends the test with its result
(R140); that counts above a result field's width are written truncated, and that the result bytes its layout does not
name are written 0, are the model's choices (assumptions 18 and 25). -/
def Obligations.LoopbackRuns : Prop :=
  ∀ (s : State) (b : BlockNo),
    (∀ (rest : List BlockNo) (p : List Byte) (k : PortNo), s.Takes b rest 20 p → byteAt p 0 = k.val →
      s.link[k] = true → s.tx[k].urgent.length < 32 → s.Settled →
      (∀ q : PathNo, s.paths[q].port = k → s.paths[q].state = .off) →
      ∃ t l, exec .loopback s = .next t ∧ t.cmd.runNo = s.cmd.runNo + 1 ∧ t.loopRequest k = true ∧
        t.cmd.exec = some (.loopback b l) ∧ t.cmd.pending = rest ∧ t.cmd.causes = s.cmd.causes ∧
        (s.tx[k].line ≠ none → l = ⟨k, 1, 0, 0, 0, 0, 0, none, none, s.now + 10000⟩ ∧
          t.tx[k] = { s.tx[k] with urgent := s.tx[k].urgent ++ [.test (s.cmd.runNo + 1) 0] } ∧
          t.outside = { s with tx := t.tx }.outside) ∧
        (s.tx[k].line = none → s.tx[k].probeBack = none → s.tx[k].probe = none → s.tx[k].urgent = [] →
          l = ⟨k, 1, 0, 0, 0, 0, 0, some s.tu.station, none, s.now + 10000⟩ ∧
          t.tx[k] = { s.tx[k] with
            line := some (.test (s.cmd.runNo + 1) 0, s.tu.station), state := .urgent, holdoffDue := none } ∧
          t.outside = { s with tx := t.tx }.outside)) ∧
    (∀ l : Loopback, s.cmd.exec = some (.loopback b l) → l.due ≤ s.now → l.returned < 16 →
      ∃ t, exec .loopbackTimerExpiry s = .next t ∧ t.cmd.exec = none ∧ t.cmd.pending = s.cmd.pending ∧
        (∀ k : PortNo, t.loopRequest k = false) ∧
        (∃ time, time.length = 8 ∧ (l.returned = 0 → time = List.replicate 8 0) ∧
          (∀ e a : Stamp, 1 ≤ l.returned → l.egress0 = some e → l.arrival0 = some a → time = leBytes 8 (a - e).toNat) ∧
          s.Completes t b .none 0 [(16, (s.cmd.blocks[b].copy.drop 16).take 8 ++ layout 40
            [(0, [if 1 ≤ l.mismatched then 5 else if 1 ≤ l.crcErrors then 4 else 3]), (1, [s.cmd.runNo]),
             (2, leBytes 1 l.sent), (3, leBytes 1 l.returned), (4, leBytes 1 l.mismatched),
             (6, leBytes 2 l.crcErrors), (8, [if 1 ≤ l.returned then 1 else 0]), (16, time)])]) ∧
        t.outside = { s with freeCount := t.freeCount }.outside)

/-- SAVE_CONFIG with no save running captures the image, is SAVING with the 60 ms timer running, lets CMD take the next
command, and erases the image area, its header first; the flash's reports program the blocks and then the header; its
last report ends the save DONE, and a failure or the timer ends it STORE_FAIL (R159, R173). That the erase is put out as
two operations, of the header's 16 bytes and of the 65,520 behind them, and that one report ends both, is the model's
choice (assumption 23). -/
def Obligations.ConfigIsSaved : Prop :=
  ∀ (s : State) (b : BlockNo),
    (∀ (rest : List BlockNo) (p : List Byte), s.Takes b rest 21 p → s.cmd.save = none → s.Settled →
      ∃ t, exec .saveConfig s = .next t ∧ t.cmd.blocks[b].state = .saving ∧ t.cmd.exec = none ∧
        t.cmd.pending = rest ∧ t.cmd.save = some ⟨b, formImage s, .erase, s.now + 60000⟩ ∧
        t.out = [.flashErase 0 16, .flashErase 16 65520] ∧ t.cmd.causes = s.cmd.causes ∧ t.outside = s.outside) ∧
    (∀ v : Save, s.cmd.save = some v → v.block = b →
      (v.stage = .erase → s.Settled → exec .flashStageComplete s = .next { s with
        out := [.flashProgram 16 (v.image.drop 16)], cmd := { s.cmd with save := some { v with stage := .program } } }) ∧
      (v.stage = .program → s.Settled → exec .flashStageComplete s = .next { s with
        out := [.flashProgram 0 (v.image.take 16)], cmd := { s.cmd with save := some { v with stage := .header } } }) ∧
      (v.stage = .header → ∃ t, exec .flashStageComplete s = .next t ∧ s.Completes t b .none 0 [] ∧
        t.cmd.save = none ∧ t.outside = s.outside) ∧
      (∃ t, exec .flashFailure s = .next t ∧ s.Completes t b .storeFail 0 [] ∧ t.cmd.save = none ∧
        t.outside = s.outside) ∧
      (v.due ≤ s.now → ∃ t, exec .saveTimerExpiry s = .next t ∧ s.Completes t b .storeFail 0 [] ∧
        t.cmd.save = none ∧ t.outside = s.outside))

/-! ## Resets and start-up -/

/-- RESET_STATION: the completion is formed; ready is clear, the transmitters and receivers hold nothing, waiting and
saving blocks are noted aborted, the cause set and the enable set are empty and the interrupt output is low; the Time
Unit carries on (R3, R112, R138, R167). That the counters of the transmitters and of the receivers, which both resets
set to 0 (R128, R138), still stand at that instant is the model's choice (assumption 24). START_UP_ORDER does nothing
while an own request is not answered; then, with no image to apply and outside HOLDOVER, it begins (R167, R171): the
straps place entries 14 and 15, every block takes its reset values, the counters among them, the cause set, the
start-up count and the aborted notes stand, the start-up status records a station reset, and the capability table's
writes are formed, its layout and the reset values the manual does not give being the model's choices (assumptions 6
and 13). -/
def Obligations.StationResetBegins : Prop :=
  (∀ (s : State) (b : BlockNo) (rest : List BlockNo) (p : List Byte), s.Takes b rest 22 p →
    ∃ t, exec .resetStation s = .next t ∧ t.startUp.phase = .resetting ∧ t.cmd.pending = [] ∧ t.cmd.save = none ∧
      t.cmd.causes = 0 ∧ t.cmd.enables = 0 ∧ t.interrupt = false ∧ t.cmd.exec = some (.reset b) ∧
      t.owes (s.blockLine b) (some (partLine (statusBytes .none s.cmd.blocks[b].overrun 0))) (.completion b) ∧
      t.cmd.blocks[b].state = .closing ∧
      (∀ c : BlockNo, c ≠ b → s.cmd.blocks[c].state = .pending ∨ s.cmd.blocks[c].state = .saving →
        t.cmd.blocks[c].aborted = true) ∧
      (∀ k : PortNo, t.tx[k].urgent = [] ∧ t.tx[k].bulk = [] ∧ t.tx[k].probe = none ∧ t.tx[k].probeBack = none ∧
        t.tx[k].line = none ∧ t.tx[k].ctx = none ∧ t.tx[k].holdoffDue = none ∧
        t.tx[k].counters = s.tx[k].counters ∧ t.rx[k].ctx = none ∧ t.rx[k].reception = none ∧
        t.rx[k].counters = s.rx[k].counters) ∧
      t.rs.batches = [] ∧ (∀ r ∈ t.cu.records, r.phase = .closing) ∧ t.tu = s.tu ∧ t.clock = s.clock) ∧
  (∀ (s : State) (straps : Fin 8) (flash : Option (List Byte)), s.startUp.phase = .resetting → ¬ s.Drained → s.Settled →
    exec (.startUpOrder straps flash) s = .next { s with out := [] }) ∧
  ∀ (s : State) (straps : Fin 8) (flash : Option (List Byte)) (result : ImageResult), s.startUp.phase = .resetting →
    s.Drained → s.tu.state ≠ .holdover → FlashFails flash result →
    ∃ t page, exec (.startUpOrder straps flash) s = .next t ∧
      [(0, 0x10), (1, 0x200), (2, 0x2000), (3, 0x20000), (4, 0x80000), (5, 0x200000), (6, 0x7FFF00),
        (7, 0xFFFF00)].lookup straps.val = some page ∧
      t.mi.windows[14] = ⟨true, page, page, .control, 0, false, false⟩ ∧
      t.mi.windows[15] = ⟨true, page + 1, page + 1, .descriptor, 0, false, false⟩ ∧
      (∀ i : EntryNo, i < 14 → t.mi.windows[i] = ⟨false, 0, 0, .guard, 0, false, false⟩) ∧
      t.startUp.phase = .starting ∧ t.startUp.step = 3 ∧ t.startUp.count = s.startUp.count ∧
      t.startUp.status.stationReset = true ∧ t.startUp.status.straps = straps.val ∧
      t.startUp.status.result = result ∧
      t.startUp.left = (linesFrom ((page + 1) * 64) (capabilityTable t)).length ∧
      (∀ x ∈ linesFrom ((page + 1) * 64) (capabilityTable t), t.owes x.1 x.2.1 x.2.2) ∧
      t.tu = { s.tu with limit := 30 } ∧ t.clock = s.clock ∧
      t.cmd.causes = s.cmd.causes ∧ t.cmd.enables = 0 ∧ t.cmd.pending = [] ∧ t.cmd.exec = none ∧
      (∀ c : BlockNo, t.cmd.blocks[c].state = .idle ∧ t.cmd.blocks[c].overrun = false ∧
        t.cmd.blocks[c].aborted = s.cmd.blocks[c].aborted) ∧
      t.ownSite = 0 ∧ t.hops = State.reset.hops ∧ t.ports = State.reset.ports ∧ t.paths = State.reset.paths ∧
      t.rs = State.reset.rs ∧ t.tx = State.reset.tx ∧ t.rx = State.reset.rx ∧ t.cu = State.reset.cu ∧
      t.rmu = State.reset.rmu

/-- RESET_INPUT: whatever the part did, every part of it takes its power-on value; the terminals' indications and the
commands that wait are outside the part (R3, R94). Where the manual gives no power-on value, State.reset holds the
model's choice: the entries 14 and 15, the extremes, the announcement's seconds, the blocks' copies and tags and the
start-up status among them (assumption 13). -/
def Obligations.ResetInputResets : Prop :=
  ∀ s : State, ∃ t, exec .resetInput s = .next t ∧
    { t with out := [] } = { State.reset with pending := s.pending, linkInput := s.linkInput, freeCount := s.freeCount } ∧
    (∀ o ∈ t.out, ∃ k : PortNo, o = .abort k ∧ s.tx[k].line ≠ none)

/-- START_UP_ORDER from the reset input with a flash that does not answer, or holds an image without the signature, of
a length that cannot be or with a CRC that does not agree: the straps place entries 14 and 15, every other entry is
disabled, every block takes its default, the start-up status records the result (R169), and the capability table's
writes are formed at the descriptor page (R168 to R172); the layout inside the table's blocks, and the reset values
that the manual does not give, are the model's choices (assumptions 6 and 13). With a good image of four blocks,
NOTIFY, TIMING, HOPS with one record and IDENTITY: each is applied and clamped, the own site and the enable set as
given, the holdover limit, the fourteen hole timeouts and the hop's thresholds, an own site above 7 being a refused
entry; every type without a block is ABSENT and at its defaults (R11, R22, R141, R169, R170). -/
def Obligations.StartUpFromStraps : Prop :=
  ∀ (s : State) (straps : Fin 8), s.startUp.phase = .inReset →
    (∀ (flash : Option (List Byte)) (result : ImageResult), FlashFails flash result →
      ∃ t page, exec (.startUpOrder straps flash) s = .next t ∧
        [(0, 0x10), (1, 0x200), (2, 0x2000), (3, 0x20000), (4, 0x80000), (5, 0x200000), (6, 0x7FFF00),
          (7, 0xFFFF00)].lookup straps.val = some page ∧
        t.mi.windows[14] = ⟨true, page, page, .control, 0, false, false⟩ ∧
        t.mi.windows[15] = ⟨true, page + 1, page + 1, .descriptor, 0, false, false⟩ ∧
        (∀ i : EntryNo, i < 14 → t.mi.windows[i] = ⟨false, 0, 0, .guard, 0, false, false⟩) ∧
        t.startUp.phase = .starting ∧ t.startUp.step = 3 ∧ t.startUp.status.result = result ∧
        t.startUp.status.straps = straps.val ∧ t.startUp.status.stationReset = false ∧
        (∀ i : Fin 8, t.startUp.status.states[i] = .absent ∧ t.startUp.status.refused[i] = 0) ∧
        t.startUp.count = s.startUp.count ∧ t.startUp.left = (linesFrom ((page + 1) * 64) (capabilityTable t)).length ∧
        (∀ x ∈ linesFrom ((page + 1) * 64) (capabilityTable t), t.owes x.1 x.2.1 x.2.2) ∧
        t.ownSite = 0 ∧ t.cmd.enables = 0 ∧ t.tu.limit = 30 ∧ t.hops = State.reset.hops ∧ t.ports = State.reset.ports ∧
        t.paths = State.reset.paths ∧ t.rs = State.reset.rs ∧ t.tx = State.reset.tx ∧ t.rx = State.reset.rx ∧
        t.cu = State.reset.cu ∧ t.rmu = State.reset.rmu ∧ t.clock = s.clock) ∧
    (∀ (site : Byte) (serial : BitVec 64) (causes limit : Fin 65536) (timeouts : Fin 14 → Fin 16777216) (h : HopNo)
        (hop : List Byte) (own : Site), hop.length = 8 → byteAt hop 0 = h.val →
      own.val = (if site.toNat ≤ 7 then site.toNat else 0) →
      ∃ (t : State) (down fade : Int), exec (.startUpOrder straps (some (fourBlockImage site serial causes.val limit.val
          (fun i => (timeouts i).val) hop))) s = .next t ∧
        t.startUp.status.result = .accepted ∧ t.startUp.status.blocks = 4 ∧ t.startUp.status.badType = none ∧
        t.ownSite = own ∧ t.cmd.enables = BitVec.ofNat 9 causes.val ∧
        t.startUp.status.foreign = (serial != Config.unitSerial) ∧
        (∀ i : Fin 8, t.startUp.status.states[i] =
            (if i = 0 ∨ i = 3 ∨ i = 6 ∨ i = 7 then .applied else .absent) ∧
          t.startUp.status.refused[i] = (if i = 0 ∧ 7 < site.toNat then 1 else 0)) ∧
        (∀ i : EntryNo, i < 14 → t.mi.windows[i] = ⟨false, 0, 0, .guard, 0, false, false⟩) ∧
        t.tu.limit = min 3600 (max 1 limit.val) ∧
        (∀ (r : Site) (i j : Fin 14), r ≠ own → i.val = timeoutPlace own r → j.val = i.val + 1 →
          t.rmu[r].urgent = { RxWindow.reset with timeout := min 100000 (max 100 (timeouts i).val) } ∧
          t.rmu[r].bulk = { RxWindow.reset with timeout := min 100000 (max 100 (timeouts j).val) } ∧
          t.rmu[r].ring = RxRing.reset) ∧
        t.rmu[own] = RxSite.reset ∧
        down = max (-1000) (min (-201) (signedField hop 4 2)) ∧
        fade = max down (max (-1000) (min (-201) (signedField hop 2 2))) ∧
        t.hops[h] = { HopRec.reset with
          fade := fade, down := down, hyst := min (-200 - fade) (max 1 (min 200 (byteAt hop 6))),
          debounce := min 8 (max 1 (byteAt hop 7)) } ∧
        (∀ g : HopNo, g ≠ h → t.hops[g] = HopRec.reset) ∧
        t.ports = State.reset.ports ∧ t.paths = State.reset.paths ∧ t.rs = State.reset.rs ∧ t.tx = State.reset.tx)

/-- The start-up order from its first answer to ready (R171). OWN_RESPONSE, OK or ERROR, to a write of a step: the
order waits for the step's other answers, and the last begins the next step. After step 3 the status area's five lines
are written as one group: line 0 with the cause set, line 2 with the start-up count so far and the ready flag clear,
lines 3 and 4 with every hop UNKNOWN, line 5 with the start-up status. After step 4 each block's tag is read; an
answer's tag is taken as seen, or 0 at ERROR (R157). After step 5 bytes 3 to 7 are written: of every block IDLE at a
power-on start, of each block noted aborted ABORTED at a station reset's (R167). After step 6, or at once where no
block is written, each present receive ring starts, its control line written (R144). After step 7, or at once where
none is present, the order is at step 8. READY at step 8, the own-request queue having room: ready is set as line 2
joins with the new start-up count and the ready flag, each link flag takes its indication (R45), the slot tables of
the enabled TRANSMIT entries are built (R81, R96), and each DOWN path whose link is up and whose hops all are CLEAR or
FADING goes to PROBING (R37, R42); that line 2's write already carries the link flags so taken is the model's choice
(assumption 11), as are the groups of steps 5 and 6 (assumption 12). -/
def Obligations.ReadyIsSet : Prop :=
  (∀ s : State, s.startUp.phase = .starting → s.startUp.step = 8 → s.mi.waiting = [] → s.mi.own.length < 32 →
    ∃ (t : State) (w : WLine), exec .ready s = .next t ∧ t.isReady = true ∧ t.startUp.count = s.startUp.count + 1 ∧
      t.link = s.linkInput ∧ t.owes (s.controlLine + 2) (some w) .summary ∧
      enabledRun w 32 5 = some (leBytes 4 (s.startUp.count + 1).toNat ++ [1]) ∧
      (∀ k : PortNo, w[24 + k.val]? = some (some (if s.linkInput[k] then 1 else 0))) ∧
      (∀ (i : EntryNo) (ring : RingNo), s.mi.windows[i].enabled = true → s.mi.windows[i].kind = .transmit →
        s.mi.windows[i].param = ring.val → ¬ s.namesToo i .transmit ring.val → s.cu.records = [] →
        t.cu.rings[ring] = some ⟨s.mi.windows[i].base, s.mi.windows[i].limit,
          List.replicate (32 * (s.mi.windows[i].limit + 1 - s.mi.windows[i].base)) ⟨false, true⟩⟩) ∧
      (∀ p : PathNo, t.paths[p].state =
        if s.paths[p].state = .down ∧ passable { s with link := s.linkInput } p = true then .probing
        else s.paths[p].state) ∧
      t.tu = s.tu ∧ t.hops = s.hops ∧ t.ports = s.ports ∧ t.rmu = s.rmu ∧ t.mi.windows = s.mi.windows ∧
      t.cmd.blocks = s.cmd.blocks ∧ t.cmd.enables = s.cmd.enables) ∧
  ∀ (s : State) (r : OwnReq) (rest : List Outstanding) (ok : Bool) (data : List Byte),
    s.startUp.phase = .starting → s.mi.outstanding = .own r :: rest →
    (r.tag = .startUp → r.write ≠ none →
      (2 ≤ s.startUp.left → s.Settled →
        exec (.ownResponse ok data) s = .next { s.answered r rest with
          startUp := { s.startUp with left := s.startUp.left - 1 } }) ∧
      (s.startUp.left = 1 → s.startUp.step = 3 → (∀ h : HopNo, s.hops[h].state = .unknown) →
        ∃ (t : State) (w w' : WLine), exec (.ownResponse ok data) s = .next t ∧
          t.startUp = { s.startUp with step := 4, left := 5 } ∧ t.cmd.statusOn = true ∧
          t.owesRun [(s.controlLine, some (causeLineOf s.cmd.causes), .startUp), (s.controlLine + 2, some w, .startUp),
            (s.controlLine + 3, some (List.replicate 64 (some 0)), .startUp),
            (s.controlLine + 4, some (List.replicate 64 (some 0)), .startUp), (s.controlLine + 5, some w', .startUp)] ∧
          allEnabled w = true ∧ enabledRun w 32 5 = some (leBytes 4 s.startUp.count.toNat ++ [0]) ∧
          allEnabled w' = true ∧
          enabledRun w' 0 5 = some [if s.startUp.status.stationReset then 2 else 1,
            BitVec.ofNat 8 s.startUp.status.straps, s.startUp.status.result.code,
            BitVec.ofNat 8 s.startUp.status.blocks, flagByte s.startUp.status.foreign] ∧
          (s.startUp.status.badType = none → w'[5]? = some (some 0xFF)) ∧
          (∀ n : Nat, s.startUp.status.badType = some n → w'[5]? = some (some (BitVec.ofNat 8 n))) ∧
          (∀ i : Fin 8, w'[8 + i.val]? = some (some s.startUp.status.states[i].code) ∧
            enabledRun w' (16 + 2 * i.val) 2 = some (leBytes 2 s.startUp.status.refused[i])) ∧
          t.cmd.causes = s.cmd.causes ∧ t.cmd.blocks = s.cmd.blocks ∧
          t.outside = { s.answered r rest with startUp := t.startUp }.outside) ∧
      (s.startUp.left = 1 → s.startUp.step = 4 →
        ∃ t, exec (.ownResponse ok data) s = .next t ∧ t.startUp = { s.startUp with step := 5, left := 8 } ∧
          t.owesRun ((List.finRange 8).map (fun b => (s.blockLine b, none, .tagRead b))) ∧
          t.cmd.causes = s.cmd.causes ∧ t.cmd.blocks = s.cmd.blocks ∧
          t.outside = { s.answered r rest with startUp := t.startUp }.outside) ∧
      (s.startUp.left = 1 → s.startUp.step = 6 → s.RingsPlaced →
        ∃ t, exec (.ownResponse ok data) s = .next t ∧ s.StartsRings t ∧ t.cmd.causes = s.cmd.causes ∧
          t.cmd.blocks = s.cmd.blocks ∧
          t.outside = { s.answered r rest with startUp := t.startUp, rmu := t.rmu }.outside) ∧
      (s.startUp.left = 1 → s.startUp.step = 7 → s.Settled →
        exec (.ownResponse ok data) s = .next { s.answered r rest with
          startUp := { s.startUp with step := 8, left := 0 } })) ∧
    (∀ b : BlockNo, r.tag = .tagRead b → r.write = none → (ok = true → data.length = 64) → s.startUp.step = 5 →
      s.RingsPlaced →
      ∃ t, exec (.ownResponse ok data) s = .next t ∧ t.cmd.causes = s.cmd.causes ∧
        (∀ read : Vector Block 8,
          read = s.cmd.blocks.set b { s.cmd.blocks[b] with lastTag := if ok then data.getD 1 0 else 0 } →
          (2 ≤ s.startUp.left → t.startUp = { s.startUp with left := s.startUp.left - 1 } ∧ t.cmd.blocks = read ∧
            t.rmu = s.rmu) ∧
          (s.startUp.left = 1 → t.cmd.blocks = read.map (fun x => { x with aborted := false }) ∧
            (s.startUp.status.stationReset = false →
              t.startUp = { s.startUp with step := 6, left := 8 } ∧ t.rmu = s.rmu ∧
              t.owesRun (s.blockWrites 0 (List.finRange 8))) ∧
            (s.startUp.status.stationReset = true → s.abortedBlocks ≠ [] →
              t.startUp = { s.startUp with step := 6, left := s.abortedBlocks.length } ∧ t.rmu = s.rmu ∧
              t.owesRun (s.blockWrites 4 s.abortedBlocks)) ∧
            (s.startUp.status.stationReset = true → s.abortedBlocks = [] → s.StartsRings t))) ∧
        t.outside = { s.answered r rest with startUp := t.startUp, rmu := t.rmu }.outside)
end

