-- ==== Sys2Proof/Laws/State.lean ====
section
/-! SUPPORT. One lemma for each field of State and each update of one object, true by unfolding. -/

namespace Sys2Proof.Machine

/-! ## One object of a bank -/

@[simp] theorem updAt_self {α : Type} {n : Nat} (v : Vector α n) (i : Fin n) (f : α → α) :
    (updAt v i f)[(i : Nat)] = f v[(i : Nat)] := by
  simp [updAt]

theorem updAt_other {α : Type} {n : Nat} (v : Vector α n) (i j : Fin n) (f : α → α) (h : j ≠ i) :
    (updAt v i f)[(j : Nat)] = v[(j : Nat)] := by
  have : (i : Nat) ≠ j := fun e => h (Fin.ext e.symm)
  simp [updAt, this]

/-- An object of a bank with one object changed. -/
theorem updAt_get {α : Type} {n : Nat} (v : Vector α n) (i j : Fin n) (f : α → α) :
    (updAt v i f)[(j : Nat)] = if j = i then f v[(i : Nat)] else v[(j : Nat)] := by
  split
  next h => subst h; exact updAt_self v j f
  next h => exact updAt_other v i j f h

/-- A change of one object that changes nothing. -/
theorem updAt_id {α : Type} {n : Nat} (v : Vector α n) (i : Fin n) (f : α → α) (h : f v[(i : Nat)] = v[(i : Nat)]) :
    updAt v i f = v := by
  apply Vector.ext
  intro j hj
  have e := updAt_get v i ⟨j, hj⟩ f
  split at e
  next k => subst k; exact e.trans h
  next => exact e

namespace State

variable (s : State)


/-! ## updPath -/

@[simp] theorem updPath_pending (p : PathNo) (f : PathRec → PathRec) : (s.updPath p f).pending = s.pending := rfl
@[simp] theorem updPath_out (p : PathNo) (f : PathRec → PathRec) : (s.updPath p f).out = s.out := rfl
@[simp] theorem updPath_freeCount (p : PathNo) (f : PathRec → PathRec) : (s.updPath p f).freeCount = s.freeCount := rfl
@[simp] theorem updPath_startUp (p : PathNo) (f : PathRec → PathRec) : (s.updPath p f).startUp = s.startUp := rfl
@[simp] theorem updPath_ownSite (p : PathNo) (f : PathRec → PathRec) : (s.updPath p f).ownSite = s.ownSite := rfl
@[simp] theorem updPath_clock (p : PathNo) (f : PathRec → PathRec) : (s.updPath p f).clock = s.clock := rfl
@[simp] theorem updPath_subMicro (p : PathNo) (f : PathRec → PathRec) : (s.updPath p f).subMicro = s.subMicro := rfl
@[simp] theorem updPath_linkInput (p : PathNo) (f : PathRec → PathRec) : (s.updPath p f).linkInput = s.linkInput := rfl
@[simp] theorem updPath_link (p : PathNo) (f : PathRec → PathRec) : (s.updPath p f).link = s.link := rfl
@[simp] theorem updPath_tu (p : PathNo) (f : PathRec → PathRec) : (s.updPath p f).tu = s.tu := rfl
@[simp] theorem updPath_hops (p : PathNo) (f : PathRec → PathRec) : (s.updPath p f).hops = s.hops := rfl
@[simp] theorem updPath_ports (p : PathNo) (f : PathRec → PathRec) : (s.updPath p f).ports = s.ports := rfl
@[simp] theorem updPath_paths (p : PathNo) (f : PathRec → PathRec) : (s.updPath p f).paths = updAt s.paths p f := rfl
@[simp] theorem updPath_rs (p : PathNo) (f : PathRec → PathRec) : (s.updPath p f).rs = s.rs := rfl
@[simp] theorem updPath_tx (p : PathNo) (f : PathRec → PathRec) : (s.updPath p f).tx = s.tx := rfl
@[simp] theorem updPath_rx (p : PathNo) (f : PathRec → PathRec) : (s.updPath p f).rx = s.rx := rfl
@[simp] theorem updPath_cu (p : PathNo) (f : PathRec → PathRec) : (s.updPath p f).cu = s.cu := rfl
@[simp] theorem updPath_mi (p : PathNo) (f : PathRec → PathRec) : (s.updPath p f).mi = s.mi := rfl
@[simp] theorem updPath_rmu (p : PathNo) (f : PathRec → PathRec) : (s.updPath p f).rmu = s.rmu := rfl
@[simp] theorem updPath_cmd (p : PathNo) (f : PathRec → PathRec) : (s.updPath p f).cmd = s.cmd := rfl

/-! ## updHop -/

@[simp] theorem updHop_pending (h : HopNo) (f : HopRec → HopRec) : (s.updHop h f).pending = s.pending := rfl
@[simp] theorem updHop_out (h : HopNo) (f : HopRec → HopRec) : (s.updHop h f).out = s.out := rfl
@[simp] theorem updHop_freeCount (h : HopNo) (f : HopRec → HopRec) : (s.updHop h f).freeCount = s.freeCount := rfl
@[simp] theorem updHop_startUp (h : HopNo) (f : HopRec → HopRec) : (s.updHop h f).startUp = s.startUp := rfl
@[simp] theorem updHop_ownSite (h : HopNo) (f : HopRec → HopRec) : (s.updHop h f).ownSite = s.ownSite := rfl
@[simp] theorem updHop_clock (h : HopNo) (f : HopRec → HopRec) : (s.updHop h f).clock = s.clock := rfl
@[simp] theorem updHop_subMicro (h : HopNo) (f : HopRec → HopRec) : (s.updHop h f).subMicro = s.subMicro := rfl
@[simp] theorem updHop_linkInput (h : HopNo) (f : HopRec → HopRec) : (s.updHop h f).linkInput = s.linkInput := rfl
@[simp] theorem updHop_link (h : HopNo) (f : HopRec → HopRec) : (s.updHop h f).link = s.link := rfl
@[simp] theorem updHop_tu (h : HopNo) (f : HopRec → HopRec) : (s.updHop h f).tu = s.tu := rfl
@[simp] theorem updHop_hops (h : HopNo) (f : HopRec → HopRec) : (s.updHop h f).hops = updAt s.hops h f := rfl
@[simp] theorem updHop_ports (h : HopNo) (f : HopRec → HopRec) : (s.updHop h f).ports = s.ports := rfl
@[simp] theorem updHop_paths (h : HopNo) (f : HopRec → HopRec) : (s.updHop h f).paths = s.paths := rfl
@[simp] theorem updHop_rs (h : HopNo) (f : HopRec → HopRec) : (s.updHop h f).rs = s.rs := rfl
@[simp] theorem updHop_tx (h : HopNo) (f : HopRec → HopRec) : (s.updHop h f).tx = s.tx := rfl
@[simp] theorem updHop_rx (h : HopNo) (f : HopRec → HopRec) : (s.updHop h f).rx = s.rx := rfl
@[simp] theorem updHop_cu (h : HopNo) (f : HopRec → HopRec) : (s.updHop h f).cu = s.cu := rfl
@[simp] theorem updHop_mi (h : HopNo) (f : HopRec → HopRec) : (s.updHop h f).mi = s.mi := rfl
@[simp] theorem updHop_rmu (h : HopNo) (f : HopRec → HopRec) : (s.updHop h f).rmu = s.rmu := rfl
@[simp] theorem updHop_cmd (h : HopNo) (f : HopRec → HopRec) : (s.updHop h f).cmd = s.cmd := rfl

/-! ## updPort -/

@[simp] theorem updPort_pending (k : PortNo) (f : PortRec → PortRec) : (s.updPort k f).pending = s.pending := rfl
@[simp] theorem updPort_out (k : PortNo) (f : PortRec → PortRec) : (s.updPort k f).out = s.out := rfl
@[simp] theorem updPort_freeCount (k : PortNo) (f : PortRec → PortRec) : (s.updPort k f).freeCount = s.freeCount := rfl
@[simp] theorem updPort_startUp (k : PortNo) (f : PortRec → PortRec) : (s.updPort k f).startUp = s.startUp := rfl
@[simp] theorem updPort_ownSite (k : PortNo) (f : PortRec → PortRec) : (s.updPort k f).ownSite = s.ownSite := rfl
@[simp] theorem updPort_clock (k : PortNo) (f : PortRec → PortRec) : (s.updPort k f).clock = s.clock := rfl
@[simp] theorem updPort_subMicro (k : PortNo) (f : PortRec → PortRec) : (s.updPort k f).subMicro = s.subMicro := rfl
@[simp] theorem updPort_linkInput (k : PortNo) (f : PortRec → PortRec) : (s.updPort k f).linkInput = s.linkInput := rfl
@[simp] theorem updPort_link (k : PortNo) (f : PortRec → PortRec) : (s.updPort k f).link = s.link := rfl
@[simp] theorem updPort_tu (k : PortNo) (f : PortRec → PortRec) : (s.updPort k f).tu = s.tu := rfl
@[simp] theorem updPort_hops (k : PortNo) (f : PortRec → PortRec) : (s.updPort k f).hops = s.hops := rfl
@[simp] theorem updPort_ports (k : PortNo) (f : PortRec → PortRec) : (s.updPort k f).ports = updAt s.ports k f := rfl
@[simp] theorem updPort_paths (k : PortNo) (f : PortRec → PortRec) : (s.updPort k f).paths = s.paths := rfl
@[simp] theorem updPort_rs (k : PortNo) (f : PortRec → PortRec) : (s.updPort k f).rs = s.rs := rfl
@[simp] theorem updPort_tx (k : PortNo) (f : PortRec → PortRec) : (s.updPort k f).tx = s.tx := rfl
@[simp] theorem updPort_rx (k : PortNo) (f : PortRec → PortRec) : (s.updPort k f).rx = s.rx := rfl
@[simp] theorem updPort_cu (k : PortNo) (f : PortRec → PortRec) : (s.updPort k f).cu = s.cu := rfl
@[simp] theorem updPort_mi (k : PortNo) (f : PortRec → PortRec) : (s.updPort k f).mi = s.mi := rfl
@[simp] theorem updPort_rmu (k : PortNo) (f : PortRec → PortRec) : (s.updPort k f).rmu = s.rmu := rfl
@[simp] theorem updPort_cmd (k : PortNo) (f : PortRec → PortRec) : (s.updPort k f).cmd = s.cmd := rfl

/-! ## updTx -/

@[simp] theorem updTx_pending (k : PortNo) (f : Transmitter → Transmitter) : (s.updTx k f).pending = s.pending := rfl
@[simp] theorem updTx_out (k : PortNo) (f : Transmitter → Transmitter) : (s.updTx k f).out = s.out := rfl
@[simp] theorem updTx_freeCount (k : PortNo) (f : Transmitter → Transmitter) : (s.updTx k f).freeCount = s.freeCount := rfl
@[simp] theorem updTx_startUp (k : PortNo) (f : Transmitter → Transmitter) : (s.updTx k f).startUp = s.startUp := rfl
@[simp] theorem updTx_ownSite (k : PortNo) (f : Transmitter → Transmitter) : (s.updTx k f).ownSite = s.ownSite := rfl
@[simp] theorem updTx_clock (k : PortNo) (f : Transmitter → Transmitter) : (s.updTx k f).clock = s.clock := rfl
@[simp] theorem updTx_subMicro (k : PortNo) (f : Transmitter → Transmitter) : (s.updTx k f).subMicro = s.subMicro := rfl
@[simp] theorem updTx_linkInput (k : PortNo) (f : Transmitter → Transmitter) : (s.updTx k f).linkInput = s.linkInput := rfl
@[simp] theorem updTx_link (k : PortNo) (f : Transmitter → Transmitter) : (s.updTx k f).link = s.link := rfl
@[simp] theorem updTx_tu (k : PortNo) (f : Transmitter → Transmitter) : (s.updTx k f).tu = s.tu := rfl
@[simp] theorem updTx_hops (k : PortNo) (f : Transmitter → Transmitter) : (s.updTx k f).hops = s.hops := rfl
@[simp] theorem updTx_ports (k : PortNo) (f : Transmitter → Transmitter) : (s.updTx k f).ports = s.ports := rfl
@[simp] theorem updTx_paths (k : PortNo) (f : Transmitter → Transmitter) : (s.updTx k f).paths = s.paths := rfl
@[simp] theorem updTx_rs (k : PortNo) (f : Transmitter → Transmitter) : (s.updTx k f).rs = s.rs := rfl
@[simp] theorem updTx_tx (k : PortNo) (f : Transmitter → Transmitter) : (s.updTx k f).tx = updAt s.tx k f := rfl
@[simp] theorem updTx_rx (k : PortNo) (f : Transmitter → Transmitter) : (s.updTx k f).rx = s.rx := rfl
@[simp] theorem updTx_cu (k : PortNo) (f : Transmitter → Transmitter) : (s.updTx k f).cu = s.cu := rfl
@[simp] theorem updTx_mi (k : PortNo) (f : Transmitter → Transmitter) : (s.updTx k f).mi = s.mi := rfl
@[simp] theorem updTx_rmu (k : PortNo) (f : Transmitter → Transmitter) : (s.updTx k f).rmu = s.rmu := rfl
@[simp] theorem updTx_cmd (k : PortNo) (f : Transmitter → Transmitter) : (s.updTx k f).cmd = s.cmd := rfl

/-! ## updRx -/

@[simp] theorem updRx_pending (k : PortNo) (f : Receiver → Receiver) : (s.updRx k f).pending = s.pending := rfl
@[simp] theorem updRx_out (k : PortNo) (f : Receiver → Receiver) : (s.updRx k f).out = s.out := rfl
@[simp] theorem updRx_freeCount (k : PortNo) (f : Receiver → Receiver) : (s.updRx k f).freeCount = s.freeCount := rfl
@[simp] theorem updRx_startUp (k : PortNo) (f : Receiver → Receiver) : (s.updRx k f).startUp = s.startUp := rfl
@[simp] theorem updRx_ownSite (k : PortNo) (f : Receiver → Receiver) : (s.updRx k f).ownSite = s.ownSite := rfl
@[simp] theorem updRx_clock (k : PortNo) (f : Receiver → Receiver) : (s.updRx k f).clock = s.clock := rfl
@[simp] theorem updRx_subMicro (k : PortNo) (f : Receiver → Receiver) : (s.updRx k f).subMicro = s.subMicro := rfl
@[simp] theorem updRx_linkInput (k : PortNo) (f : Receiver → Receiver) : (s.updRx k f).linkInput = s.linkInput := rfl
@[simp] theorem updRx_link (k : PortNo) (f : Receiver → Receiver) : (s.updRx k f).link = s.link := rfl
@[simp] theorem updRx_tu (k : PortNo) (f : Receiver → Receiver) : (s.updRx k f).tu = s.tu := rfl
@[simp] theorem updRx_hops (k : PortNo) (f : Receiver → Receiver) : (s.updRx k f).hops = s.hops := rfl
@[simp] theorem updRx_ports (k : PortNo) (f : Receiver → Receiver) : (s.updRx k f).ports = s.ports := rfl
@[simp] theorem updRx_paths (k : PortNo) (f : Receiver → Receiver) : (s.updRx k f).paths = s.paths := rfl
@[simp] theorem updRx_rs (k : PortNo) (f : Receiver → Receiver) : (s.updRx k f).rs = s.rs := rfl
@[simp] theorem updRx_tx (k : PortNo) (f : Receiver → Receiver) : (s.updRx k f).tx = s.tx := rfl
@[simp] theorem updRx_rx (k : PortNo) (f : Receiver → Receiver) : (s.updRx k f).rx = updAt s.rx k f := rfl
@[simp] theorem updRx_cu (k : PortNo) (f : Receiver → Receiver) : (s.updRx k f).cu = s.cu := rfl
@[simp] theorem updRx_mi (k : PortNo) (f : Receiver → Receiver) : (s.updRx k f).mi = s.mi := rfl
@[simp] theorem updRx_rmu (k : PortNo) (f : Receiver → Receiver) : (s.updRx k f).rmu = s.rmu := rfl
@[simp] theorem updRx_cmd (k : PortNo) (f : Receiver → Receiver) : (s.updRx k f).cmd = s.cmd := rfl

/-! ## updRoute -/

@[simp] theorem updRoute_pending (r : Site) (f : RouteRec → RouteRec) : (s.updRoute r f).pending = s.pending := rfl
@[simp] theorem updRoute_out (r : Site) (f : RouteRec → RouteRec) : (s.updRoute r f).out = s.out := rfl
@[simp] theorem updRoute_freeCount (r : Site) (f : RouteRec → RouteRec) : (s.updRoute r f).freeCount = s.freeCount := rfl
@[simp] theorem updRoute_startUp (r : Site) (f : RouteRec → RouteRec) : (s.updRoute r f).startUp = s.startUp := rfl
@[simp] theorem updRoute_ownSite (r : Site) (f : RouteRec → RouteRec) : (s.updRoute r f).ownSite = s.ownSite := rfl
@[simp] theorem updRoute_clock (r : Site) (f : RouteRec → RouteRec) : (s.updRoute r f).clock = s.clock := rfl
@[simp] theorem updRoute_subMicro (r : Site) (f : RouteRec → RouteRec) : (s.updRoute r f).subMicro = s.subMicro := rfl
@[simp] theorem updRoute_linkInput (r : Site) (f : RouteRec → RouteRec) : (s.updRoute r f).linkInput = s.linkInput := rfl
@[simp] theorem updRoute_link (r : Site) (f : RouteRec → RouteRec) : (s.updRoute r f).link = s.link := rfl
@[simp] theorem updRoute_tu (r : Site) (f : RouteRec → RouteRec) : (s.updRoute r f).tu = s.tu := rfl
@[simp] theorem updRoute_hops (r : Site) (f : RouteRec → RouteRec) : (s.updRoute r f).hops = s.hops := rfl
@[simp] theorem updRoute_ports (r : Site) (f : RouteRec → RouteRec) : (s.updRoute r f).ports = s.ports := rfl
@[simp] theorem updRoute_paths (r : Site) (f : RouteRec → RouteRec) : (s.updRoute r f).paths = s.paths := rfl
@[simp] theorem updRoute_rs (r : Site) (f : RouteRec → RouteRec) : (s.updRoute r f).rs = { s.rs with routes := updAt s.rs.routes r f } := rfl
@[simp] theorem updRoute_tx (r : Site) (f : RouteRec → RouteRec) : (s.updRoute r f).tx = s.tx := rfl
@[simp] theorem updRoute_rx (r : Site) (f : RouteRec → RouteRec) : (s.updRoute r f).rx = s.rx := rfl
@[simp] theorem updRoute_cu (r : Site) (f : RouteRec → RouteRec) : (s.updRoute r f).cu = s.cu := rfl
@[simp] theorem updRoute_mi (r : Site) (f : RouteRec → RouteRec) : (s.updRoute r f).mi = s.mi := rfl
@[simp] theorem updRoute_rmu (r : Site) (f : RouteRec → RouteRec) : (s.updRoute r f).rmu = s.rmu := rfl
@[simp] theorem updRoute_cmd (r : Site) (f : RouteRec → RouteRec) : (s.updRoute r f).cmd = s.cmd := rfl

/-! ## updSite -/

@[simp] theorem updSite_pending (r : Site) (f : RxSite → RxSite) : (s.updSite r f).pending = s.pending := rfl
@[simp] theorem updSite_out (r : Site) (f : RxSite → RxSite) : (s.updSite r f).out = s.out := rfl
@[simp] theorem updSite_freeCount (r : Site) (f : RxSite → RxSite) : (s.updSite r f).freeCount = s.freeCount := rfl
@[simp] theorem updSite_startUp (r : Site) (f : RxSite → RxSite) : (s.updSite r f).startUp = s.startUp := rfl
@[simp] theorem updSite_ownSite (r : Site) (f : RxSite → RxSite) : (s.updSite r f).ownSite = s.ownSite := rfl
@[simp] theorem updSite_clock (r : Site) (f : RxSite → RxSite) : (s.updSite r f).clock = s.clock := rfl
@[simp] theorem updSite_subMicro (r : Site) (f : RxSite → RxSite) : (s.updSite r f).subMicro = s.subMicro := rfl
@[simp] theorem updSite_linkInput (r : Site) (f : RxSite → RxSite) : (s.updSite r f).linkInput = s.linkInput := rfl
@[simp] theorem updSite_link (r : Site) (f : RxSite → RxSite) : (s.updSite r f).link = s.link := rfl
@[simp] theorem updSite_tu (r : Site) (f : RxSite → RxSite) : (s.updSite r f).tu = s.tu := rfl
@[simp] theorem updSite_hops (r : Site) (f : RxSite → RxSite) : (s.updSite r f).hops = s.hops := rfl
@[simp] theorem updSite_ports (r : Site) (f : RxSite → RxSite) : (s.updSite r f).ports = s.ports := rfl
@[simp] theorem updSite_paths (r : Site) (f : RxSite → RxSite) : (s.updSite r f).paths = s.paths := rfl
@[simp] theorem updSite_rs (r : Site) (f : RxSite → RxSite) : (s.updSite r f).rs = s.rs := rfl
@[simp] theorem updSite_tx (r : Site) (f : RxSite → RxSite) : (s.updSite r f).tx = s.tx := rfl
@[simp] theorem updSite_rx (r : Site) (f : RxSite → RxSite) : (s.updSite r f).rx = s.rx := rfl
@[simp] theorem updSite_cu (r : Site) (f : RxSite → RxSite) : (s.updSite r f).cu = s.cu := rfl
@[simp] theorem updSite_mi (r : Site) (f : RxSite → RxSite) : (s.updSite r f).mi = s.mi := rfl
@[simp] theorem updSite_rmu (r : Site) (f : RxSite → RxSite) : (s.updSite r f).rmu = updAt s.rmu r f := rfl
@[simp] theorem updSite_cmd (r : Site) (f : RxSite → RxSite) : (s.updSite r f).cmd = s.cmd := rfl

/-! ## updBlock -/

@[simp] theorem updBlock_pending (b : BlockNo) (f : Block → Block) : (s.updBlock b f).pending = s.pending := rfl
@[simp] theorem updBlock_out (b : BlockNo) (f : Block → Block) : (s.updBlock b f).out = s.out := rfl
@[simp] theorem updBlock_freeCount (b : BlockNo) (f : Block → Block) : (s.updBlock b f).freeCount = s.freeCount := rfl
@[simp] theorem updBlock_startUp (b : BlockNo) (f : Block → Block) : (s.updBlock b f).startUp = s.startUp := rfl
@[simp] theorem updBlock_ownSite (b : BlockNo) (f : Block → Block) : (s.updBlock b f).ownSite = s.ownSite := rfl
@[simp] theorem updBlock_clock (b : BlockNo) (f : Block → Block) : (s.updBlock b f).clock = s.clock := rfl
@[simp] theorem updBlock_subMicro (b : BlockNo) (f : Block → Block) : (s.updBlock b f).subMicro = s.subMicro := rfl
@[simp] theorem updBlock_linkInput (b : BlockNo) (f : Block → Block) : (s.updBlock b f).linkInput = s.linkInput := rfl
@[simp] theorem updBlock_link (b : BlockNo) (f : Block → Block) : (s.updBlock b f).link = s.link := rfl
@[simp] theorem updBlock_tu (b : BlockNo) (f : Block → Block) : (s.updBlock b f).tu = s.tu := rfl
@[simp] theorem updBlock_hops (b : BlockNo) (f : Block → Block) : (s.updBlock b f).hops = s.hops := rfl
@[simp] theorem updBlock_ports (b : BlockNo) (f : Block → Block) : (s.updBlock b f).ports = s.ports := rfl
@[simp] theorem updBlock_paths (b : BlockNo) (f : Block → Block) : (s.updBlock b f).paths = s.paths := rfl
@[simp] theorem updBlock_rs (b : BlockNo) (f : Block → Block) : (s.updBlock b f).rs = s.rs := rfl
@[simp] theorem updBlock_tx (b : BlockNo) (f : Block → Block) : (s.updBlock b f).tx = s.tx := rfl
@[simp] theorem updBlock_rx (b : BlockNo) (f : Block → Block) : (s.updBlock b f).rx = s.rx := rfl
@[simp] theorem updBlock_cu (b : BlockNo) (f : Block → Block) : (s.updBlock b f).cu = s.cu := rfl
@[simp] theorem updBlock_mi (b : BlockNo) (f : Block → Block) : (s.updBlock b f).mi = s.mi := rfl
@[simp] theorem updBlock_rmu (b : BlockNo) (f : Block → Block) : (s.updBlock b f).rmu = s.rmu := rfl
@[simp] theorem updBlock_cmd (b : BlockNo) (f : Block → Block) : (s.updBlock b f).cmd = { s.cmd with blocks := updAt s.cmd.blocks b f } := rfl

/-! ## updRecord -/

@[simp] theorem updRecord_pending (hdr : Nat) (f : Record → Record) : (s.updRecord hdr f).pending = s.pending := rfl
@[simp] theorem updRecord_out (hdr : Nat) (f : Record → Record) : (s.updRecord hdr f).out = s.out := rfl
@[simp] theorem updRecord_freeCount (hdr : Nat) (f : Record → Record) : (s.updRecord hdr f).freeCount = s.freeCount := rfl
@[simp] theorem updRecord_startUp (hdr : Nat) (f : Record → Record) : (s.updRecord hdr f).startUp = s.startUp := rfl
@[simp] theorem updRecord_ownSite (hdr : Nat) (f : Record → Record) : (s.updRecord hdr f).ownSite = s.ownSite := rfl
@[simp] theorem updRecord_clock (hdr : Nat) (f : Record → Record) : (s.updRecord hdr f).clock = s.clock := rfl
@[simp] theorem updRecord_subMicro (hdr : Nat) (f : Record → Record) : (s.updRecord hdr f).subMicro = s.subMicro := rfl
@[simp] theorem updRecord_linkInput (hdr : Nat) (f : Record → Record) : (s.updRecord hdr f).linkInput = s.linkInput := rfl
@[simp] theorem updRecord_link (hdr : Nat) (f : Record → Record) : (s.updRecord hdr f).link = s.link := rfl
@[simp] theorem updRecord_tu (hdr : Nat) (f : Record → Record) : (s.updRecord hdr f).tu = s.tu := rfl
@[simp] theorem updRecord_hops (hdr : Nat) (f : Record → Record) : (s.updRecord hdr f).hops = s.hops := rfl
@[simp] theorem updRecord_ports (hdr : Nat) (f : Record → Record) : (s.updRecord hdr f).ports = s.ports := rfl
@[simp] theorem updRecord_paths (hdr : Nat) (f : Record → Record) : (s.updRecord hdr f).paths = s.paths := rfl
@[simp] theorem updRecord_rs (hdr : Nat) (f : Record → Record) : (s.updRecord hdr f).rs = s.rs := rfl
@[simp] theorem updRecord_tx (hdr : Nat) (f : Record → Record) : (s.updRecord hdr f).tx = s.tx := rfl
@[simp] theorem updRecord_rx (hdr : Nat) (f : Record → Record) : (s.updRecord hdr f).rx = s.rx := rfl
@[simp] theorem updRecord_cu (hdr : Nat) (f : Record → Record) : (s.updRecord hdr f).cu = { s.cu with records := s.cu.records.map (fun r => if r.hdr = hdr then f r else r) } := rfl
@[simp] theorem updRecord_mi (hdr : Nat) (f : Record → Record) : (s.updRecord hdr f).mi = s.mi := rfl
@[simp] theorem updRecord_rmu (hdr : Nat) (f : Record → Record) : (s.updRecord hdr f).rmu = s.rmu := rfl
@[simp] theorem updRecord_cmd (hdr : Nat) (f : Record → Record) : (s.updRecord hdr f).cmd = s.cmd := rfl

/-! ## emit -/

@[simp] theorem emit_pending (e : OutEvent) : (s.emit e).pending = s.pending := rfl
@[simp] theorem emit_out (e : OutEvent) : (s.emit e).out = s.out ++ [e] := rfl
@[simp] theorem emit_freeCount (e : OutEvent) : (s.emit e).freeCount = s.freeCount := rfl
@[simp] theorem emit_startUp (e : OutEvent) : (s.emit e).startUp = s.startUp := rfl
@[simp] theorem emit_ownSite (e : OutEvent) : (s.emit e).ownSite = s.ownSite := rfl
@[simp] theorem emit_clock (e : OutEvent) : (s.emit e).clock = s.clock := rfl
@[simp] theorem emit_subMicro (e : OutEvent) : (s.emit e).subMicro = s.subMicro := rfl
@[simp] theorem emit_linkInput (e : OutEvent) : (s.emit e).linkInput = s.linkInput := rfl
@[simp] theorem emit_link (e : OutEvent) : (s.emit e).link = s.link := rfl
@[simp] theorem emit_tu (e : OutEvent) : (s.emit e).tu = s.tu := rfl
@[simp] theorem emit_hops (e : OutEvent) : (s.emit e).hops = s.hops := rfl
@[simp] theorem emit_ports (e : OutEvent) : (s.emit e).ports = s.ports := rfl
@[simp] theorem emit_paths (e : OutEvent) : (s.emit e).paths = s.paths := rfl
@[simp] theorem emit_rs (e : OutEvent) : (s.emit e).rs = s.rs := rfl
@[simp] theorem emit_tx (e : OutEvent) : (s.emit e).tx = s.tx := rfl
@[simp] theorem emit_rx (e : OutEvent) : (s.emit e).rx = s.rx := rfl
@[simp] theorem emit_cu (e : OutEvent) : (s.emit e).cu = s.cu := rfl
@[simp] theorem emit_mi (e : OutEvent) : (s.emit e).mi = s.mi := rfl
@[simp] theorem emit_rmu (e : OutEvent) : (s.emit e).rmu = s.rmu := rfl
@[simp] theorem emit_cmd (e : OutEvent) : (s.emit e).cmd = s.cmd := rfl

end State

end Sys2Proof.Machine
end

