-- ==== Sys2Proof/Laws/Own.lean ====
section
/-! SUPPORT. What forming own requests, raising a cause, writing what changed and completing a command do, and what
they leave: the lemmas the other proofs cite in place of unfolding these operations. -/

namespace Sys2Proof.Machine

/-! ## Folds -/

/-- What each change of a fold leaves, the fold leaves. -/
theorem overAll_keeps {α β : Type} (view : State → β) (l : List α) (f : α → State → State)
    (h : ∀ a s, view (f a s) = view s) (s : State) : view (overAll l f s) = view s := by
  induction l generalizing s with
  | nil => rfl
  | cons a l ih => exact (ih (f a s)).trans (h a s)

/-- What each change of a fold keeps true, the fold keeps true. -/
theorem overAll_induct {α : Type} (P : State → Prop) (l : List α) (f : α → State → State)
    (h : ∀ a ∈ l, ∀ s, P s → P (f a s)) (s : State) (hs : P s) : P (overAll l f s) := by
  induction l generalizing s with
  | nil => exact hs
  | cons a l ih =>
    exact ih (fun b hb => h b (List.mem_cons_of_mem a hb)) (f a s) (h a List.mem_cons_self s hs)

/-! ## What lies outside CMD and the own-request queue -/

@[simp] theorem raise_outside (c : Cause) (s : State) : (raise c s).outside = s.outside := rfl

@[simp] theorem markStale_outside (m : Mirror) (s : State) : (markStale m s).outside = s.outside := by cases m <;> rfl

@[simp] theorem updBlock_outside (b : BlockNo) (f : Block → Block) (s : State) : (s.updBlock b f).outside = s.outside :=
  rfl

@[simp] theorem pushGroup_outside (g : Group) (s : State) : (pushGroup g s).outside = s.outside := rfl

theorem joinGroup_outside (g : Group) (s : State) (h : g.act ≠ .ready) : (joinGroup g s).outside = s.outside := by
  unfold joinGroup
  split
  · rfl
  · next e => exact absurd e h
  · rfl

/-- A group that joins or waits changes nothing outside CMD and the queue, unless it sets ready. -/
theorem formGroup_outside (reqs : List (Nat × Option WLine × OwnTag)) (act : JoinAct) (s : State) (h : act ≠ .ready) :
    (formGroup reqs act s).outside = s.outside := by
  unfold formGroup
  dsimp only
  split
  · rw [joinGroup_outside _ _ h]; rfl
  · rfl

@[simp] theorem flush_outside (s : State) : (flush s).outside = s.outside := by
  unfold flush
  split
  · dsimp only
    split
    · rfl
    · rw [formGroup_outside _ _ _ (by decide)]; rfl
  · rfl

@[simp] theorem complete_outside (b : BlockNo) (e : ErrorCode) (n : Nat) (results : List (Nat × List Byte)) (s : State) :
    (complete b e n results s).outside = s.outside := by
  unfold complete
  dsimp only
  rw [formGroup_outside _ _ _ (by split <;> decide)]
  simp

/-! ## Raising a cause -/

/-- Raising a cause adds it to the set and, at CMD, leaves all but the changes owed and the re-raise records. -/
theorem raise_cmd (c : Cause) (s : State) :
    (raise c s).cmd.blocks = s.cmd.blocks ∧ (raise c s).cmd.enables = s.cmd.enables ∧
    (raise c s).cmd.pending = s.cmd.pending ∧ (raise c s).cmd.exec = s.cmd.exec ∧
    (raise c s).cmd.runNo = s.cmd.runNo ∧ (raise c s).cmd.save = s.cmd.save ∧
    (raise c s).cmd.causes = s.cmd.causes ||| c.bit := by
  unfold raise CommandUnit.setCauses
  by_cases h : s.cmd.causes ||| c.bit = s.cmd.causes <;> simp [h]

/-- A cause that is raised is set. -/
theorem raise_hasCause (c : Cause) (s : State) : (raise c s).hasCause c := by
  unfold State.hasCause
  rw [(raise_cmd c s).2.2.2.2.2.2]
  cases c <;> simp [Cause.bit, Cause.code]

/-- A cause that is set stays set as another is raised. -/
theorem raise_keeps {c d : Cause} {s : State} (h : s.hasCause d) : (raise c s).hasCause d := by
  unfold State.hasCause at h ⊢
  rw [(raise_cmd c s).2.2.2.2.2.2]
  simp [h]

/-! ## CMD, when a group is formed -/

/-- CMD but for the stale flags. -/
def CommandUnit.fresh (c : CommandUnit) : CommandUnit :=
  { c with staleSummary := false, staleLow := false, staleHigh := false }

theorem formGroup_cmd (reqs : List (Nat × Option WLine × OwnTag)) (s : State) :
    (formGroup reqs .nothing s).cmd.fresh = s.cmd.fresh := by
  unfold formGroup
  dsimp only
  split <;> rfl

theorem fresh_blocks {c d : CommandUnit} (h : c.fresh = d.fresh) : c.blocks = d.blocks := congrArg (·.blocks) h
theorem fresh_causes {c d : CommandUnit} (h : c.fresh = d.fresh) : c.causes = d.causes := congrArg (·.causes) h
theorem fresh_enables {c d : CommandUnit} (h : c.fresh = d.fresh) : c.enables = d.enables := congrArg (·.enables) h
theorem fresh_pending {c d : CommandUnit} (h : c.fresh = d.fresh) : c.pending = d.pending := congrArg (·.pending) h
theorem fresh_exec {c d : CommandUnit} (h : c.fresh = d.fresh) : c.exec = d.exec := congrArg (·.exec) h
theorem fresh_reRaise {c d : CommandUnit} (h : c.fresh = d.fresh) : c.reRaise = d.reRaise := congrArg (·.reRaise) h
theorem fresh_changes {c d : CommandUnit} (h : c.fresh = d.fresh) : c.changes = d.changes := congrArg (·.changes) h
theorem fresh_statusOn {c d : CommandUnit} (h : c.fresh = d.fresh) : c.statusOn = d.statusOn := congrArg (·.statusOn) h
theorem fresh_runNo {c d : CommandUnit} (h : c.fresh = d.fresh) : c.runNo = d.runNo := congrArg (·.runNo) h
theorem fresh_save {c d : CommandUnit} (h : c.fresh = d.fresh) : c.save = d.save := congrArg (·.save) h

/-- Writing what changed leaves CMD but for the changes it writes and the stale flags. -/
theorem flush_cmd (s : State) : (flush s).cmd.fresh = { s.cmd.fresh with changes := [] } := by
  unfold flush
  split
  · dsimp only
    split
    · rfl
    · rw [formGroup_cmd]; rfl
  · rfl

theorem flush_blocks (s : State) : (flush s).cmd.blocks = s.cmd.blocks := congrArg (·.blocks) (flush_cmd s)
theorem flush_causes (s : State) : (flush s).cmd.causes = s.cmd.causes := congrArg (·.causes) (flush_cmd s)
theorem flush_enables (s : State) : (flush s).cmd.enables = s.cmd.enables := congrArg (·.enables) (flush_cmd s)
theorem flush_pending (s : State) : (flush s).cmd.pending = s.cmd.pending := congrArg (·.pending) (flush_cmd s)
theorem flush_exec (s : State) : (flush s).cmd.exec = s.cmd.exec := congrArg (·.exec) (flush_cmd s)
theorem flush_reRaise (s : State) : (flush s).cmd.reRaise = s.cmd.reRaise := congrArg (·.reRaise) (flush_cmd s)
theorem flush_runNo (s : State) : (flush s).cmd.runNo = s.cmd.runNo := congrArg (·.runNo) (flush_cmd s)
theorem flush_save (s : State) : (flush s).cmd.save = s.cmd.save := congrArg (·.save) (flush_cmd s)

/-- Where CMD owes no write, nothing is written. -/
theorem flush_settled {s : State} (h : s.Settled) : flush s = s := by
  have hc := h.changes
  unfold flush
  split
  · have e : staleWrites s = [] := by
      have a := h.summary
      have b := h.low
      have c := h.high
      unfold State.staleWaits at a b c
      unfold staleWrites
      dsimp only
      cases h1 : s.cmd.staleSummary <;> cases h2 : s.cmd.staleLow <;> cases h3 : s.cmd.staleHigh <;>
        simp_all
    have k : changeWrites s = [] := by simp [changeWrites, hc]
    rw [e, k]
    simp only [List.append_nil, List.isEmpty_nil, if_true]
    rw [← hc]
  · next off =>
    have no : ∀ stale tag, s.staleWaits stale tag → stale = false := by
      intro stale tag w
      cases stale
      · rfl
      · exact absurd (w rfl).1 off
    have a := no _ _ h.summary
    have b := no _ _ h.low
    have c := no _ _ h.high
    have e : { s.cmd with changes := [], staleSummary := false, staleLow := false, staleHigh := false } = s.cmd := by
      conv_rhs => rw [show s.cmd = { s.cmd with
        changes := s.cmd.changes
        staleSummary := s.cmd.staleSummary
        staleLow := s.cmd.staleLow
        staleHigh := s.cmd.staleHigh } from rfl, a, b, c, hc]
    rw [e]

/-- With no change to write and no mirror line stale, CMD owes no write. -/
theorem settled_of_fresh {s : State} (h : s.cmd.changes = [] ∧ s.cmd.staleSummary = false ∧ s.cmd.staleLow = false ∧
    s.cmd.staleHigh = false) : s.Settled :=
  ⟨h.1, fun e => absurd (h.2.1.symm.trans e) (by decide), fun e => absurd (h.2.2.1.symm.trans e) (by decide),
    fun e => absurd (h.2.2.2.symm.trans e) (by decide)⟩

/-! ## Own requests -/

/-- The own requests formed and not yet granted. -/
def State.formed (s : State) : List OwnReq := s.mi.own ++ s.mi.waiting.flatMap (·.reqs)

/-- A mirror line's tag: its content is taken as it joins. -/
def OwnTag.isMirror : OwnTag → Bool
  | .summary => true
  | .hopsLow => true
  | .hopsHigh => true
  | _ => false

theorem fillMirror_other (s : State) (r : OwnReq) (h : r.tag.isMirror = false) : fillMirror s r = r := by
  obtain ⟨i, l, w, t⟩ := r
  cases t <;> first | rfl | simp [OwnTag.isMirror] at h

theorem mem_numbered {n : Nat} {reqs : List (Nat × Option WLine × OwnTag)} {r : Nat × Option WLine × OwnTag}
    (h : r ∈ reqs) : ∃ i, (⟨i, r.1, r.2.1, r.2.2⟩ : OwnReq) ∈ numbered n reqs := by
  induction reqs generalizing n with
  | nil => cases h
  | cons a as ih =>
    rcases List.mem_cons.1 h with rfl | h
    · exact ⟨n, List.mem_cons_self⟩
    · obtain ⟨i, m⟩ := ih (n := n + 1) h
      exact ⟨i, List.mem_cons_of_mem _ m⟩

theorem formed_joinGroup (g : Group) (s : State) :
    ∃ u : State, (joinGroup g s).formed = s.mi.own ++ g.reqs.map (fillMirror u) ++ s.mi.waiting.flatMap (·.reqs) := by
  unfold joinGroup State.formed
  split
  · exact ⟨s, rfl⟩
  · exact ⟨setReady s, rfl⟩
  · exact ⟨s, rfl⟩

/-- What was formed stays formed as another group is formed. -/
theorem formGroup_keeps_owes {reqs : List (Nat × Option WLine × OwnTag)} {act : JoinAct} {s : State} {line : Nat}
    {write : Option WLine} {tag : OwnTag} (h : s.owes line write tag) : (formGroup reqs act s).owes line write tag := by
  obtain ⟨r, m, e⟩ := h
  refine ⟨r, ?_, e⟩
  unfold formGroup
  dsimp only
  split
  · obtain ⟨u, k⟩ := formed_joinGroup ⟨numbered s.mi.nextId reqs, act⟩
      { s with mi := { s.mi with nextId := s.mi.nextId + reqs.length } }
    change r ∈ State.formed _
    rw [k]
    rcases List.mem_append.1 m with m | m
    · exact List.mem_append_left _ (List.mem_append_left _ m)
    · exact List.mem_append_right _ m
  · rcases List.mem_append.1 m with m | m
    · exact List.mem_append_left _ m
    · exact List.mem_append_right _ (by simp only [List.flatMap_append]; exact List.mem_append_left _ m)

/-- Each request of a group is owed once the group is formed. -/
theorem formGroup_owes {reqs : List (Nat × Option WLine × OwnTag)} {act : JoinAct} {s : State}
    {r : Nat × Option WLine × OwnTag} (h : r ∈ reqs) (t : r.2.2.isMirror = false) :
    (formGroup reqs act s).owes r.1 r.2.1 r.2.2 := by
  obtain ⟨i, m⟩ := mem_numbered (n := s.mi.nextId) h
  refine ⟨⟨i, r.1, r.2.1, r.2.2⟩, ?_, rfl, rfl, rfl⟩
  unfold formGroup
  dsimp only
  split
  · obtain ⟨u, k⟩ := formed_joinGroup ⟨numbered s.mi.nextId reqs, act⟩
      { s with mi := { s.mi with nextId := s.mi.nextId + reqs.length } }
    change _ ∈ State.formed _
    rw [k]
    refine List.mem_append_left _ (List.mem_append_right _ ?_)
    exact List.mem_map.2 ⟨_, m, fillMirror_other u _ t⟩
  · exact List.mem_append_right _ (by simp only [List.flatMap_append]; exact List.mem_append_right _ (by simpa using m))

/-- A group formed follows all that was formed before it; a mirror line takes its content as it joins. -/
theorem formGroup_appends (reqs : List (Nat × Option WLine × OwnTag)) (act : JoinAct) (s : State) :
    ∃ f : OwnReq → OwnReq, (∀ r : OwnReq, r.tag.isMirror = false → f r = r) ∧
      (formGroup reqs act s).formed = s.formed ++ (numbered s.mi.nextId reqs).map f := by
  unfold formGroup
  dsimp only
  split
  · next h =>
    obtain ⟨u, k⟩ := formed_joinGroup ⟨numbered s.mi.nextId reqs, act⟩
      { s with mi := { s.mi with nextId := s.mi.nextId + reqs.length } }
    refine ⟨fillMirror u, fun r => fillMirror_other u r, ?_⟩
    have e : s.mi.waiting = [] := by simpa using And.left (by simpa using h)
    rw [k]
    simp [State.formed, e]
  · exact ⟨id, fun _ _ => rfl, by simp [State.formed]⟩

theorem numbered_triples (n : Nat) (reqs : List (Nat × Option WLine × OwnTag)) :
    (numbered n reqs).map (fun r => (r.line, r.write, r.tag)) = reqs := by
  induction reqs generalizing n with
  | nil => rfl
  | cons r rs ih => simp [numbered, ih]

/-- A group that writes no mirror line is owed as a run. -/
theorem formGroup_owesRun {reqs : List (Nat × Option WLine × OwnTag)} {act : JoinAct} {s : State}
    (h : ∀ r ∈ reqs, r.2.2.isMirror = false) : (formGroup reqs act s).owesRun reqs := by
  obtain ⟨f, k, e⟩ := formGroup_appends reqs act s
  have same : (numbered s.mi.nextId reqs).map f = numbered s.mi.nextId reqs := by
    refine (List.map_congr_left fun r m => k r ?_).trans (List.map_id _)
    have t := List.mem_map_of_mem (f := fun r : OwnReq => (r.line, r.write, r.tag)) m
    rw [numbered_triples] at t
    exact h _ t
  change reqs <:+: (State.formed _).map _
  rw [e, same, List.map_append, numbered_triples]
  exact (List.suffix_append _ _).isInfix

/-- What is owed as a run stays so as another group is formed. -/
theorem formGroup_keeps_owesRun {reqs run : List (Nat × Option WLine × OwnTag)} {act : JoinAct} {s : State}
    (h : s.owesRun run) : (formGroup reqs act s).owesRun run := by
  obtain ⟨f, -, e⟩ := formGroup_appends reqs act s
  change run <:+: (State.formed _).map _
  rw [e, List.map_append]
  exact List.IsInfix.trans h (List.prefix_append _ _).isInfix

theorem flush_keeps_owesRun {s : State} {run : List (Nat × Option WLine × OwnTag)} (h : s.owesRun run) :
    (flush s).owesRun run := by
  unfold flush
  split
  · dsimp only
    split
    · exact h
    · exact formGroup_keeps_owesRun (s := { s with cmd := { s.cmd with changes := [] } }) h
  · exact h

theorem flush_keeps_owes {s : State} {line : Nat} {write : Option WLine} {tag : OwnTag} (h : s.owes line write tag) :
    (flush s).owes line write tag := by
  unfold flush
  split
  · dsimp only
    split
    · exact h
    · exact formGroup_keeps_owes (s := { s with cmd := { s.cmd with changes := [] } }) h
  · exact h

/-! ## Completions -/

@[simp] theorem flush_mi_windows (s : State) : (flush s).mi.windows = s.mi.windows := by
  have h := congrArg (fun u : State => u.mi.windows) (flush_outside s)
  exact h

@[simp] theorem complete_mi_windows (b : BlockNo) (e : ErrorCode) (n : Nat) (results : List (Nat × List Byte)) (s : State) :
    (complete b e n results s).mi.windows = s.mi.windows := by
  have h := congrArg (fun u : State => u.mi.windows) (complete_outside b e n results s)
  exact h

/-- CMD's fields that a group of own requests with an act other than ready can change only by raising COMMAND_DONE. -/
theorem formGroup_done_cmd (reqs : List (Nat × Option WLine × OwnTag)) (act : JoinAct) (s : State) (h : act ≠ .ready) :
    (formGroup reqs act s).cmd.blocks = s.cmd.blocks ∧ (formGroup reqs act s).cmd.enables = s.cmd.enables ∧
    (formGroup reqs act s).cmd.pending = s.cmd.pending ∧ (formGroup reqs act s).cmd.exec = s.cmd.exec ∧
    (formGroup reqs act s).cmd.runNo = s.cmd.runNo ∧ (formGroup reqs act s).cmd.save = s.cmd.save ∧
    ((formGroup reqs act s).cmd.causes = s.cmd.causes ∨
      (formGroup reqs act s).cmd.causes = s.cmd.causes ||| Cause.commandDone.bit) := by
  unfold formGroup
  dsimp only
  split
  · unfold joinGroup
    dsimp only
    split
    · obtain ⟨h1, h2, h3, h4, h5, h6, h7⟩ := raise_cmd .commandDone (pushGroup ⟨numbered s.mi.nextId reqs, .commandDone⟩
        { s with mi := { s.mi with nextId := s.mi.nextId + reqs.length } })
      exact ⟨h1, h2, h3, h4, h5, h6, .inr h7⟩
    · exact absurd rfl h
    · exact ⟨rfl, rfl, rfl, rfl, rfl, rfl, .inl rfl⟩
  · exact ⟨rfl, rfl, rfl, rfl, rfl, rfl, .inl rfl⟩

/-- What ending a command does at CMD: the block is CLOSING with the error and the count, the other blocks stand, and
at most COMMAND_DONE is raised. -/
theorem complete_cmd (b : BlockNo) (e : ErrorCode) (n : Nat) (results : List (Nat × List Byte)) (s : State) :
    (complete b e n results s).cmd.blocks =
      updAt s.cmd.blocks b (fun x => { x with state := .closing, error := e, remaining := n }) ∧
    (complete b e n results s).cmd.enables = s.cmd.enables ∧ (complete b e n results s).cmd.pending = s.cmd.pending ∧
    (complete b e n results s).cmd.exec = s.cmd.exec ∧ (complete b e n results s).cmd.runNo = s.cmd.runNo ∧
    (complete b e n results s).cmd.save = s.cmd.save ∧ s.raisedNothing (complete b e n results s) := by
  unfold complete State.raisedNothing
  dsimp only
  have act : (if notifies (flush s).cmd.blocks[b].copy = true then JoinAct.commandDone else .nothing) ≠ .ready := by
    split <;> decide
  obtain ⟨h1, h2, h3, h4, h5, h6, h7⟩ := formGroup_done_cmd
    [((flush s).blockLine b,
      some (partLine (statusBytes e (flush s).cmd.blocks[b].overrun n ++ results)), .completion b)] _
    ((flush s).updBlock b (fun x => { x with state := .closing, error := e, remaining := n })) act
  refine ⟨?_, ?_, ?_, ?_, ?_, ?_, ?_⟩
  · rw [h1]; simp [flush_blocks]
  · rw [h2]; simp [flush_enables]
  · rw [h3]; simp [flush_pending]
  · rw [h4]; simp [flush_exec]
  · rw [h5]; simp [flush_runNo]
  · rw [h6]; simp [flush_save]
  · simpa [flush_causes] using h7

theorem blockLine_flush (b : BlockNo) (s : State) : (flush s).blockLine b = s.blockLine b := by
  simp [State.blockLine, State.controlLine]

/-- The completion write is owed once a command has ended. -/
theorem complete_owes (b : BlockNo) (e : ErrorCode) (n : Nat) (results : List (Nat × List Byte)) (s : State) :
    (complete b e n results s).owes (s.blockLine b)
      (some (partLine (statusBytes e s.cmd.blocks[b].overrun n ++ results))) (.completion b) := by
  unfold complete
  dsimp only
  rw [blockLine_flush, flush_blocks]
  exact formGroup_owes (r := (s.blockLine b,
      some (partLine (statusBytes e s.cmd.blocks[b].overrun n ++ results)), .completion b))
    List.mem_cons_self rfl

/-- The state in which CMD carries out the command it has taken from a block. -/
def State.taken (s : State) (b : BlockNo) (rest : List BlockNo) : State :=
  { s with out := [], cmd := { s.cmd with pending := rest } }.updBlock b (fun x => { x with state := .executing })

/-- A command CMD can take is carried out on the state with its block EXECUTING. -/
theorem command_takes {s : State} {b : BlockNo} {rest : List BlockNo} {code : Nat} {p : List Byte}
    (h : s.Takes b rest code p) (codes : Nat → Bool) (hc : codes code = true)
    (body : BlockNo → List Byte → State → State) :
    run (command codes body) s = .next (flush (body b s.cmd.blocks[b].copy (s.taken b rest))) := by
  unfold run command
  have r : ({ s with out := [] } : State).isReady = true := h.ready
  have x : ({ s with out := [] } : State).cmd.exec.isNone = true := by simp [h.free]
  have k : codes (byteAt s.cmd.blocks[b].copy 0) = true := by rw [h.coded]; exact hc
  simp only [r, x, Bool.and_self, if_true, h.front]
  simp only [k, if_true]
  rfl

/-- A command that completes as soon as it is applied. -/
theorem immediate_takes {s : State} {b : BlockNo} {rest : List BlockNo} {code : Nat} {p : List Byte}
    (h : s.Takes b rest code p) (apply : List Byte → State → Applied) :
    run (immediate code apply) s = .next (flush (complete b (apply p (s.taken b rest)).2.1 0
      (apply p (s.taken b rest)).2.2 (apply p (s.taken b rest)).1)) := by
  unfold immediate
  rw [command_takes h _ (by simp), h.params]

/-- The own requests formed before a command's end are kept. -/
theorem complete_keeps_owes {b : BlockNo} {e : ErrorCode} {n : Nat} {results : List (Nat × List Byte)} {s : State}
    {line : Nat} {write : Option WLine} {tag : OwnTag} (h : s.owes line write tag) :
    (complete b e n results s).owes line write tag := by
  unfold complete
  exact formGroup_keeps_owes (s := (flush s).updBlock b _) (flush_keeps_owes h)

/-- A command that has ended on a state whose CMD is still that of its taking is Done. -/
theorem complete_done {s u : State} {b : BlockNo} {rest : List BlockNo} (e : ErrorCode) (results : List (Nat × List Byte))
    (hb : u.cmd.blocks = (s.taken b rest).cmd.blocks) (hp : u.cmd.pending = rest) (hx : u.cmd.exec = none)
    (hn : u.cmd.enables = s.cmd.enables) (hs : u.cmd.save = s.cmd.save) (hr : u.cmd.runNo = s.cmd.runNo)
    (hw : u.mi.windows[14].base = s.mi.windows[14].base)
    (hk : ∀ line w tag, s.owes line w tag → u.owes line w tag) :
    s.Done (flush (complete b e 0 results u)) b rest e results := by
  obtain ⟨h1, h2, h3, h4, h5, h6, h7⟩ := complete_cmd b e 0 results u
  have ht : (s.taken b rest).cmd.blocks = updAt s.cmd.blocks b (fun x => { x with state := .executing }) := rfl
  have line : u.blockLine b = s.blockLine b := by simp only [State.blockLine, State.controlLine, hw]
  have own := complete_owes b e 0 results u
  rw [line, hb, ht] at own
  refine ⟨⟨?_, ?_, ?_, ?_, ?_, ?_⟩, ?_, ?_, ?_, ?_, ?_⟩
  · rw [flush_blocks, h1]; simp
  · rw [flush_blocks, h1]; simp
  · rw [flush_blocks, h1]; simp
  · intro c hc
    rw [flush_blocks, h1, hb, ht]
    simp [updAt_other, hc]
  · refine flush_keeps_owes ?_
    simpa using own
  · exact fun l w g h => flush_keeps_owes (complete_keeps_owes (hk l w g h))
  · rw [flush_pending, h3, hp]
  · rw [flush_exec, h4, hx]
  · rw [flush_enables, h2, hn]
  · rw [flush_save, h6, hs]
  · rw [flush_runNo, h5, hr]

/-- A refused command changes nothing. -/
theorem complete_refuses {s : State} {b : BlockNo} {rest : List BlockNo} {code : Nat} {p : List Byte}
    (h : s.Takes b rest code p) (e : ErrorCode) :
    s.Refuses (flush (complete b e 0 [] (s.taken b rest))) b rest e := by
  obtain ⟨h1, h2, h3, h4, h5, h6, h7⟩ := complete_cmd b e 0 [] (s.taken b rest)
  refine ⟨complete_done e [] rfl rfl h.free rfl rfl rfl rfl (fun _ _ _ => id), ?_, ?_⟩
  · rw [flush_outside, complete_outside]; rfl
  · unfold State.raisedNothing at h7 ⊢
    rw [flush_causes]
    exact h7

end Sys2Proof.Machine
end

