-- ==== Sys2Proof/Laws/Sending.lean ====
section
/-! SUPPORT. What sending, and the changes of paths and routes that follow from it, leave: said once for each shared
operation of the Capture Unit, the Port Transmitters, the Path Monitor and the Route Selector. -/

namespace Sys2Proof.Machine

/-- What an operation that only sends leaves: all outside the ports, the paths, the routes and the records; at CMD
all but causes added; and every own request formed. -/
structure Sends (s t : State) : Prop where
  outside : t.outsideSending = s.outsideSending
  blocks : t.cmd.blocks = s.cmd.blocks
  pending : t.cmd.pending = s.cmd.pending
  enables : t.cmd.enables = s.cmd.enables
  save : t.cmd.save = s.cmd.save
  runNo : t.cmd.runNo = s.cmd.runNo
  exec : s.cmd.exec = none → t.cmd.exec = none
  causes : ∀ c, s.hasCause c → t.hasCause c
  owes : ∀ l w g, s.owes l w g → t.owes l w g

namespace Sends

theorem refl (s : State) : Sends s s := ⟨rfl, rfl, rfl, rfl, rfl, rfl, id, fun _ => id, fun _ _ _ => id⟩

theorem trans {s t u : State} (h : Sends s t) (k : Sends t u) : Sends s u where
  outside := k.outside.trans h.outside
  blocks := k.blocks.trans h.blocks
  pending := k.pending.trans h.pending
  enables := k.enables.trans h.enables
  save := k.save.trans h.save
  runNo := k.runNo.trans h.runNo
  exec := fun e => k.exec (h.exec e)
  causes := fun c e => k.causes c (h.causes c e)
  owes := fun l w g e => k.owes l w g (h.owes l w g e)

/-- A change of the ports, the paths, the routes or the records alone. -/
theorem of_cmd {s t : State} (ho : t.outsideSending = s.outsideSending) (hc : t.cmd = s.cmd)
    (hm : t.mi.own = s.mi.own ∧ t.mi.waiting = s.mi.waiting) : Sends s t where
  outside := ho
  blocks := by rw [hc]
  pending := by rw [hc]
  enables := by rw [hc]
  save := by rw [hc]
  runNo := by rw [hc]
  exec := by rw [hc]; exact id
  causes := by intro c; unfold State.hasCause; rw [hc]; exact id
  owes := by intro l w g; unfold State.owes; rw [hm.1, hm.2]; exact id

/-- A fold of such operations. -/
theorem overAll {α : Type} (l : List α) (f : α → State → State) (h : ∀ a s, Sends s (f a s)) (s : State) :
    Sends s (overAll l f s) :=
  overAll_induct (Sends s) l f (fun a _ u hu => hu.trans (h a u)) s (refl s)

end Sends

/-- The state outside sending depends only on the state outside CMD and the queue. -/
theorem outsideSending_of_outside {s t : State} (h : t.outside = s.outside) : t.outsideSending = s.outsideSending := by
  unfold State.outsideSending
  rw [h]

/-! ## A displaced message placed again changes its route's counters alone (R76) -/

@[simp] theorem RouteRec.rerouted_cands (b : Bool) (r : RouteRec) : (r.rerouted b).cands = r.cands := rfl
@[simp] theorem RouteRec.rerouted_dual (b : Bool) (r : RouteRec) : (r.rerouted b).dual = r.dual := rfl
@[simp] theorem RouteRec.rerouted_hyst (b : Bool) (r : RouteRec) : (r.rerouted b).hyst = r.hyst := rfl
@[simp] theorem RouteRec.rerouted_current (b : Bool) (r : RouteRec) : (r.rerouted b).current = r.current := rfl
@[simp] theorem RouteRec.rerouted_live (b : Bool) (r : RouteRec) : (r.rerouted b).live = r.live := rfl
@[simp] theorem RouteRec.rerouted_nextUrgent (b : Bool) (r : RouteRec) : (r.rerouted b).nextUrgent = r.nextUrgent := rfl
@[simp] theorem RouteRec.rerouted_nextBulk (b : Bool) (r : RouteRec) : (r.rerouted b).nextBulk = r.nextBulk := rfl

/-! ## CMD and the queue -/

theorem raise_sends (c : Cause) (s : State) : Sends s (raise c s) := by
  obtain ⟨h1, h2, h3, h4, h5, h6, h7⟩ := raise_cmd c s
  exact ⟨outsideSending_of_outside rfl, h1, h3, h2, h6, h5, fun e => h4.trans e, fun _ h => raise_keeps h,
    fun _ _ _ h => h⟩

theorem markStale_sends (m : Mirror) (s : State) : Sends s (markStale m s) := by
  cases m <;> exact ⟨rfl, rfl, rfl, rfl, rfl, rfl, id, fun _ => id, fun _ _ _ => id⟩

theorem formGroup_sends (reqs : List (Nat × Option WLine × OwnTag)) (s : State) :
    Sends s (formGroup reqs .nothing s) := by
  obtain ⟨h1, h2, h3, h4, h5, h6, -⟩ := formGroup_done_cmd reqs .nothing s (by decide)
  have hc : (formGroup reqs .nothing s).cmd.causes = s.cmd.causes := fresh_causes (formGroup_cmd reqs s)
  refine ⟨outsideSending_of_outside (formGroup_outside _ _ _ (by decide)), h1, h3, h2, h6, h5, fun e => h4.trans e, ?_,
    fun _ _ _ => formGroup_keeps_owes⟩
  intro c h
  unfold State.hasCause at h ⊢
  rwa [hc]

theorem flush_sends (s : State) : Sends s (flush s) where
  outside := outsideSending_of_outside (flush_outside s)
  blocks := flush_blocks s
  pending := flush_pending s
  enables := flush_enables s
  save := flush_save s
  runNo := flush_runNo s
  exec := fun e => (flush_exec s).trans e
  causes := by intro c h; unfold State.hasCause at h ⊢; rwa [flush_causes]
  owes := fun _ _ _ => flush_keeps_owes

/-! ## One object -/

theorem updPath_sends (p : PathNo) (f : PathRec → PathRec) (s : State) : Sends s (s.updPath p f) :=
  .of_cmd rfl rfl ⟨rfl, rfl⟩

theorem updTx_sends (k : PortNo) (f : Transmitter → Transmitter) (s : State) : Sends s (s.updTx k f) :=
  .of_cmd rfl rfl ⟨rfl, rfl⟩

theorem updRoute_sends (r : Site) (f : RouteRec → RouteRec) (s : State) : Sends s (s.updRoute r f) :=
  .of_cmd rfl rfl ⟨rfl, rfl⟩

theorem updRecord_sends (hdr : Nat) (f : Record → Record) (s : State) : Sends s (s.updRecord hdr f) :=
  .of_cmd rfl rfl ⟨rfl, rfl⟩

theorem emit_sends (e : OutEvent) (s : State) : Sends s (s.emit e) := .of_cmd rfl rfl ⟨rfl, rfl⟩

/-! ## Records (R105 to R107) -/

theorem closeRecord_sends (r : Record) (s : State) : Sends s (closeRecord r s) :=
  (updRecord_sends _ _ s).trans (formGroup_sends _ _)

theorem closeIfSettled_sends (hdr : Nat) (s : State) : Sends s (closeIfSettled hdr s) := by
  unfold closeIfSettled
  split
  · split
    · exact closeRecord_sends _ s
    · exact .refl s
  · exact .refl s

theorem reportDest_sends (hdr : Nat) (site : Site) (f : Dest → Dest) (s : State) : Sends s (reportDest hdr site f s) := by
  unfold reportDest
  split
  · split
    · exact .refl s
    · exact (updRecord_sends _ _ s).trans (closeIfSettled_sends _ _)
  · exact .refl s

theorem reportStart_sends (m : Msg) (stamp : Stamp) (s : State) : Sends s (reportStart m stamp s) := by
  unfold reportStart
  split
  · split
    · exact .refl s
    · exact (updRecord_sends _ _ s).trans (formGroup_sends _ _)
  · exact .refl s

/-! ## The line (R116 to R121) -/

theorem testStarted_sends (k : PortNo) (run : Byte) (i : Nat) (s : State) : Sends s (testStarted k run i s) := by
  unfold testStarted
  split
  · next h =>
    dsimp only
    split
    · refine ⟨rfl, rfl, rfl, rfl, rfl, rfl, ?_, fun _ => id, fun _ _ _ => id⟩
      intro e
      rw [e] at h
      cases h
    · exact .refl s
  · exact .refl s

theorem startItem_sends (k : PortNo) (item : LineItem) (s : State) : Sends s (startItem k item s) := by
  unfold startItem
  dsimp only
  have h := fun (e : OutEvent) (f : Transmitter → Transmitter) => (emit_sends e s).trans (updTx_sends k f _)
  split
  · exact h _ _
  · exact (h _ _).trans (updPath_sends _ _ _)
  · exact (h _ _).trans (reportStart_sends _ _ _)
  · exact (h _ _).trans (testStarted_sends _ _ _ _)
  · exact (h _ _).trans (.overAll _ _ (fun m u => reportStart_sends m _ u) _)

theorem startFragment_sends (k : PortNo) (c : BulkContext) (s : State) : Sends s (startFragment k c s) :=
  (updTx_sends k _ s).trans (startItem_sends k _ _)

theorem resume_sends (k : PortNo) (c : BulkContext) (s : State) : Sends s (resume k c s) := startFragment_sends k _ s

theorem startBulk_sends (k : PortNo) (f : BulkFrame) (s : State) : Sends s (startBulk k f s) :=
  (updTx_sends k _ s).trans (startFragment_sends k _ _)

theorem holdoffOrResume_sends (k : PortNo) (c : BulkContext) (s : State) : Sends s (holdoffOrResume k c s) := by
  unfold holdoffOrResume
  split
  · exact resume_sends k c s
  · split
    · exact .refl s
    · exact updTx_sends k _ s

theorem lineChoice_sends (k : PortNo) (s : State) : Sends s (lineChoice k s) := by
  unfold lineChoice
  split
  · exact .refl s
  · dsimp only
    split
    · exact (updTx_sends k _ s).trans (startItem_sends k _ _)
    · exact (updTx_sends k _ s).trans (startItem_sends k _ _)
    · exact (updTx_sends k _ s).trans (startItem_sends k _ _)
    · exact (updTx_sends k _ s).trans (startItem_sends k _ _)
    · split
      · split
        · exact holdoffOrResume_sends k _ s
        · exact startFragment_sends k _ s
      · exact startBulk_sends k _ s
      · exact updTx_sends k _ s

/-- Where the line is not free, nothing starts (R116). -/
theorem lineChoice_busy {k : PortNo} {s : State} (h : lineFree k s = false) : lineChoice k s = s := by
  simp [lineChoice, h]

theorem fragmentBoundary_sends (k : PortNo) (c : BulkContext) (s : State) : Sends s (fragmentBoundary k c s) := by
  unfold fragmentBoundary
  dsimp only
  split
  · exact startFragment_sends k c s
  · split
    · exact (updTx_sends k _ s).trans (startFragment_sends k c _)
    · exact (updTx_sends k _ s).trans (lineChoice_sends k _)

theorem fragmentDone_sends (k : PortNo) (f : BulkFrame) (i : Nat) (abandoned : Bool) (s : State) :
    Sends s (fragmentDone k f i abandoned s) := by
  unfold fragmentDone
  dsimp only
  refine Sends.trans (t := clearLine k s) (updTx_sends k _ s) ?_
  split
  · exact lineChoice_sends k _
  · split
    · exact ((updTx_sends k _ _).trans (.overAll _ _ (fun m u => reportDest_sends _ _ _ u) _)).trans (lineChoice_sends k _)
    · split
      · exact fragmentBoundary_sends k _ _
      · exact lineChoice_sends k _

/-! ## Displacement (R123, R125) -/

theorem displace_sends (k : PortNo) (removed : List Msg) (s : State) : Sends s (displace k removed s) := by
  unfold displace
  dsimp only
  have h := fun (f : Transmitter → Transmitter) (l : List Msg) => (updTx_sends k f s).trans
    (.overAll l reportDropped (fun m u => reportDest_sends m.slot m.site Dest.dualDropped u) _)
  split
  · exact h _ _
  · exact (h _ _).trans (.of_cmd rfl rfl ⟨rfl, rfl⟩)

theorem departPath_sends (p : PathNo) (s : State) : Sends s (departPath p s) :=
  ((updTx_sends _ _ s).trans (displace_sends _ _ _)).trans (lineChoice_sends _ _)

theorem linkLostTx_sends (k : PortNo) (s : State) : Sends s (linkLostTx k s) := by
  unfold linkLostTx
  dsimp only
  split
  · exact ((emit_sends _ s).trans (updTx_sends k _ _)).trans (displace_sends k _ _)
  · exact (updTx_sends k _ _).trans (displace_sends k _ _)

/-! ## Paths and routes (R42 to R48, R65) -/

theorem evalRoute_sends (site : Site) (s : State) : Sends s (evalRoute site s) := by
  unfold evalRoute
  dsimp only
  split
  · exact .refl s
  · exact ((updRoute_sends site _ s).trans (markStale_sends _ _)).trans (raise_sends _ _)

theorem evalRoutesOf_sends (p : PathNo) (s : State) : Sends s (evalRoutesOf p s) := by
  refine .overAll _ _ (fun site u => ?_) s
  split
  · exact evalRoute_sends site u
  · exact .refl u

theorem notifyPath_sends (wasUp : Bool) (p : PathNo) (s : State) : Sends s (notifyPath wasUp p s) := by
  unfold notifyPath
  dsimp only
  have h := ((markStale_sends .summary s).trans (raise_sends .pathChange _)).trans (evalRoutesOf_sends p _)
  split
  · exact h.trans (departPath_sends p _)
  · exact h

/-- A path's state change raises PATH_CHANGE (R44). -/
theorem notifyPath_raises (wasUp : Bool) (p : PathNo) (s : State) : (notifyPath wasUp p s).hasCause .pathChange := by
  unfold notifyPath
  dsimp only
  have h := (evalRoutesOf_sends p _).causes _ (raise_hasCause .pathChange (markStale .summary s))
  split
  · exact (departPath_sends p _).causes _ h
  · exact h

theorem placeProbe_sends (p : PathNo) (s : State) : Sends s (placeProbe p s) := by
  unfold placeProbe
  dsimp only
  split
  · exact (((updPath_sends p _ s).trans (updPath_sends _ _ _)).trans (updTx_sends _ _ _)).trans (lineChoice_sends _ _)
  · exact ((updPath_sends p _ s).trans (updTx_sends _ _ _)).trans (lineChoice_sends _ _)

theorem enterProbing_sends (p : PathNo) (s : State) : Sends s (enterProbing p s) := by
  unfold enterProbing
  dsimp only
  exact (((updPath_sends p _ s).trans (placeProbe_sends p _)).trans (updPath_sends p _ _)).trans (notifyPath_sends _ p _)

theorem evalDown_sends (p : PathNo) (s : State) : Sends s (evalDown p s) := by
  unfold evalDown
  split
  · exact enterProbing_sends p s
  · exact .refl s

theorem withdrawProbe_sends (p : PathNo) (s : State) : Sends s (withdrawProbe p s) := updTx_sends _ _ s

theorem pathDown_sends (p : PathNo) (s : State) : Sends s (pathDown p s) := by
  unfold pathDown
  dsimp only
  split
  · exact (((updPath_sends p _ s).trans (withdrawProbe_sends p _)).trans (notifyPath_sends _ p _)).trans
      (evalDown_sends p _)
  · exact .refl s

theorem recompute_sends (p : PathNo) (s : State) : Sends s (recompute p s) := updPath_sends p _ s

theorem recomputePort_sends (k : PortNo) (s : State) : Sends s (recomputePort k s) := by
  refine .overAll _ _ (fun p u => ?_) s
  split
  · exact recompute_sends p u
  · exact .refl u

theorem pathNotice_sends (st : HopState) (p : PathNo) (s : State) : Sends s (pathNotice st p s) := by
  unfold pathNotice
  dsimp only
  refine Sends.trans (recompute_sends p s) ?_
  split
  · exact .refl _
  · exact evalDown_sends p _
  · split
    · exact pathDown_sends p _
    · split
      · exact .refl _
      · exact updPath_sends p _ _

theorem hopNotice_sends (h : HopNo) (s : State) : Sends s (hopNotice h s) := by
  unfold hopNotice
  split
  · refine .overAll _ _ (fun p u => ?_) s
    split
    · exact pathNotice_sends _ p u
    · exact .refl u
  · exact .refl s

theorem evalPort_sends (k : PortNo) (s : State) : Sends s (evalPort k s) := by
  refine .overAll _ _ (fun p u => ?_) s
  split
  · exact evalDown_sends p u
  · exact .refl u

theorem downPort_sends (k : PortNo) (s : State) : Sends s (downPort k s) := by
  refine .overAll _ _ (fun p u => ?_) s
  split
  · exact pathDown_sends p u
  · exact .refl u

/-! ## Selection (R68 to R73) -/

theorem answerDest_sends (hdr : Nat) (site : Site) (d : Dest) (s : State) : Sends s (answerDest hdr site d s) :=
  (updRecord_sends hdr _ s).trans (closeIfSettled_sends hdr _)

theorem refuseSelection_sends (hdr : Nat) (site : Site) (o : DestOutcome) (s : State) :
    Sends s (refuseSelection hdr site o s) :=
  (updRoute_sends site _ s).trans (answerDest_sends hdr site _ _)

theorem dualCopy_sends (m : Msg) (force : Bool) (ranked : List PathNo) (s : State) :
    Sends s (dualCopy m force ranked s).1 := by
  unfold dualCopy
  split
  · split
    · split
      · exact (updRoute_sends _ _ s).trans (updTx_sends _ _ _)
      · exact .refl s
    · exact .refl s
  · exact .refl s

theorem selectDest_sends (r : Record) (site : Site) (s : State) : Sends s (selectDest r site s) := by
  unfold selectDest
  split
  · exact refuseSelection_sends _ _ _ s
  · dsimp only
    split
    · exact refuseSelection_sends _ _ _ s
    · have c := fun p => (updRoute_sends site
        (fun r => if r.current = some p then r
          else { r with current := some p, counters := { r.counters with switches := r.counters.switches + 1 } }) s)
      split
      · exact (c _).trans (refuseSelection_sends _ _ _ _)
      · have a := fun (m : Msg) (u : State) (fb : Bool) => (Sends.of_cmd (s := u) (t := advanceRoute site r.cls fb u)
          rfl rfl ⟨rfl, rfl⟩).trans (updTx_sends (advanceRoute site r.cls fb u).paths[m.path].port (Transmitter.place m) _)
        split
        · exact ((((c _).trans (a _ _ _)).trans (dualCopy_sends _ r.force _ _)).trans
            (answerDest_sends r.hdr site _ _)).trans ((lineChoice_sends _ _).trans (lineChoice_sends _ _))
        · exact ((((c _).trans (a _ _ _)).trans (dualCopy_sends _ r.force _ _)).trans
            (answerDest_sends r.hdr site _ _)).trans (lineChoice_sends _ _)

theorem reselect_sends (m : Msg) (s : State) : Sends s (reselect m s) := by
  unfold reselect
  dsimp only
  split
  · exact (((updRoute_sends _ _ s).trans (updTx_sends _ _ _)).trans (reportDest_sends _ _ _ _)).trans
      (lineChoice_sends _ _)
  · exact (updRoute_sends _ _ s).trans (reportDest_sends _ _ _ _)

end Sys2Proof.Machine
end

