-- ==== Sys2Proof/Laws/Merging.lean ====
section
/-! SUPPORT. What the Receive Merge Unit's operations leave: said once for each operation on a receive ring and for
the judging of a message. -/

namespace Sys2Proof.Machine

/-- What an operation on a site's receive ring leaves: all but that site's ring, CMD's causes and the own requests
formed. -/
structure Records (site : Site) (s t : State) : Prop where
  outside : t.outside = { s with rmu := t.rmu }.outside
  others : ∀ r : Site, r ≠ site → t.rmu[r] = s.rmu[r]
  urgent : t.rmu[site].urgent = s.rmu[site].urgent
  bulk : t.rmu[site].bulk = s.rmu[site].bulk
  blocks : t.cmd.blocks = s.cmd.blocks
  pending : t.cmd.pending = s.cmd.pending
  enables : t.cmd.enables = s.cmd.enables
  exec : t.cmd.exec = s.cmd.exec
  causes : ∀ c, s.hasCause c → t.hasCause c
  owes : ∀ l w g, s.owes l w g → t.owes l w g

/-- The state outside CMD and the queue, its Receive Merge Unit replaced. -/
theorem outside_rmu {s t : State} (h : t.outside = s.outside) (m : Vector RxSite 8) :
    { t with rmu := m }.outside = { s with rmu := m }.outside := by
  have e : ∀ u : State, { u with rmu := m }.outside = { u.outside with rmu := m } := fun _ => rfl
  rw [e, e, h]

namespace Records

variable {site : Site}

theorem refl (s : State) : Records site s s :=
  ⟨rfl, fun _ _ => rfl, rfl, rfl, rfl, rfl, rfl, rfl, fun _ => id, fun _ _ _ => id⟩

theorem trans {s t u : State} (h : Records site s t) (k : Records site t u) : Records site s u where
  outside := k.outside.trans (by
    have e : ∀ v : State, { v with rmu := u.rmu }.outside = { v.outside with rmu := u.rmu } := fun _ => rfl
    rw [e, e, h.outside]; rfl)
  others := fun r hr => (k.others r hr).trans (h.others r hr)
  urgent := k.urgent.trans h.urgent
  bulk := k.bulk.trans h.bulk
  blocks := k.blocks.trans h.blocks
  pending := k.pending.trans h.pending
  enables := k.enables.trans h.enables
  exec := k.exec.trans h.exec
  causes := fun c e => k.causes c (h.causes c e)
  owes := fun l w g e => k.owes l w g (h.owes l w g e)

/-- A ring changed alone. -/
theorem of_ring (site : Site) (f : RxRing → RxRing) (s : State) :
    Records site s (s.updSite site (fun x => { x with ring := f x.ring })) where
  outside := rfl
  others := fun _ hr => updAt_other _ _ _ _ hr
  urgent := by simp
  bulk := by simp
  blocks := rfl
  pending := rfl
  enables := rfl
  exec := rfl
  causes := fun _ => id
  owes := fun _ _ _ => id

/-- An operation that leaves all but CMD's causes and the own requests. -/
theorem of_outside {s t : State} (ho : t.outside = s.outside) (hb : t.cmd.blocks = s.cmd.blocks)
    (hp : t.cmd.pending = s.cmd.pending) (he : t.cmd.enables = s.cmd.enables) (hx : t.cmd.exec = s.cmd.exec)
    (hc : ∀ c, s.hasCause c → t.hasCause c) (hw : ∀ l w g, s.owes l w g → t.owes l w g) : Records site s t := by
  have hr : t.rmu = s.rmu := congrArg (fun u : State => u.rmu) (a₁ := t.outside) (a₂ := s.outside) ho
  refine ⟨?_, fun _ _ => by rw [hr], by rw [hr], by rw [hr], hb, hp, he, hx, hc, hw⟩
  rw [hr]; exact ho

theorem overAll {α : Type} (l : List α) (f : α → State → State) (h : ∀ a s, Records site s (f a s)) (s : State) :
    Records site s (overAll l f s) :=
  overAll_induct (Records site s) l f (fun a _ u hu => hu.trans (h a u)) s (refl s)

end Records

theorem raise_records (site : Site) (c : Cause) (s : State) : Records site s (raise c s) := by
  obtain ⟨h1, h2, h3, h4, -, -, -⟩ := raise_cmd c s
  exact .of_outside rfl h1 h3 h2 h4 (fun _ h => raise_keeps h) (fun _ _ _ h => h)

theorem formGroup_records (site : Site) (reqs : List (Nat × Option WLine × OwnTag)) (s : State) :
    Records site s (formGroup reqs .nothing s) := by
  obtain ⟨h1, h2, h3, h4, -, -, -⟩ := formGroup_done_cmd reqs .nothing s (by decide)
  refine .of_outside (formGroup_outside _ _ _ (by decide)) h1 h3 h2 h4 ?_ (fun _ _ _ => formGroup_keeps_owes)
  intro c h
  unfold State.hasCause at h ⊢
  rwa [fresh_causes (formGroup_cmd reqs s)]

/-- A slot written (R145). -/
theorem writeSlot_records (site : Site) (a b : List Byte) (s : State) : Records site s (writeSlot site a b s) := by
  unfold writeSlot
  dsimp only
  split
  · exact (Records.of_ring site (fun _ => _) s).trans (formGroup_records site _ _)
  · exact .refl s

/-- The producer's advance, as the statements say it (R142). -/
theorem advance_eq_after (n : Nat) (r : RxRing) : r.advance n = r.after n := by
  unfold RxRing.advance RxRing.after
  split <;> rfl

/-- A slot written to a present ring: its three writes are owed as a run, and the producer has advanced (R145). -/
theorem writeSlot_present {site : Site} {a b : List Byte} {s : State} {base n : Nat}
    (h : s.rmu[site].ring.place = some (base, n)) :
    (writeSlot site a b s).rmu[site].ring = s.rmu[site].ring.after n ∧
    (writeSlot site a b s).owesRun
      [(base + 2 + 2 * s.rmu[site].ring.producer + 1, some (b.map some), .receiveSlot),
       (base + 2 + 2 * s.rmu[site].ring.producer, some ((putAt a 0 [lapCode s.rmu[site].ring.lap]).map some),
        .receiveSlot),
       (base, some (partLine [(0, leBytes 4 (s.rmu[site].ring.after n).producer ++
          [lapCode (s.rmu[site].ring.after n).lap])]), .receiveSlot)] := by
  unfold writeSlot
  dsimp only
  rw [h]
  dsimp only
  rw [advance_eq_after]
  refine ⟨?_, formGroup_owesRun (by simp [OwnTag.isMirror])⟩
  have e := congrArg (fun u : State => u.rmu) (formGroup_outside
    [(base + 2 + 2 * s.rmu[site].ring.producer + 1, some (b.map some), OwnTag.receiveSlot),
       (base + 2 + 2 * s.rmu[site].ring.producer, some ((putAt a 0 [lapCode s.rmu[site].ring.lap]).map some),
        .receiveSlot),
       (base, some (partLine [(0, leBytes 4 (s.rmu[site].ring.after n).producer ++
          [lapCode (s.rmu[site].ring.after n).lap])]), .receiveSlot)] .nothing
    (s.updSite site (fun x => { x with ring := s.rmu[site].ring.after n })) (by decide))
  have r : (formGroup _ .nothing (s.updSite site (fun x => { x with ring := s.rmu[site].ring.after n }))).rmu =
    (s.updSite site (fun x => { x with ring := s.rmu[site].ring.after n })).rmu := e
  rw [r]
  simp

/-- A record written as a slot (R145, R154). -/
theorem writeRecord_records (site : Site) (rec : RingRecord) (s : State) :
    Records site s (writeRecord site rec s) :=
  (writeSlot_records site _ _ s).trans (raise_records site _ _)

/-- A record written or made pending (R153). -/
theorem putRecord_records (site : Site) (rec : RingRecord) (s : State) : Records site s (putRecord site rec s) := by
  unfold putRecord
  split
  · exact writeRecord_records site rec s
  · exact (Records.of_ring site (fun x => { x with pending := joinPending rec x.pending }) s).trans
      (raise_records site _ _)

/-- Pending records drained into a ring (R154). -/
theorem drain_records (n : Nat) (site : Site) (s : State) : Records site s (drain n site s) := by
  induction n generalizing s with
  | zero => exact .refl s
  | succ n ih =>
    unfold drain
    split
    · split
      · exact ((Records.of_ring site (fun x => { x with pending := _ }) s).trans (writeRecord_records site _ _)).trans
          (ih _)
      · exact .refl s
    · exact .refl s

/-- A consumer hand-off (R143). -/
theorem consumerHandoff_records (site : Site) (v : Nat) (s : State) : Records site s (consumerHandoff site v s) := by
  unfold consumerHandoff
  split
  · split
    · exact .refl s
    · exact (Records.of_ring site (fun x => { x with consumer := v }) s).trans (drain_records _ _ _)
  · exact .refl s

/-- The runs of one event reported (R152). -/
theorem reportRuns_records (site : Site) (cls : MsgClass) (cause : GapCause) (runs : List Run) (s : State) :
    Records site s (reportRuns site cls cause runs s) :=
  .overAll _ _ (fun _ u => putRecord_records site _ u) s

/-- A ring holds at most 8 pending records, and stays so as a record joins (R153). -/
theorem joinPending_length (rec : RingRecord) (l : List RingRecord) (h : l.length ≤ pendingCapacity) :
    (joinPending rec l).length ≤ pendingCapacity := by
  unfold joinPending
  unfold pendingCapacity at h ⊢
  split
  · have hne : l ≠ [] := by rintro rfl; simp at *
    have := List.length_pos_iff.mpr hne
    split
    · simp; omega
    · split
      · simp; omega
      · simp; omega
  · simp

end Sys2Proof.Machine
end

