-- ==== Sys2Proof/Laws/Placing.lean ====
section
/-! SUPPORT. What placing a message on a port does, in the statements' words: where it has room, what it joins or
opens, that the port then carries it, and when a dual copy is wanted. -/

namespace Sys2Proof.Machine

/-- The newest not-started bulk frame of a path, with the frames on either side of it. -/
theorem Transmitter.lastBulk_eq_some {t : Transmitter} {p : PathNo} {f : BulkFrame} :
    t.lastBulk p = some f ↔
      f.path = p ∧ ∃ ahead behind, t.bulk = ahead ++ f :: behind ∧ ∀ g ∈ behind, g.path ≠ p := by
  simp only [Transmitter.lastBulk, List.find?_eq_some_iff_append, beq_iff_eq, Bool.not_eq_true', beq_eq_false_iff_ne]
  constructor
  · rintro ⟨hp, as, bs, h, ha⟩
    exact ⟨hp, bs.reverse, as.reverse, by simpa using congrArg List.reverse h, fun g hg => ha g (by simpa using hg)⟩
  · rintro ⟨hp, as, bs, h, ha⟩
    exact ⟨hp, bs.reverse, as.reverse, by simp [h], fun g hg => ha g (by simpa using hg)⟩

/-- A message joins a frame exactly where the newest not-started one of its path takes it (R114). -/
theorem Transmitter.joins_iff {t : Transmitter} {p : PathNo} {n : Nat} :
    t.joins p n = true ↔ ∃ ahead f behind, t.LastTakes n ahead f behind ∧ f.path = p := by
  simp only [Transmitter.joins, Option.any_eq_true, Transmitter.lastBulk_eq_some, BulkFrame.takes, decide_eq_true_eq]
  constructor
  · rintro ⟨f, ⟨hp, as, bs, h, hl⟩, hc, ht⟩
    exact ⟨as, f, bs, ⟨h, fun g hg => hp ▸ hl g hg, hc, ht⟩, hp⟩
  · rintro ⟨as, f, bs, ⟨h, hl, hc, ht⟩, hp⟩
    exact ⟨f, ⟨hp, as, bs, h, fun g hg => hp ▸ hl g hg⟩, hc, ht⟩

/-- Room, as the machine tests it and as the statements say it (R69). -/
theorem Transmitter.roomFor_iff {t : Transmitter} {p : PathNo} {cls : MsgClass} {n : Nat} :
    t.roomFor p cls n = true ↔ t.hasRoom p cls n := by
  cases cls
  · exact decide_eq_true_iff
  · exact (Bool.or_eq_true _ _).to_iff.trans ((or_congr Transmitter.joins_iff decide_eq_true_iff).trans or_comm)

/-- The newest frame of the path, behind frames of other paths, takes the message. -/
theorem joinNewest_append {m : Msg} {f : BulkFrame} (behind ahead : List BulkFrame) (h : ∀ g ∈ behind, g.path ≠ m.path)
    (hf : f.path = m.path) :
    joinNewest m (behind ++ f :: ahead) = behind ++ { f with msgs := f.msgs ++ [m] } :: ahead := by
  induction behind with
  | nil => simp [joinNewest, hf]
  | cons g gs ih =>
    simp only [List.cons_append, joinNewest, if_neg (h g (by simp)), ih (fun x hx => h x (by simp [hx]))]

/-- A bulk message joins the newest not-started frame of its path, if that has room, and opens one otherwise
(R69, R114). -/
theorem Transmitter.place_takes {m : Msg} (hb : m.cls = .bulk) (t : Transmitter) : t.TakesBulk (t.place m) m where
  joins as f bs h hp := by
    have hj : t.joins m.path m.payload.length = true := Transmitter.joins_iff.mpr ⟨as, f, bs, h, hp⟩
    simp only [Transmitter.place, hb, hj, if_true, h.queued, List.reverse_append, List.reverse_cons, List.append_assoc,
      List.singleton_append]
    rw [joinNewest_append _ _ (fun g hg => hp ▸ h.last g (by simpa using hg)) hp]
    simp
  opens h := by
    have hj : ¬ t.joins m.path m.payload.length = true := fun c =>
      let ⟨as, f, bs, hl, hp⟩ := Transmitter.joins_iff.mp c
      h as f bs hl hp
    simp [Transmitter.place, hb, hj]

/-- A port carries what is placed on it. -/
theorem Transmitter.place_carries (m : Msg) (t : Transmitter) : (t.place m).carries m := by
  cases hc : m.cls
  · simp [Transmitter.carries, Transmitter.holds, Transmitter.place, hc]
  · have k := Transmitter.place_takes hc t
    simp only [Transmitter.carries, hc]
    by_cases hj : ∃ as f bs, t.LastTakes m.payload.length as f bs ∧ f.path = m.path
    · obtain ⟨as, f, bs, hl, hp⟩ := hj
      exact ⟨{ f with msgs := f.msgs ++ [m] }, .inl (k.joins as f bs hl hp ▸ by simp), hp, by simp⟩
    · exact ⟨⟨m.path, [m]⟩, .inl (by
        rw [k.opens (fun as f bs hl hp => hj ⟨as, f, bs, hl, hp⟩)]; simp), rfl, by simp⟩

/-- A control or urgent frame waits, as the machine tests it and as the statements say it (R118). -/
theorem Transmitter.waits_iff {t : Transmitter} : t.waits = true ↔ t.hasWaiting := by
  simp [Transmitter.waits, Transmitter.hasWaiting, Option.isSome_iff_ne_none, or_assoc]

/-- A probe's start enters it, as the machine and as the statements say it (R49). -/
theorem PathRec.probeStarted_eq (id : Byte) (t1 : Stamp) (now : Nat) (x : PathRec) :
    x.probeStarted id t1 now = x.withProbe id t1 now := by
  by_cases h : 4 ≤ x.outstanding.length <;> simp [PathRec.probeStarted, PathRec.withProbe, h]

/-- A dual copy is wanted, as the machine tests it and as the statements say it (R70). -/
theorem dualWanted_iff {s : State} {site : Site} {p : PathNo} {force : Bool} :
    dualWanted s site p force = true ↔ s.wantsDual site p force := by
  simp [dualWanted, State.wantsDual, or_assoc]

/-- A ring that is absent or full has no room (R142). -/
theorem RxRing.hasRoom_eq_false {r : RxRing} : r.hasRoom = false ↔ r.place = none ∨ r.roomy (· = 0) := by
  unfold RxRing.hasRoom RxRing.roomy
  split <;> rename_i h <;> simp [h]

end Sys2Proof.Machine
end

