-- ==== Sys2Proof/Laws/Starting.lean ====
section
/-! SUPPORT. What SET_WINDOW's checks, SET_HOPS' records and the steps of the start-up order do, in the statements'
words. -/

namespace Sys2Proof.Machine

/-! ## SET_WINDOW's checks -/

theorem otherEntry_iff {s : State} {e : EntryNo} {test : Window → Bool} :
    otherEntry s e test = true ↔
      ∃ i : EntryNo, i ≠ e ∧ s.mi.windows[i].enabled = true ∧ test s.mi.windows[i] = true := by
  simp [otherEntry, and_assoc]

theorem namesToo_iff {s : State} {e : EntryNo} {kind : WinKind} {param : Nat} :
    otherEntry s e (fun x => x.kind == kind && x.param == param) = true ↔ s.namesToo e kind param := by
  simp [otherEntry_iff, State.namesToo]

/-- An entry may be changed exactly where no change of it is refused for its being in use. -/
theorem windowInUse_of_mayChange {s : State} {e : EntryNo} {w : Window} (h : s.mayChange e) :
    windowInUse s.mi.windows[e] w = false := by
  rw [Bool.eq_false_iff]
  intro bad
  simp only [windowInUse, Bool.and_eq_true, Bool.or_eq_true, beq_iff_eq] at bad
  exact bad.1.2.elim (h bad.1.1).1 (h bad.1.1).2

/-- An entry of one of the five kinds fails a BAD_PARAM check exactly as the statements say. -/
theorem windowBad_iff {s : State} {e : EntryNo} {w : Window} {kind : Byte} (he : e ≠ 14)
    (hk : w.kind = WinKind.ofCode kind) (known : kind = 1 ∨ kind = 2 ∨ kind = 3 ∨ kind = 4 ∨ kind = 5) :
    windowBad s e w = true ↔ s.badWindow e kind w.param w.base w.limit := by
  rcases known with rfl | rfl | rfl | rfl | rfl <;>
    simp only [windowBad, hk, WinKind.ofCode, State.badWindow, State.sharesWith, WinKind.mayShare, Window.overlaps] <;>
    simp [State.namesToo, otherEntry_iff, he] <;> grind

/-! ## SET_HOPS' records -/

/-- A record's thresholds, clamped, and what applying it clears. -/
theorem HopRec.configure_unknown (rec : List Byte) (h : HopRec) : (h.configure rec).unknown = h.given rec := by
  have clampI : ∀ lo hi v : Int, lo ≤ hi → clampInt lo hi v = max lo (min hi v) := by
    intro lo hi v _; unfold clampInt; omega
  simp only [HopRec.configure, HopRec.setThresholds, HopRec.unknown, HopRec.given, clampNat, max_comm, min_comm,
    clampI _ _ _ (by omega : (-1000 : Int) ≤ -201), clampI _ _ _ (by omega : (1 : Int) ≤ 200)]

theorem hopAfter_cons (rec : List Byte) (recs : List (List Byte)) (h : HopNo) (x : HopRec) :
    hopAfter (rec :: recs) h x = hopAfter recs h (if byteAt rec 0 = h.val then x.given rec else x) := rfl

theorem portInUse_iff {s : State} {k : PortNo} :
    portInUse s k = true ↔ ∃ q : PathNo, s.paths[q].port = k ∧ s.paths[q].state ≠ .off := by
  simp [portInUse, allPaths]

/-! ## The start-up order -/

theorem Interposer.drained_iff {s : State} : s.mi.drained = true ↔ s.Drained := by
  simp only [Interposer.drained, State.Drained, Bool.and_eq_true, List.isEmpty_iff, Bool.not_eq_true',
    List.any_eq_false, and_assoc]
  refine and_congr_right fun _ => and_congr_right fun _ => forall₂_congr fun o _ => ?_
  cases o <;> simp [Outstanding.isOwn]

theorem receiveWindows_eq (s : State) : receiveWindows s = s.receiveRings := rfl

/-- An answer of a step with others to come. -/
theorem stepAnswered_waits {s : State} (h : 2 ≤ s.startUp.left) :
    stepAnswered s = { s with startUp := { s.startUp with left := s.startUp.left - 1 } } := by
  simp only [stepAnswered, beginStep, show ¬ s.startUp.left ≤ 1 by omega, if_false]

/-- The last answer of a step begins the next. -/
theorem stepAnswered_last {s : State} (h : s.startUp.left = 1) :
    stepAnswered s = nextStep { s with startUp := { s.startUp with left := 0 } } := by
  simp only [stepAnswered, beginStep, h, Nat.le_refl, if_true]

/-- Step 6's writes after a power-on start and after a station reset. -/
theorem restartWrites_eq (s : State) : (List.finRange 8).flatMap (restartWrite s) =
    if s.startUp.status.stationReset then s.blockWrites 4 s.abortedBlocks else s.blockWrites 0 (List.finRange 8) := by
  have one : restartWrite s = fun b => if s.startUp.status.stationReset then
      (if s.cmd.blocks[b].aborted then s.blockWrites 4 [b] else []) else s.blockWrites 0 [b] := rfl
  rw [one]
  cases s.startUp.status.stationReset
  · simp [State.blockWrites, List.map_eq_flatMap]
  · simp only [State.blockWrites, State.abortedBlocks, if_true]
    generalize List.finRange 8 = l
    induction l with
    | nil => rfl
    | cons b l ih =>
      simp only [List.flatMap_cons, ih, List.filter_cons]
      split <;> rfl

end Sys2Proof.Machine
end

