-- ==== Sys2Proof/Tests/Slice0.lean ====
section
/-! SUPPORT. Tests of single steps, from the manual's worked cases and tables, and a witness for the hypotheses of
each statement. -/

namespace Sys2Proof.Tests

-- One proof at a time: each kernel evaluation would otherwise hold a thread of its own.
set_option Elab.async false

open Sys2Proof Sys2Proof.Machine

/-! ## Small states -/

/-- A part that has started: ready, every link up, nothing configured, its interval clock at ten seconds. -/
def up : State :=
  { State.reset with
    startUp := { StartUp.reset with phase := .ready }
    clock := 10000000
    linkInput := Vector.replicate 6 true
    link := Vector.replicate 6 true
    cmd := { CommandUnit.reset with statusOn := true } }

/-- Block 0 has issued a command with the code, the list pointer and the parameters. -/
def issuedAt (pointer : List Byte) (code : Byte) (p : List Byte) (s : State) : State :=
  { s with cmd := { s.cmd with pending := [0] } }.updBlock 0 (fun x =>
    { x with state := .pending, copy := [code, 1, 0, 1, 0, 0, 0, 0] ++ pointer ++ p })

/-- A command without a list. -/
def issued (code : Byte) (p : List Byte) (s : State) : State := issuedAt (List.replicate 8 0) code p s

theorem issuedAt_takes (pointer : List Byte) (code : Byte) (p : List Byte) (s : State) (hl : pointer.length = 8)
    (hr : s.isReady = true) (hx : s.cmd.exec = none) : (issuedAt pointer code p s).Takes 0 [] code.toNat p :=
  ⟨hr, hx, rfl, by simp [issuedAt, updAt, byteAt], by simp [issuedAt, updAt, hl]⟩

theorem issued_takes (code : Byte) (p : List Byte) (s : State) (hr : s.isReady = true) (hx : s.cmd.exec = none) :
    (issued code p s).Takes 0 [] code.toNat p := issuedAt_takes _ code p s rfl hr hx

/-- Path 0 to site 3 over port 0, a RADIO port whose chain is hop 5. -/
def withPath (st : PathState) (hop : HopState) (s : State) : State :=
  (((s.updPath 0 (fun x => { x with configured := true, port := 0, site := 3, drop := 1, state := st })).updPort 0
    (fun x => { x with chain := [5] })).updHop 5 (fun x => { x with place := some (0, 1), state := hop }))

/-- An urgent message to site 3 on path 0. -/
def msg3 : Msg := ⟨3, .urgent, 1, 0, false, 0, [1, 2, 3], 4096, 0, 0⟩

/-- Its record, with the destination entry of site 3 given. -/
def record3 (d : Dest) : Record where
  hdr := 4096
  ring := 0
  slot := 0
  code := 0xA1
  capture := 0
  len := 3
  mask := 8
  cls := .urgent
  force := false
  head := [some 1, some 2, some 3]
  body := some []
  phase := .routing
  dests := (Vector.replicate 8 Dest.none).set 3 d
  egress := false

def withRecord (d : Dest) (s : State) : State := { s with cu := { s.cu with records := [record3 d] } }

/-- A frame is in reception on port 0. -/
def receiving (s : State) : State := s.updRx 0 (fun r => { r with reception := some (7, false) })

/-! ## Well-formedness: each check refuses -/

theorem test_request_of_no_line : Instr.wellFormed (.request (.read 0 0)) = false := by decide
theorem test_request_of_five_lines : Instr.wellFormed (.request (.read 0 5)) = false := by decide
theorem test_request_past_the_space : Instr.wellFormed (.request (.read (2 ^ 30 - 1) 2)) = false := by decide
theorem test_short_line : Instr.wellFormed (.request (.write 0 [[some 1]])) = false := by decide
theorem test_long_response : Instr.wellFormed (.forwardedResponse true (List.replicate 5 [])) = false := by decide
theorem test_short_response_line : Instr.wellFormed (.forwardedResponse true [[1]]) = false := by decide
theorem test_short_own_response : Instr.wellFormed (.ownResponse true [1]) = false := by decide
theorem test_request_well_formed : Instr.wellFormed (.request (.read (2 ^ 30 - 1) 1)) = true := by decide

/-- The table gives no row bits: no word spells a command. -/
theorem test_no_word_spells : decodeTableWord 16 0 = none := rfl

/-! ## The frame check (8.1) -/

theorem test_crc_check_value :
    crc32 [0x31, 0x32, 0x33, 0x34, 0x35, 0x36, 0x37, 0x38, 0x39] = 0xCBF43926#32 := by decide +kernel

/-- A PROBE from site 2 to site 0 at site 0, at site 1, and with one bit wrong (R130). -/
theorem test_probe_judged :
    judge 0 (Frame.encode ⟨2, 0, .probe 7⟩) = .good ⟨2, 0, .probe 7⟩ ∧
    judge 1 (Frame.encode ⟨2, 0, .probe 7⟩) = .misdirected ∧
    judge 0 ((Frame.encode ⟨2, 0, .probe 7⟩).set 24 6) = .crcError ∧
    judge 0 (List.replicate 31 0) = .lengthError := by decide +kernel

/-! ## Station time: 1.10 and 1.11 -/

def locked (i : Int) (good : Nat) (st : TimeState) : TimeUnit :=
  { TimeUnit.reset with state := st, integral := i, goodRun := good }

/-- Pulse 8 of 1.10: the eighth good pulse locks. -/
theorem test_pulse_eight : (TimeUnit.steer (-16) (locked (-1201) 7 .acquiring)) =
    { locked (-1200) 8 .locked with adj := -1196 } := by decide

/-- Pulse 9: the good run ends, the state stands. -/
theorem test_pulse_nine : (TimeUnit.steer 240 (locked (-1200) 8 .locked)) =
    { locked (-1215) 0 .locked with adj := -1275 } := by decide

/-- Pulse 10: the quotients are truncated toward zero, and LOCKED is lost. -/
theorem test_pulse_ten : (TimeUnit.steer (-1350) (locked (-1215) 0 .locked)) =
    { locked (-1131) 0 .acquiring with adj := -794 } := by decide

/-- The first expiry of 1.11. -/
theorem test_holdover_begins :
    TimeUnit.pulseMissing 9001500000 { locked (-1210) 8 .locked with adj := -1190 } =
      { locked (-1210) 0 .holdover with
        adj := -1210
        holdoverStart := some 9001500000
        holdoverDue := some 9031500000 } := by decide

/-! ## Hops: hop 43 of 2.9 -/

def hop43 : HopRec :=
  { HopRec.reset with state := .clear, last := some (-601), minLevel := -648, maxLevel := -601, extremes := true }

def seen (h : HopRec) : HopState × Nat × Nat × Option Int × Int × Int :=
  (h.state, h.count, h.step, h.last, h.minLevel, h.maxLevel)

theorem test_hop_F1 : seen (hop43.report 0 50 (-640) 6 false) = (.clear, 0, 6, some (-640), -648, -601) := by decide
theorem test_hop_F2 : seen (hop43.report 0 50 (-668) 5 false) = (.clear, 1, 5, some (-668), -668, -601) := by decide
theorem test_hop_F3 : seen ({ hop43 with count := 1 }.report 0 50 (-702) 4 false) =
    (.fading, 0, 4, some (-702), -702, -601) := by decide
theorem test_hop_F4 : seen ({ hop43 with state := .fading }.report 0 50 (-812) 1 false) =
    (.down, 0, 1, some (-812), -812, -601) := by decide
theorem test_hop_F5 : seen ({ hop43 with state := .down }.report 0 50 0 0 true) =
    (.down, 0, 0, some (-601), -648, -601) := by decide
theorem test_hop_F6 : ({ hop43 with state := .down }.report 0 50 (-785) 2 false).state = .down := by decide
theorem test_hop_F7 : ({ hop43 with state := .down }.report 0 50 (-760) 2 false).state = .fading := by decide

/-! ## The estimator: 3.8 -/

def path6 (est rtt run : Nat) : PathRec :=
  { PathRec.reset with seeded := true, est := est, rttEst := rtt, run := run, method := some .clock }

def estimates (x : PathRec) : Nat × Nat × Nat × Bool := (x.est, x.rttEst, x.run, x.method == some .clock)

theorem test_sample_2 : estimates ((path6 3912410 7830010 0).takeSample 7829800 .clock 3912300) =
    (3912396, 7829983, 0, true) := by decide
theorem test_sample_3 : estimates ((path6 3912396 7829983 0).takeSample 7907700 .clock 3990000) =
    (3912396, 7829983, 1, true) := by decide
theorem test_sample_9 : estimates ((path6 3912394 7829980 3).takeSample 7907680 .clock 3990000) =
    (3990000, 7907680, 0, true) := by decide
theorem test_sample_10 : estimates ((path6 3990000 7907680 0).takeSample 7907750 .half 3953875) =
    (3953875, 7907750, 0, false) := by decide

/-! ## The arrival estimate: rain on the first chain (4.5) -/

/-- Paths 1, 2 and 9 to site 3, with twelve urgent frames of 120 bytes queued on port 0. -/
def rain : State :=
  let path := fun (k : PortNo) (est rate fading : Nat) (x : PathRec) =>
    { x with configured := true, port := k, site := 3, state := PathState.up, est, rate, fading }
  ((((up.updPath 1 (path 0 3912396 6250 2)).updPath 2 (path 3 3978100 18750 0)).updPath 9 (path 5 5870000 125000 0)).updTx 0
    (fun t => { t with urgent := List.replicate 12 (.msg { msg3 with payload := List.replicate 88 0 }) })).updRoute 3
    (fun r => { r with cands := [1, 2, 9], live := true, current := some 1 })

theorem test_rain_estimates :
    [1, 2, 9].map (arrival rain .urgent 72) = [4175436, 3983647, 5870832] := by decide +kernel

theorem test_rain_choice :
    chooseKeeping 2000 (some 1) (eligible rain 3 .urgent 72) (2, 3983647) = 2 ∧
    chooseKeeping 2000 (some 1) [(1, 4175436), (2, 4173500)] (2, 4173500) = 1 := by decide +kernel

/-! ## Receive merge: 9.9 and 9.10 -/

/-- Consecutive numbers lost in one event make one run. -/
theorem test_runs : runsOf 1004 0 [none, some (.hole 3), some (.hole 3), none, some (.hole 3)] isHole =
    [(1000, 1), (1002, 2)] := by decide

/-- The losses of 1,005 and 1,006 merge in the pending list. -/
theorem test_losses_merge :
    joinPending (.gap .urgent 81 1006 1 .timeout false) [.gap .bulk 81 298 1 .timeout false, .gap .urgent 81 1005 1 .timeout false] =
      [.gap .bulk 81 298 1 .timeout false, .gap .urgent 81 1005 2 .timeout false] := by decide

/-- The free slots of 9.9 and 9.10. -/
theorem test_free_slots : freeSlots 127 38 40 = 124 ∧ freeSlots 127 45 44 = 0 ∧ freeSlots 127 50 44 = 5 := by decide

/-! ## Bulk frame X of 7.11 -/

def frameX : BulkFrame :=
  ⟨1, (List.range 5).map (fun i => { msg3 with cls := .bulk, payload := List.replicate 52 0, slot := i })⟩

theorem test_frame_X : frameX.total = 300 ∧ frameX.count = 5 ∧ frameX.fragLength 4 = 44 ∧
    (List.range 5).map (fun i => (frameX.beginning i).map (·.slot)) = [[0, 1], [2], [3], [4], []] := by decide

/-! ## Straps (R168) -/

theorem test_straps : strapPage 0 = 0x10 ∧ strapPage 7 = 0xFFFF00 := by decide

/-! ## The image of the reset tables (R173) -/

theorem test_image_length : (formImage State.reset).length = 3218 := by decide +kernel

/-! ## The steps of one command of each kind -/

/-- BAD_COMMAND leaves an ERROR completion to write. -/
theorem test_bad_command : (match exec .badCommand (issued 99 [] up) with
    | .next t => (t.cmd.blocks[0].state, t.cmd.blocks[0].error, t.mi.own.map (·.line))
    | _ => (.idle, .none, [])) = (.closing, .badCommand, [0x10 * 64 + 6]) := by decide +kernel

/-- An empty queue: one nanosecond passes. -/
theorem test_idle : step up = .next { up with subMicro := 1, tu := { up.tu with station := 1 } } := rfl

/-- A displaced message that finds the fastest path full falls back to the next (R73, R76): counters of the route and
the queue it joins. -/
theorem test_reselection_falls_back :
    (match exec (.reselection 3) { rain.updTx 3 (fun t => { t with line := some (.probeBack 3 0 0, 1), urgent := List.replicate 32 (.test 0 0) }) with
        rs := { rain.rs with batches := [⟨3, [{ msg3 with payload := List.replicate 72 0 }]⟩] } } with
    | .next t => (t.rs.routes[3].counters.fallbacks, t.rs.routes[3].counters.rerouted, t.tx[0].urgent.length)
    | _ => (0, 0, 0)) = (1, 1, 12) := by decide +kernel

/-- A whole-range RECEIVE entry stored with a new GUARD flag starts its ring again (R82, R144). -/
theorem test_flag_restarts_ring :
    (windowNotice ⟨true, 72, 72, .receive, 3, false, false⟩ ⟨true, 72, 72, .receive, 3, false, true⟩
      (up.updSite 3 (fun x => { x with ring := ⟨some (4608, 31), 9, false, 4, []⟩ }))).rmu[3].ring =
      ⟨some (4608, 31), 0, true, 0, []⟩ := by decide +kernel

/-! ## Witnesses: states and operands that meet the hypotheses of each statement -/

theorem witness_StepRunsTheFront : up.pending = [] ∧ -100000 ≤ up.tu.adj ∧
    { up with pending := [.ready] }.pending = .ready :: [] := by decide

theorem witness_CommandsLeaveTheQueue : ∃ t, exec .secondPulse up = .next t := ⟨_, rfl⟩

/-- The hypotheses of TimeStaysInRange, OwnQueueStaysBounded, PortQueuesStayBounded, BuffersStayBounded and
ChangesAreWritten, with I and the own-request queue at their limits. -/
theorem witness_invariants :
    { TimeUnit.reset with integral := 100000, adj := -100000, goodRun := 8 }.inRange ∧
    { Interposer.reset with own := List.replicate 32 ⟨0, 0, none, .ringStart⟩ }.inRange ∧
    (∀ k : PortNo, up.tx[k].inRange) ∧ (∀ p : PathNo, up.paths[p].inRange) ∧ up.cu.inRange ∧
    (∀ r : Site, up.rmu[r].inRange) ∧ up.Settled ∧ ∃ t, step up = .next t :=
  ⟨⟨by decide, by decide, by decide, by decide, by decide⟩, by simp [Interposer.inRange],
    fun k => by simp [up, State.reset, Transmitter.inRange, Transmitter.reset],
    fun p => by simp [up, State.reset, PathRec.inRange, PathRec.reset],
    by simp [up, State.reset, CaptureUnit.inRange, CaptureUnit.reset],
    fun r => by simp [up, State.reset, RxSite.inRange, RxSite.reset, RxRing.reset],
    settled_of_fresh ⟨rfl, rfl, rfl, rfl⟩, ⟨_, rfl⟩⟩

/-- A frame of each kind, a message of the greatest length and a report at its limits among them. -/
theorem witness_FramesReadBack :
    ∀ b ∈ [FrameBody.msg 1 5 6 7 (List.replicate 96 0),
      .bulk ⟨3, 15, true, 8, 255, List.replicate 8 96, List.replicate 64 0⟩, .probe 9, .probeBack 9 true 1 2,
      .hopstat (List.replicate 24 ⟨255, -32768, 127, true⟩), .test 1 15 (List.replicate 64 0)],
    Frame.wellFormed 0 ⟨7, 0, b⟩ := by
  simp [Frame.wellFormed, FrameBody.wellFormed, FrameBody.directed]

/-- The last accepted pulse lies the given number of µs back. -/
def pulsed (back : Nat) (st : TimeState) : State :=
  { up with tu := { TimeUnit.reset with state := st, lastPulse := some (10000000 - back) } }

/-- A bounce, a pulse just far enough from the last, in FREE and in UNSET, and announcements at each check's edge. -/
theorem witness_AnnouncementIsHeld : up.Settled ∧ 18446744073 ≤ 18446744073 ∧
    (18446744073 < field (0x24 :: 12 :: (leBytes 8 18446744074 ++ [0, 0, 0, 0])) 2 8) ∧
    (List.replicate 13 (0 : Byte)).length ≠ 14 ∧
    (∀ st : TimeState, (pulsed 499999 st).Settled ∧ (pulsed 499999 st).tu.lastPulse = some 9500001 ∧
      (pulsed 499999 st).now < 9500001 + 500000 ∧ (pulsed 500000 st).Settled ∧
      9500000 + 500000 ≤ (pulsed 500000 st).now ∧ (pulsed 500000 st).tu.lastPulse = some 9500000 ∧
      (pulsed 500000 st).tu.annValid = false ∧ (pulsed 500000 st).tu.prevSeconds = none) :=
  ⟨settled_of_fresh ⟨rfl, rfl, rfl, rfl⟩, by decide, by decide, by decide, fun _ =>
    ⟨settled_of_fresh ⟨rfl, rfl, rfl, rfl⟩, rfl, by show (10000000#64).toNat < 9500001 + 500000; decide,
      settled_of_fresh ⟨rfl, rfl, rfl, rfl⟩, by show 9500000 + 500000 ≤ (10000000#64).toNat; decide, rfl, rfl, rfl⟩⟩

/-- A pulse of the given phase error, for second 1, is due to be accepted: with its announcement held, or without
one and given its seconds as the previous plus 1. -/
def pulsing (st : TimeState) (ann : Bool) (e : Int) : State :=
  { up with
    tu := { TimeUnit.reset with
      state := st
      station := BitVec.ofInt 64 (1000000000 + e)
      annSeconds := 1
      annValid := ann
      prevSeconds := some 0
      lastPulse := some 9500000 } }

theorem pulsing_gives (st : TimeState) (ann : Bool) (e : Int) (h : ann = true ∨ st ≠ .unset) :
    (∀ l, (pulsing st ann e).tu.lastPulse = some l → l + 500000 ≤ (pulsing st ann e).now) ∧
    (pulsing st ann e).GivesSeconds 1 := by
  refine ⟨?_, ?_⟩
  · rintro l ⟨⟩; show 9500000 + 500000 ≤ (10000000#64).toNat; decide
  · cases ann with
    | true => exact .inl ⟨rfl, rfl⟩
    | false => exact .inr ⟨rfl, h.resolve_left Bool.false_ne_true, 0, rfl, rfl⟩

theorem witness_PulseSteers (st : TimeState) (ann : Bool) (h : st ≠ .unset) :
    (pulsing st ann 1000000).GivesSeconds 1 ∧ (pulsing st ann 1000000).tu.state ≠ .unset ∧
    (1000000 : Int) = ((pulsing st ann 1000000).tu.station.toNat : Int) - ((1 : Nat) : Int) * 1000000000 ∧
    (1000000 : Int).natAbs ≤ 1000000 :=
  ⟨(pulsing_gives st ann _ (.inr h)).2, h,
    by show (1000000 : Int) = ((BitVec.ofInt 64 (1000000000 + 1000000)).toNat : Int) - ((1 : Nat) : Int) * 1000000000; decide,
    by decide⟩

theorem witness_LargeErrorSteps (st : TimeState) (ann : Bool) (h : ann = true ∨ st ≠ .unset) :
    (pulsing st ann 1000001).GivesSeconds 1 ∧
    (1000001 : Int) = ((pulsing st ann 1000001).tu.station.toNat : Int) - ((1 : Nat) : Int) * 1000000000 ∧
    1000000 < (1000001 : Int).natAbs ∧
    (0 : Int) = ((pulsing .unset true 0).tu.station.toNat : Int) - ((1 : Nat) : Int) * 1000000000 ∧
    (pulsing .unset true 0).tu.state = .unset :=
  ⟨(pulsing_gives st ann _ h).2,
    by show (1000001 : Int) = ((BitVec.ofInt 64 (1000000000 + 1000001)).toNat : Int) - ((1 : Nat) : Int) * 1000000000; decide,
    by decide,
    by show (0 : Int) = ((BitVec.ofInt 64 (1000000000 + 0)).toNat : Int) - ((1 : Nat) : Int) * 1000000000; decide, rfl⟩

/-- A timer of the Time Unit due now. -/
def timed (st : TimeState) : State :=
  { up with tu := { TimeUnit.reset with state := st, missingDue := some 10000000, holdoverDue := some 10000000 } }

theorem witness_PulsesMissed (st : TimeState) :
    10000000 ≤ (timed st).now ∧ (timed st).tu.missingDue = some 10000000 ∧ (timed st).tu.state = st ∧
    (timed st).tu.holdoverDue = some 10000000 ∧ (timed st).Settled ∧ (timed st).cmd.statusOn = true ∧
    (timed st).mi.waiting = [] ∧ (timed st).mi.own.length + 2 ≤ 32 :=
  ⟨by show 10000000 ≤ (10000000#64).toNat; decide, rfl, rfl, rfl, settled_of_fresh ⟨rfl, rfl, rfl, rfl⟩, rfl, rfl,
    by show 0 + 2 ≤ 32; decide⟩

/-- Path 0 with its hop's report timer due now. -/
def silent : State := (withPath .up .clear up).updHop 5 (fun x => { x with reportDue := some 10000000 })

theorem witness_SilentHopGoesDown : silent.isReady = true ∧ silent.hops[5].reportDue = some 10000000 ∧
    10000000 ≤ silent.now ∧ silent.hops[5].state = .clear := by decide +kernel

theorem witness_HopReportIsTaken :
    (receiving silent).isReady = true ∧ (receiving silent).link[0] = true ∧
    (receiving silent).rx[0].reception = some (7, false) ∧ (receiving silent).ports[0].kind = .radio ∧
    (receiving silent).ports[0].chain[1 - 1]? = some 5 ∧ 1 ≤ 1 ∧ 1 < 256 ∧ (-32768 : Int) ≤ 32767 ∧ 127 < 128 := by
  decide +kernel

/-- Levels at the edges of each band of a hop with the default thresholds, with its count below and at D. -/
theorem witness_HopStateFollowsReports :
    (HopRec.reset.down ≤ -651 ∧ (-651 : Int) < HopRec.reset.fade) ∧ HopRec.reset.fade ≤ -650 ∧
    (-621 : Int) < HopRec.reset.fade + HopRec.reset.hyst ∧ HopRec.reset.fade + HopRec.reset.hyst ≤ -620 ∧
    HopRec.reset.down + HopRec.reset.hyst ≤ -770 ∧ (-771 : Int) < HopRec.reset.down + HopRec.reset.hyst ∧
    0 + 1 < HopRec.reset.debounce ∧ HopRec.reset.debounce ≤ 1 + 1 ∧ 1 ≤ HopRec.reset.debounce := by decide

/-- A path whose timers are due and whose oldest probe has lived its time; its port's line is busy. -/
def probing : State :=
  ((withPath .probing .clear up).updPath 0 (fun x =>
    { x with probeDue := some 10000000, silenceDue := some 10000000, outstanding := [⟨0, 1, 9996000⟩] })).updTx 0
    (fun t => { t with line := some (.probe 0 0, 1) })

/-- The line of the path's port is free, four probes are out, and a PROBE-BACK waits or none. -/
def probingFree (back : Option ProbeBack) : State :=
  (probing.updPath 0 (fun x => { x with outstanding := List.replicate 4 ⟨0, 1, 9996000⟩ })).updTx 0
    (fun t => { t with line := none, probeBack := back })

/-- A busy line, and a free one with a PROBE-BACK waiting and without. -/
theorem witness_ProbeTimers :
    (∀ s ∈ [probing, probingFree none, probingFree (some ⟨3, 9, 5⟩)], s.isReady = true ∧ s.paths[0].port = 0 ∧
      s.paths[0].probeDue = some 10000000 ∧ 10000000 ≤ s.now) ∧
    lineFree 0 probing = false ∧ lineFree 0 (probingFree none) = true ∧ (probingFree none).tx[0].probeBack = none ∧
    lineFree 0 (probingFree (some ⟨3, 9, 5⟩)) = true ∧ (probingFree (some ⟨3, 9, 5⟩)).tx[0].probeBack ≠ none ∧
    probing.paths[0].outstanding = [⟨0, 1, 9996000⟩] ∧
    9996000 + min (4 * probing.paths[0].normal) 20000 ≤ probing.now := by decide +kernel

theorem witness_ProbeTimers_settled : probing.Settled := settled_of_fresh ⟨rfl, rfl, rfl, rfl⟩

/-- An UP path, silent for its time, its port's line free. -/
def quietPath : State := (withPath .up .fading up).updPath 0 (fun x => { x with silenceDue := some 10000000 })

theorem witness_SilentPathGoesDown :
    probing.isReady = true ∧ probing.paths[0].silenceDue = some 10000000 ∧ 10000000 ≤ probing.now ∧
    probing.paths[0].state = .probing ∧ passable probing 0 = true ∧ probing.tx[probing.paths[0].port].line ≠ none ∧
    quietPath.isReady = true ∧ quietPath.paths[0].silenceDue = some 10000000 ∧ quietPath.paths[0].state = .up ∧
    passable quietPath 0 = true := by decide +kernel

theorem witness_FirstSampleTakesPathUp :
    (receiving probing).isReady = true ∧ (receiving probing).link[0] = true ∧
    (receiving probing).rx[0].reception = some (7, false) ∧ (receiving probing).paths[0].port = 0 ∧
    (receiving probing).paths[0].site ≠ (receiving probing).ownSite ∧ (receiving probing).paths[0].state = .probing ∧
    (receiving probing).paths[0].seeded = false ∧
    (∀ q : PathNo, q ≠ 0 → (receiving probing).paths[q].state ≠ .off →
      (receiving probing).paths[q].port ≠ 0 ∨ (receiving probing).paths[q].site ≠ (receiving probing).paths[0].site) ∧
    (receiving probing).paths[0].outstanding = [⟨0, 1, 9996000⟩] ∧
    (2 : Int) = (((7 : Stamp) - 1) - ((10 : Stamp) - 6)).toInt ∧ (0 : Int) ≤ 2 ∧ (2 : Int) ≤ 200000000 := by decide +kernel

theorem witness_SamplesAreTaken :
    (0 : Int) ≤ 3990000 ∧ (3990000 : Int) ≤ 7907680 ∧ (7907680 : Int) ≤ 200000000 ∧ PathRec.reset.seeded = false ∧
    (path6 3912394 7829980 3).method ≠ some .half ∧ (path6 3912394 7829980 3).est ≤ 200000000 ∧
    (path6 3912394 7829980 3).rttEst ≤ 200000000 ∧ (path6 3912394 7829980 3).seeded = true ∧
    (path6 3912394 7829980 3).method = some .clock ∧
    (path6 3912394 7829980 3).outlier < ((3990000 : Int) - (path6 3912394 7829980 3).est).natAbs ∧
    4 ≤ (path6 3912394 7829980 3).run + 1 ∧ (path6 3912394 7829980 2).run + 1 < 4 ∧
    ((3962394 : Int) - (path6 3912394 7829980 3).est).natAbs ≤ (path6 3912394 7829980 3).outlier := by decide

/-- A record of the class that asks for the selection of site 3. -/
def asking (cls : MsgClass) (force : Bool) : Record := { record3 .waiting with cls, force }

/-- The rain of 4.5 with the record, an epoch, and a current path. -/
def selecting (cls : MsgClass) (force : Bool) (current : PathNo) : State :=
  let s := rain.updRoute 3 (fun r => { r with current := some current })
  { s with rs := { s.rs with epoch := 1 }, cu := { s.cu with records := [asking cls force] } }

/-- Every port's line is busy, with so many urgent frames and these bulk frames behind it. -/
def loaded (urgent : Nat) (bulk : List BulkFrame) (s : State) : State :=
  { s with tx := Vector.replicate 6 { Transmitter.reset with
      line := some (.test 0 0, 1), urgent := List.replicate urgent (.test 0 0), bulk } }

/-- A bulk frame of a path with so many messages. -/
def bulkOf (p : PathNo) (n : Nat) : BulkFrame := ⟨p, List.replicate n { msg3 with cls := .bulk, path := p }⟩

/-- No path is UP. -/
def darkened (s : State) : State := { s with paths := s.paths.map (fun x => { x with state := .down }) }

/-- One record of each class, with a dual copy forced and without; three paths, on three ports; and no path UP. -/
theorem witness_SelectionPlaces (cls : MsgClass) (force : Bool) :
    (∀ s ∈ [selecting cls force 1, selecting cls force 2,
        loaded 32 (List.replicate 16 (bulkOf 9 8)) (selecting cls force 1), darkened (selecting cls force 1)],
      s.isReady = true ∧ s.rs.epoch ≠ 0 ∧ s.recordOf 4096 = some (asking cls force)) ∧
    (asking cls force).asking = some 3 ∧ (asking cls force).size = 3 ∧
    (∀ p ∈ [(1 : PathNo), 2, 9], (selecting cls force 1).eligibleFor 3 p) ∧
    (selecting cls true 1).wantsDual 3 2 true ∧ ¬ (selecting cls false 1).wantsDual 3 2 false ∧
    (selecting cls true 1).paths[(1 : PathNo)].port ≠ (selecting cls true 1).paths[(2 : PathNo)].port ∧
    (∀ x : PathNo, ¬ (darkened (selecting cls force 1)).eligibleFor 3 x) := by
  unfold State.eligibleFor State.wantsDual
  cases cls <;> cases force <;> decide +kernel

/-- The current path, 1, beaten by path 2; path 2 keeping its place; path 1 the best other. -/
theorem witness_SelectionPlaces_choice (cls : MsgClass) (force : Bool) :
    (∀ q : PathNo, (selecting cls force 2).eligibleFor 3 q →
      arrival (selecting cls force 2) cls 3 2 ≤ arrival (selecting cls force 2) cls 3 q + 2000) ∧
    (∀ q : PathNo, (selecting cls force 1).eligibleFor 3 q → q ≠ 2 →
      arrival (selecting cls force 1) cls 3 2 < arrival (selecting cls force 1) cls 3 q) ∧
    arrival (selecting cls force 1) cls 3 2 + 2000 < arrival (selecting cls force 1) cls 3 1 ∧
    (∀ x : PathNo, (selecting cls force 1).eligibleFor 3 x → x ≠ 2 → x ≠ 1 →
      arrival (selecting cls force 1) cls 3 1 < arrival (selecting cls force 1) cls 3 x) := by
  unfold State.eligibleFor
  cases cls <;> cases force <;> decide +kernel

/-- The port of path 2, its line busy, with room for one frame more and with none; with 16 bulk frames, of which one of
path 2 has room for one message more, none has, and one has but is not the last of its path. -/
theorem witness_SelectionPlaces_room (cls : MsgClass) (force : Bool) :
    (loaded 31 (List.replicate 15 (bulkOf 9 8)) (selecting cls force 1)).pathHasRoom 2 cls 3 ∧
    (∀ x : PathNo, ¬ (loaded 32 (List.replicate 16 (bulkOf 9 8)) (selecting cls force 1)).pathHasRoom x cls 3) ∧
    (loaded 31 (bulkOf 2 7 :: List.replicate 15 (bulkOf 9 8)) (selecting cls force 1)).pathHasRoom 2 cls 3 ∧
    ¬ (loaded 32 (bulkOf 2 8 :: List.replicate 15 (bulkOf 9 8)) (selecting cls force 1)).pathHasRoom 2 cls 3 ∧
    ¬ (loaded 32 (bulkOf 2 7 :: bulkOf 2 8 :: List.replicate 14 (bulkOf 9 8)) (selecting cls force 1)).pathHasRoom 2 cls 3 ∧
    lineFree 3 (loaded 31 [] (selecting cls force 1)) = false := by
  simp only [State.pathHasRoom, ← Transmitter.roomFor_iff, Bool.not_eq_true]
  cases cls <;> cases force <;> decide +kernel

/-- A displaced message of the class waits at RS. -/
def displaced (cls : MsgClass) (s : State) : State :=
  { s with rs := { s.rs with batches := [⟨1, [{ msg3 with cls }]⟩] } }

/-- With a path that has room, with none, and with no path UP; the faster path full. -/
theorem witness_DisplacedMessageReselected (cls : MsgClass) :
    let full := loaded 32 (List.replicate 16 (bulkOf 9 8)) (selecting cls false 1)
    let s := displaced cls (selecting cls false 1)
    (∀ u ∈ [selecting cls false 1, full, darkened (selecting cls false 1)],
      (displaced cls u).rs.batches = ⟨1, [{ msg3 with cls }]⟩ :: []) ∧
    s.eligibleFor 3 2 ∧ s.tx[s.paths[(2 : PathNo)].port].roomFor 2 cls 3 = true ∧
    (displaced cls full).eligibleFor 3 2 ∧
    (∀ x : PathNo, (displaced cls full).tx[(displaced cls full).paths[x].port].roomFor x cls 3 = false) ∧
    arrival s cls 3 2 < arrival s cls 3 1 ∧
    (∀ q : PathNo, s.eligibleFor 3 q → q ≠ 2 → arrival s cls 3 2 < arrival s cls 3 q) ∧
    (∀ x : PathNo, ¬ (displaced cls (darkened (selecting cls false 1))).eligibleFor 3 x) ∧
    (displaced cls (withRecord (.live .queued false .queued) full)).recordOf 4096 =
      some (record3 (.live .queued false .queued)) ∧
    (record3 (.live .queued false .queued)).phase = .routing ∧
    (record3 (.live .queued false .queued)).dests[(3 : Site)] = .live .queued false .queued := by
  unfold State.eligibleFor
  cases cls <;> decide +kernel

/-- The message is on port 0's line. -/
def onLine (re : Bool) : State :=
  (withRecord (.live .queued re .absent) up).updTx 0 (fun t => { t with line := some (.msg msg3, 5) })

theorem witness_PrimarySentSettles : ∀ re : Bool,
    (onLine re).tx[0].line = some (.msg msg3, 5) ∧ msg3.dual = false ∧
    (onLine re).recordOf msg3.slot = some (record3 (.live .queued re .absent)) ∧
    (record3 (.live .queued re .absent)).phase = .routing ∧
    (record3 (.live .queued re .absent)).dests[msg3.site] = .live .queued re .absent := by decide +kernel

/-- Fragment `i` of frame X is on port 0's line, its frame abandoned or not, with so much suspension behind it, a ceiling
code, and urgent frames behind it. -/
def boundary (i : Nat) (abandoned : Bool) (suspended code : Nat) (urgent : List UFrame) : State :=
  (withRecord (.live .queued false .absent) up).updTx 0 (fun t =>
    { t with
      line := some (.frag frameX 17 i abandoned, 5)
      ctx := if abandoned then none else some ⟨frameX, 17, i + 1, suspended, none⟩
      urgent, ceilingCode := code })

/-- One bulk message, and its record, on port 0's line. -/
def bulkOnLine : State :=
  (withRecord (.live .queued true .absent) up).updTx 0 (fun t => { t with line := some (.frag (bulkOf 0 1) 17 0 false, 5) })

/-- The last fragment, of frame X and of a frame with one routed message; one that is not the last, with nothing waiting,
with a frame waiting one ns below and at the ceiling of code 0, and under the code for none; and an abandoned one. -/
theorem witness_PrimarySentSettles_bulk :
    (bulkOnLine.tx[0].line = some (.frag (bulkOf 0 1) 17 0 false, 5) ∧ 0 + 1 = (bulkOf 0 1).count ∧
      { msg3 with cls := .bulk } ∈ (bulkOf 0 1).msgs ∧
      (∀ m' ∈ (bulkOf 0 1).msgs, m'.slot = 4096 → m' = { msg3 with cls := .bulk }) ∧
      bulkOnLine.recordOf 4096 = some (record3 (.live .queued true .absent)) ∧ bulkOnLine.link[0] = true ∧
      bulkOnLine.tx[0].waits = false ∧ bulkOnLine.tx[0].bulk = []) ∧
    4 + 1 = frameX.count ∧
    (∀ x ∈ [(0, 0, []), (127999, 0, [UFrame.msg msg3]), (128000, 0, [.msg msg3]), (999999, 3, [.test 3 4])],
      (boundary 1 false x.1 x.2.1 x.2.2).tx[0].line = some (.frag frameX 17 1 false, 5) ∧ 1 + 1 ≠ frameX.count ∧
      (boundary 1 false x.1 x.2.1 x.2.2).tx[0].ctx = some ⟨frameX, 17, 2, x.1, none⟩ ∧
      (boundary 1 false x.1 x.2.1 x.2.2).link[0] = true ∧ (boundary 1 false x.1 x.2.1 x.2.2).tx[0].ceilingCode = x.2.1 ∧
      (boundary 1 false x.1 x.2.1 x.2.2).tx[0].waits = !x.2.2.isEmpty ∧
      (boundary 1 false x.1 x.2.1 x.2.2).tx[0].probe = none) ∧
    [some 128000, some 256000, some 512000, none].getD 0 none = some 128000 ∧
    [some 128000, some 256000, some 512000, (none : Option Nat)].getD 3 none = none ∧
    ((boundary 1 true 0 0 []).tx[0].line = some (.frag frameX 17 1 true, 5) ∧ (boundary 1 true 0 0 []).link[0] = true ∧
      (boundary 1 true 0 0 []).tx[0].waits = false ∧ (boundary 1 true 0 0 []).tx[0].bulk = [] ∧
      (boundary 1 true 0 0 []).tx[0].ctx = none) := by decide +kernel

/-- A bulk frame of port 0 is set aside, its holdoff over. -/
def heldOff : State := up.updTx 0 (fun t =>
  { t with ctx := some ⟨frameX, 17, 1, 0, some 9999999000⟩, state := .holdoff, holdoffDue := some 10000000000 })

theorem witness_HoldoffEndsInResume : heldOff.isReady = true ∧ heldOff.link[0] = true ∧ heldOff.tx[0].line = none ∧
    heldOff.tx[0].holdoffDue = some 10000000000 ∧ 10000000000 ≤ heldOff.nowNs ∧
    heldOff.tx[0].ctx = some ⟨frameX, 17, 1, 0, some 9999999000⟩ := by decide +kernel

/-- The link of port 0 is lost; path 0 is DOWN. -/
def dark : State := { withPath .down .clear up with link := (Vector.replicate 6 true).set 0 false }

theorem witness_LinkReturns : dark.isReady = true ∧ dark.link[0] = false ∧ dark.paths[0].port = 0 ∧
    dark.paths[0].state = .down := by decide +kernel

theorem witness_LinkLossEmptiesPort : probing.isReady = true ∧ probing.link[0] = true ∧ probing.cmd.exec = none := by
  decide +kernel

/-- A frame is in reception on port 0, whose one path is UP, with a reassembly open or none. -/
def joining (ctx : Option Reassembly) : State :=
  (receiving (withPath .up .clear up)).updRx 0 (fun r => { r with ctx := ctx })

/-- A fragment of bulk frame 17, of so many payload bytes. -/
def fragment (index : Nat) (last : Bool) (lengths : List Nat) (n : Nat) : Fragment :=
  ⟨17, index, last, lengths.length, 0, (lengths ++ List.replicate 8 0).take 8, List.replicate n 1⟩

/-- One message of 96 bytes and its header: 64 bytes are there. -/
def joined : Reassembly := ⟨3, 0, 17, 1, 5, [96], 0, List.replicate 64 1⟩

/-- No reassembly and one open; a fragment 0 of several and alone, whole, short and long; a middle one; last ones of the
right and of the wrong length; headers that fail each check; a fragment of another number and a short one. -/
theorem witness_ReceptionTakesStamp :
    up.isReady = true ∧ up.link[0] = true ∧ up.rx[0].reception = none ∧ up.Settled ∧
    (∀ ctx : Option Reassembly, (joining ctx).isReady = true ∧ (joining ctx).link[0] = true ∧
      (joining ctx).rx[0].reception = some (7, false) ∧ (joining ctx).rx[0].ctx = ctx ∧ (joining ctx).OnlyPath 0 0 ∧
      (joining ctx).paths[0].site ≠ (joining ctx).ownSite) ∧
    (∀ f ∈ [fragment 0 false [56] 64, fragment 0 false (List.replicate 8 96) 64, fragment 0 true [56] 64,
        fragment 0 true [56] 63, fragment 0 true [55] 64, fragment 0 false [] 64,
        fragment 0 false (List.replicate 9 96) 64, fragment 0 false [97] 64, fragment 1 false [] 64,
        fragment 1 true [] 40, fragment 1 true [] 41, fragment 1 true [] 39, fragment 2 false [] 64,
        fragment 1 false [] 63],
      (FrameBody.bulk f).wellFormed) ∧
    ((fragment 0 false [56] 64).goodHeader ∧ (fragment 0 false [56] 64).total = 64 ∧
      (fragment 0 false (List.replicate 8 96) 64).goodHeader ∧ (fragment 0 true [56] 63).payload.length < 64 ∧
      (fragment 0 true [55] 64).total < 64 ∧ ¬ (fragment 0 false [] 64).goodHeader ∧
      ¬ (fragment 0 false (List.replicate 9 96) 64).goodHeader ∧ ¬ (fragment 0 false [97] 64).goodHeader) ∧
    ({ joined with lengths := [96, 96] }.bytes.length + 64 ≤ ([96, 96].map (8 + ·)).sum ∧
      joined.bytes.length + 40 = (joined.lengths.map (8 + ·)).sum ∧
      joined.bytes.length + 41 ≠ (joined.lengths.map (8 + ·)).sum ∧
      (joined.lengths.map (8 + ·)).sum < joined.bytes.length + 64) ∧ joined.next ≠ 2 :=
  ⟨rfl, rfl, rfl, settled_of_fresh ⟨rfl, rfl, rfl, rfl⟩,
    fun ctx => ⟨rfl, rfl, rfl, rfl, by show (joining none).OnlyPath 0 0; unfold State.OnlyPath; decide +kernel,
      by show (joining none).paths[0].site ≠ (joining none).ownSite; decide +kernel⟩,
    by unfold FrameBody.wellFormed; decide +kernel, by unfold Fragment.goodHeader; decide +kernel, by decide, by decide⟩

theorem witness_ProbeIsAnswered :
    (receiving probing).isReady = true ∧ (receiving probing).link[0] = true ∧ (receiving probing).tx[0].line ≠ none ∧
    (receiving probing).rx[0].reception = some (7, false) ∧ (receiving probing).paths[0].port = 0 ∧
    (receiving probing).paths[0].state ≠ .off ∧ (receiving probing).paths[0].site ≠ (receiving probing).ownSite := by
  decide +kernel

theorem witness_ProbeIsAnswered_settled : (receiving probing).Settled := settled_of_fresh ⟨rfl, rfl, rfl, rfl⟩

/-- Site 3 with a ring, or none, and a window in epoch 5 after 4 whose top is 1,000. -/
def receivingRing (ring : RxRing) (map : List (Option Position)) : State :=
  (joining none).updSite 3 (fun x =>
    { x with ring := ring, urgent := { x.urgent with epoch := 5, prevEpoch := 4, top := some 1000, map := map } })

/-- A ring of 31 slots, with the producer at its last slot and so many free. -/
def ring31 (consumer : Nat) : RxRing := ⟨some (6400, 31), 30, true, consumer, []⟩

/-- Positions of each kind: the top accepted, then a hole, a number with no position, a lost one. -/
def positions : List (Option Position) := [some (.accepted 3 0), some (.hole 9999000), none, some .lost]

/-- A ring without room for which seven records wait. -/
def behindSeven : RxRing := { ring31 0 with pending := List.replicate 7 (.restart .bulk 1 1 1 false) }

/-- A full window, its oldest position a hole. -/
def oldestOpen : List (Option Position) := List.replicate 255 (some .lost) ++ [some (.hole 9999000)]

theorem witness_NewEpochOpensSession (ring : RxRing) :
    (let s := receivingRing ring positions
     s.isReady = true ∧ s.link[0] = true ∧ s.rx[0].reception = some (7, false) ∧ s.paths[0].port = 0 ∧
     s.paths[0].state ≠ .off ∧ s.paths[0].site = 3 ∧ (3 : Site) ≠ s.ownSite ∧ s.OnlyPath 0 0 ∧
     s.rmu[3] = ⟨s.rmu[3].urgent, s.rmu[3].bulk, ring⟩ ∧ s.rmu[3].urgent.epoch = 5 ∧ s.rmu[3].urgent.prevEpoch = 4 ∧
     s.rmu[3].urgent.top = some 1000 ∧ s.rmu[3].urgent.map = positions) ∧
    1 ≤ (List.replicate 96 (0 : Byte)).length ∧ (List.replicate 96 (0 : Byte)).length ≤ 96 ∧
    -- A ring with two free slots, with one and with none.
    (freeSlots 31 2 30 = 2 ∧ freeSlots 31 1 30 = 1 ∧ freeSlots 31 0 30 = 0 ∧ (ring31 2).producer < 31) ∧
    -- A new epoch, and the two stale ones.
    ((6 : BitVec 32) ≠ 0 ∧ (6 : BitVec 32) ≠ 5 ∧ (6 : BitVec 32) ≠ 4) ∧
    -- Numbers one and 256 above top; at each kind of position; one past the map, at 255 and at 256 below top.
    ((1001 - 1000 : BitVec 32).toNat = 1 ∧ (1256 - 1000 : BitVec 32).toNat = 256 ∧
      (∀ since : Nat, some (.hole since) ∉ positions.drop (256 - 1)) ∧
      (∀ since : Nat, some (.hole since) ∉ ([some .lost] : List (Option Position)).drop (256 - 256))) ∧
    (positions[(1000 - 999 : BitVec 32).toNat]? = some (some (.hole 9999000)) ∧
      (∃ x ∈ positions, ∀ h : Nat, x ≠ some (.hole h)) ∧
      positions[(1000 - 1000 : BitVec 32).toNat]? = some (some (.accepted 3 0)) ∧
      positions[(1000 - 998 : BitVec 32).toNat]? = some none ∧
      positions[(1000 - 997 : BitVec 32).toNat]? = some (some .lost) ∧
      positions.length ≤ (1000 - 996 : BitVec 32).toNat ∧ (1000 - 745 : BitVec 32).toNat = 255) ∧
    -- A window of holes, one position short of full and full; 256 above a window whose holes are all newer.
    ((List.replicate 255 (some (Position.hole 9999000))).length < 256 ∧
      (List.replicate 256 (some (Position.hole 9999000))).length = 256 ∧
      (∀ x ∈ List.replicate 256 (some (Position.hole 9999000)), ∃ h : Nat, x = some (.hole h)) ∧
      (1001 - 1000 : BitVec 32).toNat + positions.length < 256 ∧
      (∃ x ∈ positions.take (256 - 1), ∀ h : Nat, x ≠ some (.hole h))) ∧
    -- The rings with one free slot and with none.
    ((ring31 1).roomy (· = 1) ∧ (ring31 0).roomy (· = 0) ∧ (ring31 1).pending = [] ∧
      { ring31 0 with place := none }.place = none ∧ behindSeven.pending ≠ [] ∧ behindSeven.pending.length < 8) ∧
    -- A full window whose oldest position alone is a hole.
    (oldestOpen.length = 256 ∧ oldestOpen[255]? = some (some (.hole 9999000)) ∧
      (∃ x ∈ oldestOpen.dropLast, ∀ h : Nat, x ≠ some (.hole h))) ∧
    (255 < (1000 - 744 : BitVec 32).toNat ∧ 2 ^ 31 ≤ (744 - 1000 : BitVec 32).toNat) :=
  ⟨⟨rfl, rfl, rfl, rfl, by show (joining none).paths[0].state ≠ .off; decide +kernel, rfl,
      by show (3 : Site) ≠ (joining none).ownSite; decide +kernel,
      by show (joining none).OnlyPath 0 0; unfold State.OnlyPath; decide +kernel, rfl, rfl, rfl, rfl, rfl⟩,
    by simp, by simp, by decide, by decide, by simp [positions], by simp [positions],
    ⟨by decide +kernel, by decide +kernel, fun _ h => ⟨_, List.eq_of_mem_replicate h⟩, by decide, by simp [positions]⟩,
    ⟨⟨_, _, rfl, by decide⟩, ⟨_, _, rfl, by decide⟩, rfl, rfl, by decide, by decide⟩,
    ⟨by decide +kernel, by decide +kernel, ⟨some .lost, by decide +kernel, by simp⟩⟩, by decide⟩

/-- Holes of site 3's urgent window that have and have not lived their time, with a ring or without. -/
def holed (ring : RxRing) : State := up.updSite 3 (fun x =>
  { x with
    ring := ring
    urgent := { x.urgent with
      epoch := 1
      top := some 4
      map := [some .lost, some (.hole 9995000), some (.hole 9995001)]
      holeDue := some 10000000 } })

/-- A write of the control line of a one-page ring, at the arbiter, with so many pending records. -/
def handing (v : Nat) (pending : List RingRecord) : State :=
  let s := up.updSite 3 (fun x => { x with ring := ⟨some (6400, 31), 30, true, 30, pending⟩ })
  { s with mi := { s.mi with head := some ⟨[⟨.write 6400
    [List.replicate 8 none ++ (leBytes 4 v).map some ++ List.replicate 52 none],
    some ⟨true, 100, 100, .receive, 3, false, false⟩⟩], []⟩ } }

theorem witness_OldHolesAreLost :
    (∀ ring : RxRing, (holed ring).isReady = true ∧ ((holed ring).rmu[3].window .urgent).holeDue = some 10000000 ∧
      ((holed ring).rmu[3].window .urgent).top = some 4 ∧
      ((holed ring).rmu[3].window .urgent).map[1]? = some (some (.hole 9995000)) ∧
      ((holed ring).rmu[3].window .urgent).map[2]? = some (some (.hole 9995001)) ∧
      ((holed ring).rmu[3].window .urgent).timeout = 5000 ∧ (holed ring).rmu[3].ring = ring) ∧
    10000000 ≤ (holed (ring31 1)).now ∧ 9995000 + 5000 ≤ 10000000 ∧ 10000000 < 9995001 + 5000 ∧
    (ring31 1).pending = [] ∧ 1 ≤ freeSlots 31 (ring31 1).consumer (ring31 1).producer := by
  refine ⟨fun ring => ⟨rfl, rfl, rfl, rfl, rfl, rfl, rfl⟩, ?_⟩
  show 10000000 ≤ (10000000#64).toNat ∧ _
  decide

/-- Values at N and below it, with no record and with one, the ring with room and, at value 0, without. -/
theorem witness_OldHolesAreLost_handed : ∀ v ∈ [31, 30, 29, 0],
    ∀ pending ∈ [[], [RingRecord.gap .urgent 1 4 1 .timeout false]],
    (handing v pending).isReady = true ∧ (handing v pending).mi.own = [] ∧ 31 = 32 * (100 + 1 - 100) - 1 ∧
    (handing v pending).rmu[3].ring.place = some (100 * 64, 31) ∧ (handing v pending).rmu[3].ring.pending = pending ∧
    enabledRun (List.replicate 8 none ++ (leBytes 4 v).map some ++ List.replicate 52 none) 8 4 = some (leBytes 4 v) ∧
    v < 2 ^ 32 ∧ (handing v pending).mi.head = some ⟨[⟨.write (100 * 64)
      [List.replicate 8 none ++ (leBytes 4 v).map some ++ List.replicate 52 none],
      some ⟨true, 100, 100, .receive, 3, false, false⟩⟩], []⟩ ∧
    freeSlots 31 29 30 = 29 ∧ freeSlots 31 0 30 = 0 := by decide +kernel

theorem witness_RequestIsQueued :
    (MemReq.read (2 ^ 30 - 4) 4).wellFormed = true ∧ up.startUp.phase ≠ .inReset ∧
    (MemReq.read 0 5).countOk = false ∧ (MemReq.write 0 [[]]).linesOk = false ∧
    (MemReq.read (2 ^ 30 - 3) 4).countOk = true ∧ (MemReq.read (2 ^ 30 - 3) 4).linesOk = true ∧
    (MemReq.read (2 ^ 30 - 3) 4).inSpace = false := by decide

theorem witness_RequestIsQueued_settled : up.Settled := settled_of_fresh ⟨rfl, rfl, rfl, rfl⟩

/-- A read before ready, with an own write pending to its line. -/
def early : State :=
  { State.reset with
    startUp := { StartUp.reset with phase := .starting }
    mi := { Interposer.reset with queue := [.read 60 4], own := [⟨5, 63, some [], .startUp⟩] } }

theorem witness_PlainRequestIsHeld : early.isReady = false ∧ early.mi.head = none ∧
    early.mi.queue = .read 60 4 :: [] ∧ 4 ≤ 64 - 60 % 64 ∧ early.pendingWrites = [(5, 63)] := by decide +kernel

theorem witness_PlainRequestIsHeld_settled : early.Settled := settled_of_fresh ⟨rfl, rfl, rfl, rfl⟩

/-- A write to a page that window 0 guards. -/
def guarded : State :=
  { up with mi := { Interposer.reset with
    windows := (windowsAt 0x10).set 0 ⟨true, 8, 9, .guard, 0, false, true⟩
    queue := [.write 512 [List.replicate 64 (some 1)]] } }

theorem witness_GuardedWriteIsDropped : guarded.isReady = true ∧ guarded.mi.head = none ∧ guarded.mi.answers = [] ∧
    guarded.mi.queue = .write 512 [List.replicate 64 (some 1)] :: [] ∧
    noneEnabled (List.replicate 64 (some 1)) = false ∧ guarded.mi.windows[0].enabled = true ∧
    guarded.mi.windows[0].kind = .guard ∧ guarded.mi.windows[0].writeBlock = true ∧
    guarded.mi.windows[0].base ≤ 512 / 64 ∧ 512 / 64 ≤ guarded.mi.windows[0].limit ∧
    (∀ j : EntryNo, j < 0 → guarded.mi.windows[j].enabled = true →
      512 / 64 < guarded.mi.windows[j].base ∨ guarded.mi.windows[j].limit < 512 / 64) := by decide +kernel

/-- A plain head and an own request both present. -/
def contended (last : Bool) : State :=
  { up with mi := { Interposer.reset with
    head := some ⟨[⟨.read 0 1, none⟩], []⟩
    own := [⟨0, 9, none, .listRead⟩]
    lastForwarded := last } }

theorem witness_ArbiterAlternates (last : Bool) : (contended last).Settled ∧
    (contended last).mi.head = some ⟨[⟨.read 0 1, none⟩], []⟩ ∧ (contended last).mi.own = [⟨0, 9, none, .listRead⟩] ∧
    (contended last).mi.lastForwarded = last := ⟨settled_of_fresh ⟨rfl, rfl, rfl, rfl⟩, rfl, rfl, rfl⟩

/-- The window of ring 2, and a whole write of a slot's header line. -/
def ring2 : Window := ⟨true, 64, 64, .transmit, 2, false, false⟩

def headerLine : WLine := ([5, 8, 0, 0, 0xA1] ++ List.replicate 59 0).map some

/-- A posting of slot 31, the last of ring 2's one page, at the arbiter. -/
def posting : State :=
  { up with
    cu := { CaptureUnit.reset with
      rings := (Vector.replicate 4 none).set 2 (some ⟨64, 64, List.replicate 32 ⟨false, true⟩⟩) }
    mi := { Interposer.reset with head := some ⟨[⟨.write (64 * 64 + 2 * 31) [headerLine], some ring2⟩], []⟩ } }

theorem witness_PostingIsCaptured : posting.isReady = true ∧ posting.mi.own = [] ∧ ring2.kind = .transmit ∧
    ring2.param = 2 ∧ posting.cu.rings[2] = some ⟨64, 64, List.replicate 32 ⟨false, true⟩⟩ ∧ 64 = ring2.base ∧
    64 = ring2.limit ∧ (List.replicate 32 (⟨false, true⟩ : Slot))[31]? = some ⟨false, true⟩ ∧
    posting.mi.head = some ⟨[⟨.write (64 * 64 + 2 * 31) [headerLine], some ring2⟩], []⟩ ∧ headerLine.length = 64 ∧
    headerLine[4]? = some (some 0xA1) ∧ (∀ i ∈ List.range 4, enabledAt headerLine i = true) := by decide +kernel

/-- A write of block 7, in a state, at the arbiter. -/
def issuing (st : BlockState) (w : WLine) : State :=
  { up with mi := { Interposer.reset with
    head := some ⟨[⟨.write (0x10 * 64 + 6 + 7) [w], some ⟨true, 0x10, 0x10, .control, 0, false, false⟩⟩], []⟩ } }.updBlock 7
      (fun x => { x with state := st })

/-- A block's bytes, with a tag. -/
def blockBytes (tag : Byte) : List Byte := 16 :: tag :: List.replicate 62 0

/-- Whole writes with a tag not seen and with the last, and writes of a block in part: without its tag, without byte 3,
and of a tag not seen alone. -/
theorem witness_IssueJoinsPending (st : BlockState) :
    (issuing .idle ((blockBytes 3).map some)).isReady = true ∧ (issuing .idle ((blockBytes 3).map some)).mi.own = [] ∧
    (blockBytes 3).length = 64 ∧ (issuing .idle ((blockBytes 3).map some)).cmd.blocks[7].state = .idle ∧
    (blockBytes 3)[1]? ≠ some (issuing .idle ((blockBytes 3).map some)).cmd.blocks[7].lastTag ∧
    (∀ x ∈ [((blockBytes 3).map some, some 3), ((blockBytes 0).map some, some 0),
        (((blockBytes 3).map some).set 1 none, none), (((blockBytes 3).map some).set 3 none, some 3), (none :: some 3 :: List.replicate 62 none, some (3 : Byte))],
      (issuing st x.1).isReady = true ∧ (issuing st x.1).mi.own = [] ∧ x.1.length = 64 ∧ x.1[1]? = some x.2 ∧
      (issuing st x.1).cmd.blocks[7].state = st ∧ (issuing st x.1).cmd.blocks[7].lastTag = 0 ∧
      (issuing st x.1).mi.head = some ⟨[⟨.write ((issuing st x.1).mi.windows[14].base * 64 + 6 + (7 : BlockNo).val) [x.1],
        some ⟨true, 0x10, 0x10, .control, 0, false, false⟩⟩], []⟩) ∧
    none ∈ (none :: some 3 :: List.replicate 62 none : WLine) ∧ (((blockBytes 3).map some).set 3 none)[3]? = some none := by
  cases st <;> decide +kernel

theorem witness_IssueJoinsPending_settled (st : BlockState) (w : WLine) : (issuing st w).Settled :=
  settled_of_fresh ⟨rfl, rfl, rfl, rfl⟩

/-- A read of one line is outstanding. -/
def waiting (cause : Bool) : State :=
  { up with
    mi := { Interposer.reset with outstanding := [.forwarded 1 cause], answers := [[.waiting]] }
    cmd := { up.cmd with reRaise := [1], causes := 3 } }

theorem witness_ReadIsAnswered : (waiting false).Settled ∧ (waiting false).mi.outstanding = .forwarded 1 false :: [] ∧
    (waiting false).mi.answers = [[.waiting]] ∧ (List.replicate 64 (1 : Byte)).length = 64 :=
  ⟨settled_of_fresh ⟨rfl, rfl, rfl, rfl⟩, rfl, rfl, by simp⟩

theorem witness_CauseReadClears : (waiting true).mi.outstanding = .forwarded 1 true :: [] ∧
    (waiting true).cmd.reRaise = 1 :: [] ∧ (List.replicate 64 (1 : Byte)).length = 64 := ⟨rfl, rfl, by simp⟩

/-- A group of three lines waits behind a queue of the given length. -/
def queued (n : Nat) : State :=
  { up with mi := { Interposer.reset with
    own := List.replicate n ⟨0, 9, none, .listRead⟩
    waiting := [⟨List.replicate 3 ⟨1, 9, none, .receiveSlot⟩, .nothing⟩] } }

theorem witness_GroupJoinsWhole :
    (queued 29).mi.waiting = ⟨List.replicate 3 ⟨1, 9, none, .receiveSlot⟩, .nothing⟩ :: [] ∧
    (∀ r ∈ List.replicate 3 (⟨1, 9, none, .receiveSlot⟩ : OwnReq),
      r.tag ≠ .summary ∧ r.tag ≠ .hopsLow ∧ r.tag ≠ .hopsHigh) ∧
    (queued 29).mi.own.length + 3 ≤ 32 ∧ 32 < (queued 30).mi.own.length + 3 := by decide +kernel

theorem witness_GroupJoinsWhole_settled (n : Nat) : (queued n).Settled := settled_of_fresh ⟨rfl, rfl, rfl, rfl⟩

/-- An own request of a tag is outstanding, with block 0 CLOSING and a record of site 3 that gathers its payload. -/
def answering (w : Option WLine) (tag : OwnTag) (head : WLine) (body : Option (List Byte)) : State :=
  { up with
    mi := { Interposer.reset with outstanding := [.own ⟨4, 0, w, tag⟩] }
    cu := { CaptureUnit.reset with
      rings := (Vector.replicate 4 none).set 0 (some ⟨64, 64, List.replicate 32 ⟨true, false⟩⟩)
      records := [{ record3 .waiting with head := head, body := body, phase := .assembling }] } }.updBlock 0
    (fun x => { x with state := .closing, overrun := true })

theorem witness_CompletionIsAnswered (w : Option WLine) (tag : OwnTag) (head : WLine) (body : Option (List Byte)) :
    (answering w tag head body).Settled ∧ (answering w tag head body).mi.outstanding = .own ⟨4, 0, w, tag⟩ :: [] ∧
    (answering w tag head body).cmd.blocks[0].state = .closing ∧
    (answering w tag head body).recordOf 4096 =
      some { record3 .waiting with head := head, body := body, phase := .assembling } ∧
    (record3 .waiting).hdr = 4096 ∧ 64 * 64 + 2 * 0 = 4096 ∧ (List.replicate 64 (1 : Byte)).length = 64 ∧
    enabledRun [some 1, some 2, some 3] 0 (min 3 32) = some [1, 2, 3] :=
  ⟨settled_of_fresh ⟨rfl, rfl, rfl, rfl⟩, rfl, rfl, rfl, rfl, rfl, by simp, by decide⟩

/-! Commands: `issued_takes` gives `Takes` for each of these. -/

/-- The notify flag of block 0's issuing copy is set. -/
def notified (s : State) : State := s.updBlock 0 (fun x => { x with copy := x.copy.set 2 1 })

/-- The notify flag clear and set. -/
theorem witness_BadCodeEndsAtOnce : (issued 0 [] up).Takes 0 [] 0 [] ∧ (issued 23 [] up).Takes 0 [] 23 [] ∧ 22 < 23 ∧
    (notified (issued 0 [] up)).Takes 0 [] 0 [] ∧ (issued 0 [] up).Settled ∧ (notified (issued 0 [] up)).Settled ∧
    (issued 0 [] up).mi.waiting = [] ∧ (issued 0 [] up).mi.own.length < 32 ∧
    ((issued 0 [] up).cmd.blocks[0].copy.getD 2 0).getLsbD 0 = false ∧
    ((notified (issued 0 [] up)).cmd.blocks[0].copy.getD 2 0).getLsbD 0 = true :=
  ⟨issued_takes 0 [] up rfl rfl, issued_takes 23 [] up rfl rfl, by decide,
    ⟨rfl, rfl, rfl, by decide +kernel, by decide +kernel⟩, settled_of_fresh ⟨rfl, rfl, rfl, rfl⟩,
    settled_of_fresh ⟨rfl, rfl, rfl, rfl⟩, rfl, by show 0 < 32; decide, by decide +kernel, by decide +kernel⟩

/-- The parameters of a SET_WINDOW. -/
def windowParams (entry enable kind param flags : Byte) (base limit : Nat) : List Byte :=
  [entry, enable, kind, param, flags, 0, 0, 0] ++ leBytes 4 base ++ leBytes 4 limit

/-- Entry 0 is ring 2's, entry 1 site 3's and entry 2 a GUARD range. -/
def placed : State :=
  { up with mi := { Interposer.reset with
    windows := (((windowsAt 0x10).set 0 ⟨true, 64, 71, .transmit, 2, false, false⟩).set 1
      ⟨true, 72, 72, .receive, 3, false, false⟩).set 2 ⟨true, 80, 80, .guard, 0, true, true⟩ } }

/-- Entry 13 as a GUARD range that shares a page with another, as TRANSMIT and RECEIVE windows of eight pages up to
the last, each clear of what stands. -/
theorem witness_GuardEntryIsStored :
    (∀ p : List Byte, (issued 1 p placed).Takes 0 [] 1 p) ∧
    (let p := windowParams 13 255 5 0 2 80 16777215
     byteAt p 0 = (13 : EntryNo).val ∧ (13 : EntryNo) < 14 ∧ byteAt p 1 ≠ 0 ∧ p.getD 2 0 = 5 ∧
     placed.mi.windows[(13 : EntryNo)].enabled = false ∧ field p 8 4 ≤ field p 12 4 ∧ field p 12 4 ≤ 16777215 ∧
     placed.clearOf 13 (fun w => w.kind ≠ .guard) (field p 8 4) (field p 12 4)) ∧
    (∀ kind : Byte, kind = 1 ∨ kind = 2 →
     let p := windowParams 13 1 kind 1 0 16777208 16777215
     byteAt p 0 = (13 : EntryNo).val ∧ p.getD 2 0 = kind ∧ byteAt p 3 = (1 : RingNo).val ∧
     byteAt p 3 = (1 : Site).val ∧ (1 : Site) ≠ placed.ownSite ∧ field p 8 4 ≤ field p 12 4 ∧
     field p 12 4 < field p 8 4 + 8 ∧ field p 12 4 ≤ 16777215 ∧
     placed.clearOf 13 (fun _ => True) (field p 8 4) (field p 12 4)) ∧
    (∀ i : EntryNo, i ≠ 13 → placed.mi.windows[i].enabled = true → placed.mi.windows[i].kind = .transmit ∨
      placed.mi.windows[i].kind = .receive → placed.mi.windows[i].param ≠ 1) ∧
    placed.cu.records = [] ∧ placed.rmu[(1 : Site)].ring.pending = [] := by
  refine ⟨fun p => issued_takes 1 p placed rfl rfl, ?_, ?_, ?_⟩
  · unfold State.clearOf; decide +kernel
  · unfold State.clearOf; rintro kind (rfl | rfl) <;> decide +kernel
  · decide +kernel

/-- Entries 0 and 1 disabled as they stand and with each field another; entry 15 moved; and the refused ones. -/
theorem witness_GuardEntryIsStored_kept :
    (∀ e : EntryNo, e = 0 ∨ e = 1 → placed.mi.windows[e].enabled = true ∧
      (placed.mi.windows[e].kind = .transmit ∨ placed.mi.windows[e].kind = .receive)) ∧
    (let p := windowParams 0 0 1 2 0 64 71
     byteAt p 0 = (0 : EntryNo).val ∧ byteAt p 1 = 0 ∧ field p 8 4 = placed.mi.windows[(0 : EntryNo)].base ∧
     field p 12 4 = placed.mi.windows[(0 : EntryNo)].limit ∧ p.getD 2 0 = placed.mi.windows[(0 : EntryNo)].kind.code ∧
     byteAt p 3 = placed.mi.windows[(0 : EntryNo)].param ∧ byteAt p 3 = (2 : RingNo).val) ∧
    (let p := windowParams 1 0 2 3 0 72 72
     byteAt p 0 = (1 : EntryNo).val ∧ field p 8 4 = placed.mi.windows[(1 : EntryNo)].base ∧
     field p 12 4 = placed.mi.windows[(1 : EntryNo)].limit ∧ p.getD 2 0 = placed.mi.windows[(1 : EntryNo)].kind.code ∧
     byteAt p 3 = placed.mi.windows[(1 : EntryNo)].param ∧ byteAt p 3 = (3 : Site).val) ∧
    byteAt (windowParams 1 0 2 4 0 72 72) 3 ≠ placed.mi.windows[(1 : EntryNo)].param ∧
    field (windowParams 1 0 2 3 0 72 73) 12 4 ≠ placed.mi.windows[(1 : EntryNo)].limit ∧
    (let p := windowParams 15 1 4 0 0 73 73
     byteAt p 0 = 15 ∧ byteAt p 1 ≠ 0 ∧ p.getD 2 0 = 4 ∧ field p 8 4 = field p 12 4 ∧ field p 12 4 ≤ 16777215 ∧
     placed.clearOf 15 (fun _ => True) (field p 8 4) (field p 12 4) ∧
     placed.mi.windows[15].kind ≠ .transmit ∧ placed.mi.windows[15].kind ≠ .receive) ∧
    15 < byteAt (windowParams 16 0 0 0 0 0 0) 0 ∧ byteAt (windowParams 14 1 3 0 0 16 16) 0 = 14 ∧
    byteAt (windowParams 15 0 4 0 0 17 17) 1 = 0 ∧ (windowParams 15 1 5 0 0 17 17).getD 2 0 ≠ 4 := by
  unfold State.clearOf; decide +kernel

set_option synthInstance.maxSize 512 in
/-- What may change: a disabled entry and an enabled GUARD one, but no enabled TRANSMIT or RECEIVE one. Of ring 1's open
record, on page 64, a range that holds it and one that stops short. -/
theorem witness_GuardEntryIsStored_changed :
    (placed.mayChange 13 ∧ placed.mayChange 2 ∧ placed.mayChange 15 ∧ ¬ placed.mayChange 0 ∧ ¬ placed.mayChange 1) ∧
    (let s := { withRecord .none placed with cu := { CaptureUnit.reset with records := [{ record3 .none with ring := 1 }] } }
     s.cu.records.map (fun x => (x.ring, x.hdr / 64)) = [(1, 64)] ∧
     (∀ p : List Byte, (issued 1 p s).Takes 0 [] 1 p) ∧
     (∀ x ∈ s.cu.records, x.ring = 2 → 64 ≤ x.hdr / 64 ∧ x.hdr / 64 ≤ 71)) ∧
    -- The GUARD flags of entries 0 and 1 alone, and an entry left disabled.
    (¬ placed.badWindow 0 1 2 64 71 ∧ ¬ placed.badWindow 1 2 3 72 72 ∧ placed.cu.records = [] ∧
     (∀ r : Site, placed.rmu[r].ring.pending = [])) ∧
    (let p := windowParams 0 1 1 2 3 64 71
     byteAt p 0 = (0 : EntryNo).val ∧ byteAt p 1 ≠ 0 ∧ field p 8 4 = placed.mi.windows[(0 : EntryNo)].base ∧
     field p 12 4 = placed.mi.windows[(0 : EntryNo)].limit ∧ p.getD 2 0 = placed.mi.windows[(0 : EntryNo)].kind.code ∧
     byteAt p 3 = placed.mi.windows[(0 : EntryNo)].param ∧ (p.getD 4 0).getLsbD 0 = true) ∧
    byteAt (windowParams 13 0 9 99 0 (2 ^ 32 - 1) 0) 1 = 0 := by
  unfold State.mayChange State.badWindow State.namesToo State.sharesWith
  refine ⟨by decide +kernel, ⟨by decide +kernel, fun p => issued_takes 1 p _ rfl rfl, by decide +kernel⟩, ?_, ?_, ?_⟩ <;>
    decide +kernel

set_option synthInstance.maxSize 512 in
/-- Each BAD_PARAM check fails at its boundary, and passes one short of it. -/
theorem witness_GuardEntryIsStored_bad :
    (∀ x ∈ [((13 : EntryNo), (5 : Byte), 0, 101, 100), (13, 5, 0, 100, 16777216), (13, 5, 0, 16777216, 16777216),
        (13, 3, 0, 100, 100), (13, 4, 0, 100, 100), (15, 4, 0, 100, 101), (13, 1, 4, 100, 100), (13, 1, 2, 100, 100),
        (13, 1, 1, 100, 108), (13, 2, 8, 100, 100), (13, 2, 0, 100, 100), (13, 2, 3, 100, 100), (13, 2, 1, 100, 108),
        (13, 5, 0, 16, 16), (13, 1, 1, 80, 80), (13, 2, 1, 81, 80), (15, 4, 0, 72, 72), (13, 5, 0, 72, 79)],
      placed.badWindow x.1 x.2.1 x.2.2.1 x.2.2.2.1 x.2.2.2.2) ∧
    (∀ x ∈ [((13 : EntryNo), (5 : Byte), 0, 100, 16777215), (15, 4, 0, 100, 100), (13, 1, 3, 100, 107),
        (13, 2, 7, 100, 107), (13, 5, 0, 73, 80), (2, 1, 0, 80, 80)],
      ¬ placed.badWindow x.1 x.2.1 x.2.2.1 x.2.2.2.1 x.2.2.2.2) := by
  unfold State.badWindow State.namesToo State.sharesWith; decide +kernel

theorem witness_PortIsSet : ∀ kind : PortKind,
    (issued 2 [5, kind.code] up).Takes 0 [] 2 [5, kind.code] ∧
    field (issued 2 [5, kind.code] up).cmd.blocks[(0 : BlockNo)].copy 8 8 = 0 ∧ byteAt [5, kind.code] 0 = (5 : PortNo).val ∧
    byteAt [5, kind.code] 1 = (if kind = .radio then 1 else 2) ∧
    (∀ q : PathNo, up.paths[q].port = 5 → up.paths[q].state = .off) := by
  intro kind
  refine ⟨issued_takes 2 _ up rfl rfl, ?_, rfl, ?_, ?_⟩
  · cases kind <;> decide +kernel
  · cases kind <;> decide
  · decide +kernel

theorem witness_ListIsRead :
    (issuedAt (leBytes 8 64) 2 [5, 1, 24] up).Takes 0 [] 2 [5, 1, 24] ∧
    (issuedAt (leBytes 8 64) 3 [1, 0] up).Takes 0 [] 3 [1, 0] ∧ (issuedAt (leBytes 8 64) 3 [1, 0] up).Settled ∧
    field (issuedAt (leBytes 8 64) 3 [1, 0] up).cmd.blocks[(0 : BlockNo)].copy 8 8 = 64 * 1 ∧ 0 < 1 ∧ 1 < 2 ^ 30 ∧
    1 ≤ field ([1, 0] : List Byte) 0 2 ∧
    (∀ q : PathNo, up.paths[q].port = 5 → up.paths[q].state = .off) :=
  ⟨issuedAt_takes _ 2 _ up rfl rfl rfl, issuedAt_takes _ 3 _ up rfl rfl rfl, settled_of_fresh ⟨rfl, rfl, rfl, rfl⟩,
    by decide +kernel, by decide, by decide, by decide, by decide +kernel⟩

/-- The line of a list is outstanding, the command waiting on it; hop 5 stands on port 0, whose path is OFF. -/
def listing (e : Exec) (p : List Byte) : State :=
  let s := issuedAt (leBytes 8 64) 3 p (withPath .off .clear up)
  { s with
    cmd := { s.cmd with exec := some e, pending := [] }
    mi := { s.mi with outstanding := [.own ⟨0, 1, none, .listRead⟩] } }

/-- A record of a hop. -/
def hopRecord (h : Byte) : List Byte := [h, 0, 0x76, 0xFD, 0xE0, 0xFC, 30, 2]

/-- A line of seven records that may be applied, hop 5 twice, and one of hop 96. -/
def recordLine : List Byte := [5, 10, 5, 0, 95, 11, 12, 96].flatMap hopRecord

/-- A line whose eighth record is refused, eight left; one whose first is, seven bytes of it held over from the line
before; a line of a list with one and with seven records left; and one of a list with more than eight. -/
theorem witness_ListIsRead_records :
    recordLine.length = 64 ∧
    (∀ x ∈ [(([] : List Byte), 8, [5, 10, 5, 0, 95, 11, 12], hopRecord 96),
        ((hopRecord 96).take 7, 1, [], (hopRecord 96).take 7 ++ recordLine), ([], 1, [5], recordLine.drop 8),
        ([], 7, [5, 10, 5, 0, 95, 11, 12], hopRecord 96)],
      x.1 ++ recordLine = ((x.2.2.1.map hopRecord).flatten ++ x.2.2.2 : List Byte) ∧ x.2.2.1.length ≤ x.2.1) ∧
    (let data := [5, 10, 5, 0, 95, 11, 12, 13].flatMap hopRecord
     data.length = 64 ∧ data = (([5, 10, 5, 0, 95, 11, 12, 13] : List Byte).map hopRecord).flatten ++ [] ∧
     ([] : List Byte).length < 8) ∧
    95 < byteAt ((hopRecord 96).take 7 ++ recordLine) 0 ∧ 95 < byteAt (hopRecord 96) 0 ∧ byteAt (hopRecord 5) 0 = (5 : HopNo).val ∧
    (∀ x ∈ ([0, 5, 10, 11, 12, 13, 95] : List Byte), (listing (.hopList 0 1 [] 8) []).takesRecord (hopRecord x)) ∧
    (listing (.hopList 0 1 [] 8) []).RefusesRecord (hopRecord 96) .badParam := by
  refine ⟨by decide +kernel, by decide +kernel, by decide +kernel, by decide +kernel, by decide +kernel,
    by decide +kernel, ?_, .noHop (by decide +kernel)⟩
  have off : ∀ q : PathNo, (listing (.hopList 0 1 [] 8) []).paths[q].state = .off := by decide +kernel
  simp only [List.mem_cons, List.not_mem_nil, or_false]
  rintro x (rfl | rfl | rfl | rfl | rfl | rfl | rfl)
  · exact ⟨rfl, 0, by decide, fun _ _ _ q _ => off q⟩
  · exact ⟨rfl, 5, by decide, fun _ _ _ q _ => off q⟩
  · exact ⟨rfl, 10, by decide, fun _ _ _ q _ => off q⟩
  · exact ⟨rfl, 11, by decide, fun _ _ _ q _ => off q⟩
  · exact ⟨rfl, 12, by decide, fun _ _ _ q _ => off q⟩
  · exact ⟨rfl, 13, by decide, fun _ _ _ q _ => off q⟩
  · exact ⟨rfl, 95, by decide, fun _ _ _ q _ => off q⟩

/-- With the path of port 0 on, a record of hop 5 is refused. -/
theorem witness_ListIsRead_inUse :
    ((listing (.hopList 0 1 [] 8) []).updPath 0 (fun x => { x with state := .down })).RefusesRecord recordLine .notOff :=
  .inUse 5 0 1 0 (by decide +kernel) (by decide +kernel) (by decide +kernel) (by decide +kernel)

/-- Chains that fail: of a hop above 95, of a hop twice, and of hop 5, which stands on another port. -/
theorem witness_ListIsRead_badChain :
    (∃ x ∈ (96 :: List.replicate 63 (0 : Byte)).take 1, 95 < x.toNat) ∧
    ¬ ((List.replicate 64 (0 : Byte)).take 2).Nodup ∧
    (listing (.portList 0 1 []) [1, 1, 1]).hops[(5 : HopNo)].place = some (0, 1) ∧
    ((5 :: List.replicate 63 0 : List Byte).take 1).map (·.toNat) = [(5 : HopNo).val] ∧ (0 : PortNo) ≠ 1 := by
  decide +kernel

/-- A record of hop 5, one of a hop that does not exist, and a chain of 24 hops, hop 5 the last. -/
theorem witness_ListIsRead_answered :
    (∀ e ∈ [Exec.hopList 0 1 [] 1, .portList 0 1 []],
      (listing e [0, 1, 24]).mi.outstanding = .own ⟨0, 1, none, .listRead⟩ :: [] ∧ (listing e [0, 1, 24]).cmd.exec = some e ∧
      field (listing e [0, 1, 24]).cmd.blocks[(0 : BlockNo)].copy 8 8 = 64 * 1 ∧ 1 < 2 ^ 30 ∧
      (listing e [0, 1, 24]).cmd.blocks[(0 : BlockNo)].copy.drop 16 = [0, 1, 24] ∧
      (listing e [0, 1, 24]).hops[5].place = some (0, 1) ∧
      (∀ q : PathNo, (listing e [0, 1, 24]).paths[q].port = 0 → (listing e [0, 1, 24]).paths[q].state = .off)) ∧
    byteAt (5 :: List.replicate 63 0) 0 = (5 : HopNo).val ∧ 95 < byteAt (96 :: List.replicate 63 0) 0 ∧
    (5 :: List.replicate 63 (0 : Byte)).length = 64 ∧
    (let chain : List HopNo := (List.finRange 96).drop 73 ++ [5]
     chain.length = 24 ∧ chain.Nodup ∧
     (chain.map (fun (h : HopNo) => BitVec.ofNat 8 h.val) ++ List.replicate 40 0).take 24 =
       chain.map (fun (h : HopNo) => BitVec.ofNat 8 h.val) ∧
     (∀ h ∈ chain, (listing (.portList 0 1 []) [0, 1, 24]).hops[h].place = none ∨
       (listing (.portList 0 1 []) [0, 1, 24]).hops[h].place = some (0, 1)) ∧
     byteAt [0, 1, 24] 0 = (0 : PortNo).val ∧ byteAt [0, 1, 24] 1 = 1 ∧ byteAt [0, 1, 24] 2 = chain.length) := by
  decide +kernel

theorem witness_PathIsSet :
    (issued 4 [16] up).Takes 0 [] 4 [16] ∧ 15 < byteAt [16] 0 ∧
    (issued 4 [0] probing).Takes 0 [] 4 [0] ∧ (issued 4 [0] probing).paths[(0 : PathNo)].state ≠ .off ∧
    (issued 4 [15, 6] up).Takes 0 [] 4 [15, 6] ∧ 5 < byteAt [15, 6] 1 ∧
    (issued 4 [15, 0, 3, 1] dark).Takes 0 [] 4 [15, 0, 3, 1] ∧
    (let s := issued 4 [15, 0, 3, 1] dark
     let p : List Byte := [15, 0, 3, 1]
     byteAt p 0 = (15 : PathNo).val ∧ s.paths[(15 : PathNo)].state = .off ∧ byteAt p 1 = (0 : PortNo).val ∧
     byteAt p 2 = (3 : Site).val ∧ (3 : Site) ≠ s.ownSite ∧ byteAt p 3 ≠ 0 ∧
     byteAt p 3 ≤ s.ports[(0 : PortNo)].chain.length ∧
     (∀ x : Site, x ≠ 3 → (15 : PathNo) ∉ s.rs.routes[x].cands)) :=
  ⟨issued_takes 4 _ up rfl rfl, by decide, issued_takes 4 _ probing rfl rfl, by decide +kernel,
    issued_takes 4 _ up rfl rfl, by decide, issued_takes 4 _ dark rfl rfl, by decide +kernel⟩

theorem witness_PathIsSwitched :
    (issued 5 [0] (withPath .off .clear up)).Takes 0 [] 5 [0] ∧ (issued 6 [0] probing).Takes 0 [] 6 [0] ∧
    byteAt [0] 0 = (0 : PathNo).val ∧ (issued 6 [0] probing).paths[(0 : PathNo)].state ≠ .off ∧
    (let s := issued 5 [0] (withPath .off .clear up)
     s.paths[(0 : PathNo)].state = .off ∧ s.paths[(0 : PathNo)].configured = true ∧
     s.paths[(0 : PathNo)].drop ≤ s.ports[s.paths[(0 : PathNo)].port].chain.length ∧ s.paths[(0 : PathNo)].drop ≠ 0 ∧
     (∀ x : PathNo, x ≠ 0 → s.paths[x].state ≠ .off →
       s.paths[x].port ≠ s.paths[(0 : PathNo)].port ∨ s.paths[x].site ≠ s.paths[(0 : PathNo)].site) ∧
     passable s 0 = true ∧ passable (issued 5 [0] (withPath .off .down up)) 0 = false) :=
  ⟨issued_takes 5 _ _ rfl rfl, issued_takes 6 _ _ rfl rfl, by decide, by decide +kernel, by decide +kernel⟩

theorem witness_RouteIsSet :
    (issued 7 [8, 1] up).Takes 0 [] 7 [8, 1] ∧ 7 < byteAt [8, 1] 0 ∧
    (issued 7 [3, 4, 0, 0, 0, 0] probing).Takes 0 [] 7 [3, 4, 0, 0, 0, 0] ∧ 3 < byteAt [3, 4, 0, 0, 0, 0] 1 ∧
    byteAt [3, 4, 0, 0, 0, 0] (2 + 2) = byteAt [3, 4, 0, 0, 0, 0] (2 + 3) ∧
    (issued 7 [3, 1, 0, 0, 0, 0, 2] probing).Takes 0 [] 7 [3, 1, 0, 0, 0, 0, 2] ∧
    (let s := issued 7 [3, 1, 0, 0, 0, 0, 2] probing
     let p : List Byte := [3, 1, 0, 0, 0, 0, 2]
     byteAt p 0 = (3 : Site).val ∧ (3 : Site) ≠ s.ownSite ∧ byteAt p 1 = [(0 : PathNo)].length ∧
     (p.drop 2).take [(0 : PathNo)].length = [(0 : PathNo)].map (fun c => BitVec.ofNat 8 c.val) ∧ [(0 : PathNo)].Nodup ∧
     (∀ c ∈ [(0 : PathNo)], s.paths[c].configured = true ∧ s.paths[c].site = 3) ∧ p.getD 6 0 = DualMode.always.code ∧
     (∀ x ∈ [(0 : PathNo)], s.paths[x].state ≠ .up) ∧
     (s.updRoute 3 (fun r => { r with current := some 0, live := true })).rs.routes[(3 : Site)].current = some 0 ∧
     (s.updRoute 3 (fun r => { r with current := some 0, live := true })).rs.routes[(3 : Site)].live = true) :=
  ⟨issued_takes 7 _ _ rfl rfl, by decide, issued_takes 7 _ _ rfl rfl, by decide, by decide, issued_takes 7 _ _ rfl rfl, by decide +kernel⟩

theorem witness_EpochIsSet : (issued 8 [0, 0, 0, 0] up).Takes 0 [] 8 [0, 0, 0, 0] ∧ field [0, 0, 0, 0] 0 4 = 0 ∧
    (issued 8 [255, 255, 255, 255] up).Takes 0 [] 8 [255, 255, 255, 255] ∧ field [255, 255, 255, 255] 0 4 ≠ 0 ∧
    (withRecord .waiting up).isReady = true ∧ (withRecord .waiting up).rs.epoch = 0 ∧
    (withRecord .waiting up).recordOf 4096 = some (record3 .waiting) ∧ (record3 .waiting).asking = some 3 :=
  ⟨issued_takes 8 _ _ rfl rfl, by decide, issued_takes 8 _ _ rfl rfl, by decide, rfl, rfl, rfl, by decide⟩

theorem witness_TimeIsSet : (issued 9 (leBytes 8 5) up).Takes 0 [] 9 (leBytes 8 5) := issued_takes 9 _ _ rfl rfl

/-- In HOLDOVER since 7,000,000 µs. -/
def heldOver : State :=
  { up with tu := { TimeUnit.reset with
    state := .holdover
    holdoverStart := some 7000000
    holdoverDue := some 37000000 } }

theorem witness_TimingIsSet : (issued 10 [3, 0] heldOver).Takes 0 [] 10 [3, 0] ∧
    (issued 10 [2, 0] heldOver).Takes 0 [] 10 [2, 0] ∧ heldOver.tu.state = .holdover ∧
    heldOver.tu.holdoverStart = some 7000000 ∧ heldOver.now ≤ 7000000 + 3 * 1000000 ∧
    7000000 + 2 * 1000000 < heldOver.now ∧ (issued 10 [3, 0] up).tu.state ≠ .holdover ∧
    ((List.finRange 8).filter (· ≠ up.ownSite))[6]? = some 7 :=
  ⟨issued_takes 10 _ _ rfl rfl, issued_takes 10 _ _ rfl rfl, rfl, rfl, by decide, by decide, by decide, by decide⟩

theorem witness_NotifyIsSet : (issued 11 [255, 255] up).Takes 0 [] 11 [255, 255] := issued_takes 11 _ _ rfl rfl

theorem witness_ReadsReturnSnapshots :
    (issued 12 [15, 3] up).Takes 0 [] 12 [15, 3] ∧ byteAt [15, 3] 0 = (15 : PathNo).val ∧
    (issued 13 [255] up).Takes 0 [] 13 [255] ∧ (issued 14 [7, 0] up).Takes 0 [] 14 [7, 0] ∧
    byteAt [7, 0] 0 = (7 : Site).val ∧ (7 : Site) ≠ up.ownSite ∧ (issued 15 [5, 4] up).Takes 0 [] 15 [5, 4] ∧
    byteAt [5, 4] 0 = (5 : PortNo).val ∧ (issued 16 [] up).Takes 0 [] 16 [] ∧ (issued 17 [] up).Takes 0 [] 17 [] :=
  ⟨issued_takes 12 _ _ rfl rfl, by decide, issued_takes 13 _ _ rfl rfl, issued_takes 14 _ _ rfl rfl, by decide, by decide,
    issued_takes 15 _ _ rfl rfl, by decide, issued_takes 16 _ _ rfl rfl, issued_takes 17 _ _ rfl rfl⟩

theorem witness_ExtremesAreCleared : (issued 18 [0, 255] up).Takes 0 [] 18 [0, 255] := issued_takes 18 _ _ rfl rfl

theorem witness_SiteIsResynced : (issued 19 [7, 4] up).Takes 0 [] 19 [7, 4] ∧ 3 < byteAt [7, 4] 1 ∧
    (issued 19 [7, 3] up).Takes 0 [] 19 [7, 3] ∧ byteAt [7, 3] 0 = (7 : Site).val ∧ (7 : Site) ≠ up.ownSite ∧
    1 ≤ byteAt [7, 3] 1 ∧ byteAt [7, 3] 1 ≤ 3 :=
  ⟨issued_takes 19 _ _ rfl rfl, by decide, issued_takes 19 _ _ rfl rfl, by decide, by decide, by decide, by decide⟩

/-- Port 0's line is busy, with no path on it. -/
def busyLine : State := up.updTx 0 (fun t => { t with line := some (.probeBack 3 0 0, 1) })

/-- A loopback test whose timer is due. -/
def looping (returned : Nat) : State :=
  { up with cmd := { up.cmd with exec := some (.loopback 0 ⟨0, 16, 2, 16, returned, 0, 0, some 1, some 5, 10000000⟩) } }

theorem witness_LoopbackRuns : (issued 20 [0] busyLine).Takes 0 [] 20 [0] ∧ (issued 20 [0] busyLine).Settled ∧
    byteAt [0] 0 = (0 : PortNo).val ∧ busyLine.link[0] = true ∧ busyLine.tx[0].line ≠ none ∧
    busyLine.tx[0].urgent.length < 32 ∧ (∀ q : PathNo, busyLine.paths[q].port = 0 → busyLine.paths[q].state = .off) ∧
    (looping 15).cmd.exec = some (.loopback 0 ⟨0, 16, 2, 16, 15, 0, 0, some 1, some 5, 10000000⟩) ∧
    10000000 ≤ (looping 15).now ∧ 15 < 16 ∧ (1 : Nat) ≤ 15 ∧
    (issued 20 [0] up).Takes 0 [] 20 [0] ∧ (issued 20 [0] up).Settled ∧ up.tx[0].line = none ∧ up.tx[0].probeBack = none ∧
    up.tx[0].probe = none ∧ up.tx[0].urgent = [] ∧ (∀ q : PathNo, up.paths[q].port = 0 → up.paths[q].state = .off) :=
  ⟨issued_takes 20 _ _ rfl rfl, settled_of_fresh ⟨rfl, rfl, rfl, rfl⟩, by decide, by decide +kernel, by decide +kernel,
    by decide +kernel, by decide +kernel, rfl, by decide, by decide, by decide, issued_takes 20 _ _ rfl rfl,
    settled_of_fresh ⟨rfl, rfl, rfl, rfl⟩, rfl, rfl, rfl, rfl, by decide +kernel⟩

/-- A save at a stage, its timer due. -/
def saving (stage : SaveStage) : State :=
  { up with cmd := { up.cmd with save := some ⟨0, [1], stage, 10000000⟩ } }

theorem witness_ConfigIsSaved (stage : SaveStage) : (issued 21 [] up).Takes 0 [] 21 [] ∧ up.cmd.save = none ∧
    (issued 21 [] up).Settled ∧ (saving stage).cmd.save = some ⟨0, [1], stage, 10000000⟩ ∧
    10000000 ≤ (saving stage).now ∧ (saving stage).Settled :=
  ⟨issued_takes 21 _ _ rfl rfl, rfl, settled_of_fresh ⟨rfl, rfl, rfl, rfl⟩, rfl,
    by show 10000000 ≤ (10000000#64).toNat; decide, settled_of_fresh ⟨rfl, rfl, rfl, rfl⟩⟩

theorem witness_StationResetBegins : (issued 22 [] up).Takes 0 [] 22 [] := issued_takes 22 _ _ rfl rfl

/-- A station reset waits for its last own request, or has drained, block 3 noted aborted. -/
def stopping (own : List OwnReq) (out : List Outstanding) : State :=
  let s := { up with
    startUp := { up.startUp with phase := .resetting, count := 41 }
    cmd := { CommandUnit.reset with exec := some (.reset 4), causes := 3 }
    mi := { up.mi with own := own, outstanding := out } }
  s.updBlock 3 (fun x => { x with aborted := true, state := .saving })

theorem witness_StationResetBegins_drained : ∀ s ∈ [stopping [⟨0, 9, none, .listRead⟩] [],
      stopping [] [.own ⟨0, 9, none, .listRead⟩]],
    s.startUp.phase = .resetting ∧ ¬ s.Drained ∧ s.Settled := by
  simp only [List.mem_cons, List.not_mem_nil, or_false]
  rintro s (rfl | rfl)
  · exact ⟨rfl, fun h => (nomatch h.1), settled_of_fresh ⟨rfl, rfl, rfl, rfl⟩⟩
  · refine ⟨rfl, fun h => ?_, settled_of_fresh ⟨rfl, rfl, rfl, rfl⟩⟩
    obtain ⟨n, cause, h⟩ := h.2.2 (.own ⟨0, 9, none, .listRead⟩) (by simp [stopping])
    cases h

theorem witness_StationResetBegins_started (n : Nat) (cause : Bool) :
    (stopping [] [.forwarded n cause]).startUp.phase = .resetting ∧ (stopping [] [.forwarded n cause]).Drained ∧
    (stopping [] [.forwarded n cause]).tu.state ≠ .holdover ∧ FlashFails none .noFlash ∧
    (stopping [] [.forwarded n cause]).cmd.blocks[(3 : BlockNo)].aborted = true :=
  ⟨rfl, ⟨rfl, rfl, fun o h => ⟨n, cause, by simpa [stopping] using h⟩⟩, nofun, .silent, rfl⟩

/-- A flash of each kind that fails: silent, blank, with a good signature and a length one short, one past 65,536 and
with 13 blocks, and with a CRC that does not agree. -/
theorem witness_StartUpFromStraps : State.reset.startUp.phase = .inReset ∧ FlashFails none .noFlash ∧
    FlashFails (some (List.replicate 16 0xFF)) .badSignature ∧
    (∀ x ∈ [(31, 2), (65537, 2), (120, 13)], FlashFails
      (some ([0x56, 0x4A, 0x43, 0x31] ++ leBytes 4 x.1 ++ leBytes 1 x.2 ++ List.replicate 7 0)) .badLength) ∧
    FlashFails (some ([0x56, 0x4A, 0x43, 0x31] ++ leBytes 4 16 ++ leBytes 1 0 ++ List.replicate 7 9)) .badCrc := by
  refine ⟨rfl, .silent, .signature _ (by simp) (by decide), ?_, .crc _ ?_ ?_ ?_ ?_⟩
  · intro x hx
    simp only [List.mem_cons, List.not_mem_nil, or_false] at hx
    rcases hx with rfl | rfl | rfl <;> exact .length _ (by decide +kernel) (by decide +kernel) (by decide +kernel)
  all_goals decide +kernel

/-- Own sites at both sides of 7, and a hop's record. -/
theorem witness_StartUpFromStraps_image :
    ([95, 0, 0x76, 0xFD, 0xE0, 0xFC, 30, 2] : List Byte).length = 8 ∧
    byteAt ([95, 0, 0x76, 0xFD, 0xE0, 0xFC, 30, 2] : List Byte) 0 = (95 : HopNo).val ∧
    (∀ x ∈ [((7 : Byte), (7 : Site)), (8, 0)], x.2.val = (if x.1.toNat ≤ 7 then x.1.toNat else 0)) ∧
    (13 : Fin 14).val = timeoutPlace 0 7 + 1 ∧ (12 : Fin 14).val = timeoutPlace 0 7 ∧ (7 : Site) ≠ 0 := by
  decide +kernel

/-- A TIMING block's entry at site 2: the hole timeouts take their places and their range (12.3, R141). -/
theorem test_timing_entry :
    (let t := applyTiming (layout 48 [(0, leBytes 2 5000), (4, (List.range 14).flatMap (fun i => leBytes 3 (90 + 5 * i)))])
        { up with ownSite := 2 }
     (t.tu.limit, t.rmu[0].urgent.timeout, t.rmu[1].bulk.timeout, t.rmu[3].urgent.timeout, t.rmu[2].urgent.timeout)) =
      (3600, 100, 105, 110, 5000) := by decide +kernel

/-- The start-up order has reached step 8, one line short of a full queue. -/
def lastStep : State :=
  { State.reset with
    startUp := { StartUp.reset with phase := .starting, step := 8 }
    mi := { Interposer.reset with own := List.replicate 31 ⟨0, 9, none, .ringStart⟩ } }

theorem witness_ReadyIsSet : lastStep.startUp.phase = .starting ∧ lastStep.startUp.step = 8 ∧
    lastStep.mi.waiting = [] ∧ lastStep.mi.own.length < 32 := by decide +kernel

/-- Step 8 with entry 0 ring 2's window, and path 0 DOWN over a link that is up and a clear hop. -/
def lastStepRouted : State :=
  { withPath .down .clear lastStep with
    linkInput := Vector.replicate 6 true
    mi := { lastStep.mi with windows := lastStep.mi.windows.set 0 ⟨true, 64, 71, .transmit, 2, false, false⟩ } }

theorem witness_ReadyIsSet_rings : lastStepRouted.mi.windows[(0 : EntryNo)].enabled = true ∧
    lastStepRouted.mi.windows[(0 : EntryNo)].kind = .transmit ∧
    lastStepRouted.mi.windows[(0 : EntryNo)].param = (2 : RingNo).val ∧
    ¬ lastStepRouted.namesToo 0 .transmit 2 ∧ lastStepRouted.cu.records = [] ∧
    lastStepRouted.paths[(0 : PathNo)].state = .down ∧
    passable { lastStepRouted with link := lastStepRouted.linkInput } 0 = true := by
  unfold State.namesToo; decide +kernel

/-- The start-up order waits at a step, at a power-on start or after a station reset, the last answers outstanding; entry
0 is site 3's receive window, or no ring is present. -/
def stepping (step left : Nat) (reset : Bool) (tag : OwnTag) (w : Option WLine) (ring : Bool) : State :=
  { State.reset with
    startUp := { StartUp.reset with
      phase := .starting, step := step, left := left, status := { StartStatus.reset with stationReset := reset } }
    mi := { Interposer.reset with
      outstanding := [.own ⟨0, 9, w, tag⟩]
      windows := (windowsAt 0x10).set 0 ⟨ring, 72, 72, .receive, 3, false, false⟩ } }

theorem witness_ReadyIsSet_step (step left : Nat) (reset : Bool) (ring : Bool) :
    (stepping step left reset .startUp (some []) ring).mi.outstanding = .own ⟨0, 9, some [], .startUp⟩ :: [] ∧
    (stepping step left reset .startUp (some []) ring).startUp.left = left ∧
    (stepping step left reset .startUp (some []) ring).startUp.step = step ∧
    (stepping step left reset .startUp (some []) ring).startUp.phase = .starting ∧
    (stepping step left reset .startUp (some []) ring).Settled ∧
    (∀ h : HopNo, State.reset.hops[h].state = .unknown) :=
  ⟨rfl, rfl, rfl, rfl, settled_of_fresh ⟨rfl, rfl, rfl, rfl⟩, by decide +kernel⟩

theorem witness_ReadyIsSet_rings_start (step left : Nat) (reset : Bool) (tag : OwnTag) (w : Option WLine) (ring : Bool) :
    (stepping step left reset tag w ring).RingsPlaced ∧
    ((stepping step left reset tag w ring).receiveRings = [] ↔ ring = false) := by
  have on : ∀ ring : Bool, let ws := (windowsAt 0x10).set 0 ⟨ring, 72, 72, .receive, 3, false, false⟩
    (∀ i : EntryNo, ws[i].enabled = true → ws[i].kind = .receive → ws[i].param < 8 ∧ ∀ j : EntryNo,
      ws[j].enabled = true → ws[j].kind = .receive → ws[j].param = ws[i].param → j = i) ∧
    (ws.toList.filter (fun w => w.enabled && w.kind == .receive) = [] ↔ ring = false) := by decide +kernel
  have empty : ∀ r : Site, State.reset.rmu[r].ring.pending = [] := by decide +kernel
  exact ⟨⟨(on ring).1, empty⟩, (on ring).2⟩

/-- Block 6's tag is read: the last of the eight, or with others to come; after a station reset, with blocks noted
aborted and with none. -/
theorem witness_ReadyIsSet_tags (left : Nat) (reset : Bool) :
    (stepping 5 left reset (.tagRead 6) none true).mi.outstanding = .own ⟨0, 9, none, .tagRead 6⟩ :: [] ∧
    (stepping 5 left reset (.tagRead 6) none true).startUp.step = 5 ∧
    (stepping 5 left reset (.tagRead 6) none true).abortedBlocks = [] ∧
    ((stepping 5 left reset (.tagRead 6) none true).updBlock 3 (fun x => { x with aborted := true })).abortedBlocks =
      [3] ∧ (List.replicate 64 (7 : Byte)).length = 64 := ⟨rfl, rfl, rfl, rfl, rfl⟩

/-- After the last tag of a power-on start, every block is written IDLE (R157, R171). -/
theorem test_blocks_written_idle :
    (match exec (.ownResponse true (List.replicate 64 7)) (stepping 5 1 false (.tagRead 6) none true) with
      | .next t => (t.startUp.step, t.startUp.left, t.cmd.blocks[(6 : BlockNo)].lastTag,
          t.mi.own.map (fun r => r.write == some (partLine [(3, [0, 0, 0, 0, 0])])))
      | _ => (0, 0, 0, [])) = (6, 8, 7, List.replicate 8 true) := by decide +kernel

end Sys2Proof.Tests
end

section
/-! What an accepted second pulse does to station time and its discipline: the laws of the Time Unit's operations (R5 to
R9, R12, R13), and from them the statements PulseSteers and LargeErrorSteps. -/

namespace Sys2Proof.Machine

/-! ## Writing what changed, seen from the Time Unit -/

theorem flush_tu (s : State) : (flush s).tu = s.tu := congrArg (·.tu) (flush_outside s)
theorem flush_paths (s : State) : (flush s).paths = s.paths := congrArg (·.paths) (flush_outside s)
theorem flush_tx (s : State) : (flush s).tx = s.tx := congrArg (·.tx) (flush_outside s)

/-- Writing what changed leaves the causes set. -/
theorem flush_hasCause {c : Cause} {s : State} (h : s.hasCause c) : (flush s).hasCause c := by
  unfold State.hasCause
  rw [flush_causes]
  exact h

/-! ## Changes of the Time Unit's record -/

/-- A change of the Time Unit's record changes nothing else outside CMD. -/
theorem changeTime_outside (f : TimeUnit → TimeUnit) (s : State) :
    (changeTime f s).outside = { s with tu := f s.tu }.outside := by
  unfold changeTime noteTimeState
  split
  · rfl
  · rw [raise_outside, markStale_outside]

theorem changeTime_tu (f : TimeUnit → TimeUnit) (s : State) : (changeTime f s).tu = f s.tu :=
  congrArg (·.tu) (changeTime_outside f s)
theorem changeTime_paths (f : TimeUnit → TimeUnit) (s : State) : (changeTime f s).paths = s.paths :=
  congrArg (·.paths) (changeTime_outside f s)
theorem changeTime_tx (f : TimeUnit → TimeUnit) (s : State) : (changeTime f s).tx = s.tx :=
  congrArg (·.tx) (changeTime_outside f s)

/-- A change of time state raises TIME_CHANGE (R13). -/
theorem changeTime_raises {f : TimeUnit → TimeUnit} {s : State} (h : (f s.tu).state ≠ s.tu.state) :
    (changeTime f s).hasCause .timeChange := by
  unfold changeTime noteTimeState
  rw [if_neg h]
  exact raise_hasCause _ _

/-- A cause that is set stays set as the Time Unit's record changes. -/
theorem changeTime_keeps {f : TimeUnit → TimeUnit} {s : State} {c : Cause} (h : s.hasCause c) :
    (changeTime f s).hasCause c := by
  unfold changeTime noteTimeState
  split
  · exact h
  · exact raise_keeps h

/-! ## Steering and stepping -/

theorem clampPpb_eq (v : Int) : clampPpb v = max (-100000) (min 100000 v) := by
  unfold clampPpb clampInt
  omega

theorem saturate64_eq (e : Int) : saturate64 e = max (-(2 ^ 63)) (min (2 ^ 63 - 1) e) := by
  unfold saturate64 clampInt
  omega

/-- A phase error within 1 ms is recorded as it is. -/
theorem saturate64_small {e : Int} (h : e.natAbs ≤ 1000000) : saturate64 e = e := by
  rw [saturate64_eq]
  omega

/-- Out of HOLDOVER the holdover timer and start are cleared. -/
theorem leaveHoldover_holdover {t : TimeUnit} (h : t.state = .holdover) :
    t.leaveHoldover = { t with holdoverStart := none, holdoverDue := none } := if_pos h

/-- Leaving HOLDOVER touches only the holdover timer and start. -/
theorem leaveHoldover_eq (t : TimeUnit) :
    t.leaveHoldover =
      { t with holdoverStart := t.leaveHoldover.holdoverStart, holdoverDue := t.leaveHoldover.holdoverDue } := by
  unfold TimeUnit.leaveHoldover
  split <;> rfl

section
variable (e : Int) (t : TimeUnit)

theorem steer_integral : (t.steer e).integral = max (-100000) (min 100000 (t.integral - e.tdiv 16)) := clampPpb_eq _
theorem steer_adj : (t.steer e).adj = max (-100000) (min 100000 ((t.steer e).integral - e.tdiv 4)) := clampPpb_eq _
theorem steer_goodRun : (t.steer e).goodRun = if e.natAbs ≤ 100 then min 8 (t.goodRun + 1) else 0 := rfl

theorem steer_state_acquiring {t : TimeUnit} (h : t.state = .acquiring) :
    (t.steer e).state = if (t.steer e).goodRun = 8 then .locked else .acquiring := by
  simp [TimeUnit.steer, h]

theorem steer_state_locked {t : TimeUnit} (h : t.state = .locked) :
    (t.steer e).state = if 1000 < e.natAbs then .acquiring else .locked := by
  simp [TimeUnit.steer, h]

/-- A pulse that steers in HOLDOVER or FREE takes the Time Unit to ACQUIRING. -/
theorem steer_state_adrift {t : TimeUnit} (h : t.state = .holdover ∨ t.state = .free) :
    (t.steer e).state = .acquiring := by
  rcases h with h | h <;> simp [TimeUnit.steer, h]

theorem steer_holdover {t : TimeUnit} (h : t.state = .holdover) :
    (t.steer e).holdoverStart = none ∧ (t.steer e).holdoverDue = none := by
  simp [TimeUnit.steer, leaveHoldover_holdover h]

/-- Steering moves I, adj, the good run, the time state and the holdover timer, and nothing else of the record. -/
theorem steer_eq : t.steer e =
    { t with
      integral := (t.steer e).integral
      adj := (t.steer e).adj
      goodRun := (t.steer e).goodRun
      state := (t.steer e).state
      holdoverStart := (t.steer e).holdoverStart
      holdoverDue := (t.steer e).holdoverDue } := by
  conv_lhs => unfold TimeUnit.steer; rw [leaveHoldover_eq]
  rfl

end

/-- After a step the state is ACQUIRING and the good run 0; only in UNSET I and adj restart from 0 (R7, R8), and of the
rest of the record only the holdover timer and start may change. -/
theorem afterStep_eq (t : TimeUnit) : t.afterStep =
    { t with
      state := .acquiring
      integral := if t.state = .unset then 0 else t.integral
      adj := if t.state = .unset then 0 else t.adj
      goodRun := 0
      holdoverStart := t.leaveHoldover.holdoverStart
      holdoverDue := t.leaveHoldover.holdoverDue } := by
  unfold TimeUnit.afterStep
  split
  next h => simp [TimeUnit.leaveHoldover, h]
  next h => rw [leaveHoldover_eq]

theorem afterStep_holdover {t : TimeUnit} (h : t.state = .holdover) :
    t.afterStep.holdoverStart = none ∧ t.afterStep.holdoverDue = none := by
  rw [afterStep_eq, leaveHoldover_holdover h]
  exact ⟨rfl, rfl⟩

/-- A step of station time by the negated phase error puts it onto the second. -/
theorem station_step_onto_second (w : Stamp) (n : Nat) :
    w + BitVec.ofInt 64 (-((w.toNat : Int) - (n : Int))) = BitVec.ofNat 64 n :=
  calc w + BitVec.ofInt 64 (-((w.toNat : Int) - (n : Int)))
      = BitVec.ofInt 64 (w.toNat : Int) + BitVec.ofInt 64 (-((w.toNat : Int) - (n : Int))) := by
        rw [BitVec.ofInt_natCast, BitVec.ofNat_toNat, BitVec.setWidth_eq]
    _ = BitVec.ofInt 64 (n : Int) := by
        rw [← BitVec.ofInt_add]
        congr 1
        omega
    _ = BitVec.ofNat 64 n := BitVec.ofInt_natCast 64 n

/-- The record after a step of station time by an amount (R12). -/
def TimeUnit.stepBy (amount : Int) (t : TimeUnit) : TimeUnit :=
  { t with station := t.station + BitVec.ofInt 64 amount, steps := t.steps + 1 }

/-- The step of R12 reaches only the Time Unit's station time and step count, the outstanding probes and the waiting
PROBE-BACKs. -/
theorem stepTime_outside (amount : Int) (s : State) : (stepTime amount s).outside =
    { s with
      tu := s.tu.stepBy amount
      paths := s.paths.map (fun p : PathRec => { p with outstanding := [] })
      tx := s.tx.map (fun t : Transmitter => { t with probeBack := none }) }.outside := raise_outside _ _

theorem stepTime_tu (amount : Int) (s : State) : (stepTime amount s).tu = s.tu.stepBy amount :=
  congrArg (·.tu) (stepTime_outside amount s)
theorem stepTime_paths (amount : Int) (s : State) :
    (stepTime amount s).paths = s.paths.map (fun p => { p with outstanding := [] }) :=
  congrArg (·.paths) (stepTime_outside amount s)
theorem stepTime_tx (amount : Int) (s : State) :
    (stepTime amount s).tx = s.tx.map (fun t => { t with probeBack := none }) :=
  congrArg (·.tx) (stepTime_outside amount s)

/-- A step raises TIME_CHANGE (R12). -/
theorem stepTime_raises (amount : Int) (s : State) : (stepTime amount s).hasCause .timeChange := raise_hasCause _ _

/-! ## An accepted pulse -/

/-- The record as an accepted pulse of second `sec` and phase error `e` leaves it to steering or stepping (R5, R6). -/
def TimeUnit.takePulse (now sec : Nat) (e : Int) (t : TimeUnit) : TimeUnit :=
  { t.accept now with annValid := false, prevSeconds := some sec, lastError := saturate64 e }

/-- The state as an accepted pulse leaves it to steering or stepping, the pins' record cleared. -/
def State.takePulse (sec : Nat) (e : Int) (s : State) : State :=
  { s with out := [], tu := s.tu.takePulse s.now sec e }

/-- A pulse half a second or more after the last accepted one, or the first, is no bounce (R5). -/
theorem isBounce_false {s : State} (h : ∀ l, s.tu.lastPulse = some l → l + 500000 ≤ s.now) : isBounce s = false := by
  rw [isBounce, Option.any_eq_false]
  exact fun l last => decide_eq_false (Nat.not_lt.mpr (h l last))

/-- The pulse is assigned the seconds it is given (R6). -/
theorem assigned_of_gives {s : State} {sec : Nat} (h : s.GivesSeconds sec) : s.tu.assigned = some sec := by
  unfold TimeUnit.assigned
  obtain ⟨valid, rfl⟩ | ⟨invalid, set, q, prev, rfl⟩ := h
  · rw [if_pos valid]
  · simp [invalid, set, prev]

/-- A pulse that is no bounce and is assigned its seconds is recorded and handled as that second's (R5, R6). -/
theorem secondPulse_handles {s : State} {sec : Nat} (accepted : isBounce s = false)
    (assigned : s.tu.assigned = some sec) :
    secondPulse s = handlePulse sec { s with tu := s.tu.accept s.now } := by
  have kept : (s.tu.accept s.now).assigned = some sec := assigned
  simp [secondPulse, accepted, kept]

section
variable {s : State} {sec : Nat} {e : Int} (error : e = (s.tu.station.toNat : Int) - (sec : Int) * 1000000000)
include error

/-- The handled pulse steps in UNSET or beyond 1 ms, and steers otherwise (R7 to R9). -/
theorem handlePulse_eq :
    handlePulse sec { s with out := [], tu := s.tu.accept s.now } =
      if s.tu.state = .unset ∨ 1000000 < e.natAbs then
        changeTime TimeUnit.afterStep (stepTime (-e) (s.takePulse sec e))
      else changeTime (TimeUnit.steer e) (s.takePulse sec e) := by
  subst error
  rfl

variable (accepted : ∀ l, s.tu.lastPulse = some l → l + 500000 ≤ s.now) (gives : s.GivesSeconds sec)
include accepted gives

/-- What an accepted pulse given its seconds comes to: the handled pulse, then CMD's writes. -/
theorem exec_secondPulse : exec .secondPulse s = .next (flush (
    if s.tu.state = .unset ∨ 1000000 < e.natAbs then
      changeTime TimeUnit.afterStep (stepTime (-e) (s.takePulse sec e))
    else changeTime (TimeUnit.steer e) (s.takePulse sec e))) := by
  rw [← handlePulse_eq error]
  exact congrArg (fun u => Host.Outcome.next (flush u))
    (secondPulse_handles (s := { s with out := [] }) (isBounce_false accepted) (assigned_of_gives gives))

/-- An accepted pulse that steers: the record taken and steered, TIME_CHANGE where the state changed, and no more. -/
theorem exec_secondPulse_steers (steers : ¬ (s.tu.state = .unset ∨ 1000000 < e.natAbs)) :
    ∃ t, exec .secondPulse s = .next t ∧ t.tu = (s.tu.takePulse s.now sec e).steer e ∧
      (t.tu.state ≠ s.tu.state → t.hasCause .timeChange) ∧ t.outside = { s with tu := t.tu }.outside := by
  refine ⟨flush (changeTime (TimeUnit.steer e) (s.takePulse sec e)), ?_, ?_, ?_, ?_⟩
  · rw [exec_secondPulse error accepted gives, if_neg steers]
  · rw [flush_tu, changeTime_tu]; rfl
  · rw [flush_tu, changeTime_tu]
    exact fun changed => flush_hasCause (changeTime_raises changed)
  · rw [flush_outside, flush_tu, changeTime_outside, changeTime_tu]; rfl

/-- An accepted pulse that steps: the record taken, station time stepped by -e and the state changed, R12's
consequences, and no more. -/
theorem exec_secondPulse_steps (steps : s.tu.state = .unset ∨ 1000000 < e.natAbs) :
    ∃ t, exec .secondPulse s = .next t ∧
      t.tu = ((s.tu.takePulse s.now sec e).stepBy (-e)).afterStep ∧
      t.hasCause .timeChange ∧ t.paths = s.paths.map (fun p => { p with outstanding := [] }) ∧
      t.tx = s.tx.map (fun x => { x with probeBack := none }) ∧
      t.outside = { s with tu := t.tu, paths := t.paths, tx := t.tx }.outside := by
  refine ⟨flush (changeTime TimeUnit.afterStep (stepTime (-e) (s.takePulse sec e))), ?_, ?_, ?_, ?_, ?_, ?_⟩
  · rw [exec_secondPulse error accepted gives, if_pos steps]
  · rw [flush_tu, changeTime_tu, stepTime_tu]; rfl
  · exact flush_hasCause (changeTime_keeps (stepTime_raises _ _))
  · rw [flush_paths, changeTime_paths, stepTime_paths]; rfl
  · rw [flush_tx, changeTime_tx, stepTime_tx]; rfl
  · rw [flush_outside, flush_tu, flush_paths, flush_tx, changeTime_outside, changeTime_tu, changeTime_paths,
      changeTime_tx]
    rfl

end

end Sys2Proof.Machine

open Sys2Proof Sys2Proof.Machine

/-- Settles O11: the pulse steers and does no more, and each clause reads one field of the steered record. -/
theorem pulseSteers : Obligations.PulseSteers := by
  intro s sec e accepted gives set error small
  obtain ⟨t, runs, tu, raises, frame⟩ := exec_secondPulse_steers error accepted gives
    (by rintro (unset | large); exacts [set unset, by omega])
  refine ⟨t, runs, ?_⟩
  rw [tu] at raises frame ⊢
  refine ⟨steer_integral e _, steer_adj e _, steer_goodRun e _, steer_state_acquiring e, steer_state_locked e,
    steer_state_adrift e, steer_holdover e (t := s.tu.takePulse s.now sec e), raises, ?_⟩
  have exactError : (s.tu.takePulse s.now sec e).lastError = e := saturate64_small small
  rw [steer_eq] at frame ⊢
  exact ⟨rfl, rfl, rfl, rfl, exactError, rfl, rfl, frame⟩

/-- Settles O12: the pulse steps, and each clause reads one field of the record after the step, or one path or port. -/
theorem largeErrorSteps : Obligations.LargeErrorSteps := by
  intro s sec e accepted gives error steps
  obtain ⟨t, runs, tu, raises, paths, tx, frame⟩ := exec_secondPulse_steps error accepted gives steps
  have onto : s.tu.station + BitVec.ofInt 64 (-e) = BitVec.ofNat 64 (sec * 1000000000) := by
    rw [error]
    exact_mod_cast station_step_onto_second s.tu.station (sec * 1000000000)
  have holdover : s.tu.state = .holdover → t.tu.holdoverStart = none ∧ t.tu.holdoverDue = none := by
    rw [tu]
    exact afterStep_holdover (t := (s.tu.takePulse s.now sec e).stepBy (-e))
  have voided : ∀ p : PathNo, t.paths[p] = { s.paths[p] with outstanding := [] } := by simp [paths]
  have discarded : ∀ k : PortNo, t.tx[k] = { s.tx[k] with probeBack := none } := by simp [tx]
  rw [afterStep_eq] at tu
  refine ⟨t, runs, ?station, ?_, ?_, ?_, ?_, holdover, ?_, raises, ?_, ?_, ?_, ?_, ?saturated, voided, discarded,
    frame⟩ <;> rw [tu]
  case station => exact onto
  case saturated => exact saturate64_eq e
  all_goals rfl
end

section
/-! What a valid sample does to a path's estimates: when it seeds, what an outlier does, and how the filter moves them
(R53, R54); and from that the statement SamplesAreTaken. -/

namespace Sys2Proof.Machine

/-! ## Values of an estimate -/

/-- A delay in an estimate's range is assigned as it is. -/
theorem clampDelay_of_mem {v : Int} (nonneg : 0 ≤ v) (le : v ≤ 200000000) : clampDelay v = v.toNat := by
  unfold clampDelay clampInt maxDelay
  omega

/-- A floor of a difference over a positive number lies between the difference and 0. -/
theorem ediv_between (d : Int) {n : Int} (pos : 0 < n) : min d 0 ≤ d / n ∧ d / n ≤ max d 0 := by
  rcases le_total 0 d with up | down
  · have floored : d / n ≤ d := Int.ediv_le_self n up
    have nonneg : 0 ≤ d / n := Int.ediv_nonneg up pos.le
    omega
  · have floored : d ≤ d / n := (Int.le_ediv_iff_mul_le pos).mpr (by nlinarith only [down, pos])
    have nonpos : d / n ≤ 0 := Int.ediv_nonpos_of_nonpos_of_neg down pos
    omega

/-- The filter moves an estimate toward a value of the range without leaving the range, so the clamp changes nothing. -/
theorem clampDelay_filtered {old : Nat} {v : Int} (k : Nat) (inRange : old ≤ 200000000) (nonneg : 0 ≤ v)
    (le : v ≤ 200000000) :
    (clampDelay (old + (v - old).fdiv (2 ^ k : Nat)) : Int) = old + (v - old) / 2 ^ k := by
  have floor : (v - old).fdiv (2 ^ k : Nat) = (v - old) / 2 ^ k := by
    rw [Int.fdiv_eq_ediv_of_nonneg _ (Int.natCast_nonneg _), Nat.cast_pow, Nat.cast_ofNat]
  obtain ⟨low, high⟩ := ediv_between (v - old) (n := 2 ^ k) (by positivity)
  rw [floor, clampDelay_of_mem (by omega) (by omega)]
  omega

/-! ## Taking a sample -/

/-- The record with a valid sample counted (R52). -/
def PathRec.countSample (x : PathRec) : PathRec :=
  { x with counters := { x.counters with samples := x.counters.samples + 1 } }

section
variable {x : PathRec} {rtt f : Int} {m : Method}

/-- An outlier short of the fourth in a row only counts, in the run and among the outliers (R54). -/
theorem filter_outlier (far : x.outlier < (f - x.est).natAbs) (short : x.run + 1 < 4) :
    x.filter rtt f =
      { x with run := x.run + 1, counters := { x.counters with outliers := x.counters.outliers + 1 } } := by
  unfold PathRec.filter
  rw [if_pos far]
  exact if_neg (Nat.not_le.mpr short)

/-- The fourth outlier in a row seeds, and counts as an outlier and a reseed (R54). -/
theorem filter_reseeds (far : x.outlier < (f - x.est).natAbs) (fourth : 4 ≤ x.run + 1) :
    x.filter rtt f =
      { x.seed rtt f with counters := { x.counters with
          outliers := x.counters.outliers + 1, reseeds := x.counters.reseeds + 1 } } := by
  unfold PathRec.filter
  rw [if_pos far]
  exact if_pos fourth

/-- A sample that is no outlier ends the run and moves both estimates (R54). -/
theorem filter_moves (near : (f - x.est).natAbs ≤ x.outlier) :
    x.filter rtt f =
      { x with
        run := 0
        est := clampDelay (x.est + (f - x.est).fdiv (2 ^ x.shift : Nat))
        rttEst := clampDelay (x.rttEst + (rtt - x.rttEst).fdiv (2 ^ x.shift : Nat)) } :=
  if_neg (Nat.not_lt.mpr near)

/-- The filter leaves the sample count. -/
theorem filter_samples : (x.filter rtt f).counters.samples = x.counters.samples := by
  rcases lt_or_ge x.outlier (f - x.est).natAbs with far | near
  · rcases lt_or_ge (x.run + 1) 4 with short | fourth
    · rw [filter_outlier far short]
    · rw [filter_reseeds far fourth]
  · rw [filter_moves near]

/-- A sample of an unseeded path, or of a changed method, seeds; on a seeded path that is a reseed (R53). -/
theorem takeSample_seeds (seeds : x.seeded = false ∨ x.method ≠ some m) :
    x.takeSample rtt m f =
      { x.seed rtt f with
        method := some m
        counters := { x.counters with
          samples := x.counters.samples + 1
          reseeds := if x.seeded = true then x.counters.reseeds + 1 else x.counters.reseeds } } := by
  cases seeded : x.seeded with
  | false => simp [PathRec.takeSample, PathRec.seed, seeded]
  | true =>
    have changed : x.method ≠ some m := seeds.resolve_left (by simp [seeded])
    simp [PathRec.takeSample, PathRec.seed, seeded, changed]

/-- A sample of a seeded path's own method is counted and filtered (R53, R54). -/
theorem takeSample_filters (seeded : x.seeded = true) (same : x.method = some m) :
    x.takeSample rtt m f = { x.countSample.filter rtt f with method := some m } := by
  simp [PathRec.takeSample, PathRec.countSample, seeded, same]

/-- Whatever it does to the estimates, a sample counts once (R52). -/
theorem takeSample_samples : (x.takeSample rtt m f).counters.samples = x.counters.samples + 1 := by
  by_cases seeds : x.seeded = false ∨ x.method ≠ some m
  · rw [takeSample_seeds seeds]
  · obtain ⟨seeded, same⟩ := not_or.mp seeds
    rw [takeSample_filters (Bool.of_not_eq_false seeded) (not_not.mp same)]
    exact filter_samples (x := x.countSample)

end

end Sys2Proof.Machine

open Sys2Proof Sys2Proof.Machine

/-- Settles O20: by the ways a sample is taken (it seeds, is an outlier short of the fourth or the fourth, or moves the
estimates), each clause reads one field of the record it leaves. -/
theorem samplesAreTaken : Obligations.SamplesAreTaken := by
  intro x rtt f m nonneg le_rtt le
  have seedEst : clampDelay f = f.toNat := clampDelay_of_mem nonneg (le_rtt.trans le)
  have seedRtt : clampDelay rtt = rtt.toNat := clampDelay_of_mem (nonneg.trans le_rtt) le
  refine ⟨takeSample_samples, rfl, fun seeds => ?seeds, fun estRange rttRange seeded same => ?_⟩
  case seeds =>
    rw [takeSample_seeds seeds]
    exact ⟨seedEst, seedRtt, rfl, rfl, rfl⟩
  rw [takeSample_filters seeded same]
  refine ⟨fun far => ⟨?counts, fun short => ?short, fun fourth => ?fourth⟩, fun near => ?near⟩
  case counts =>
    rcases lt_or_ge (x.run + 1) 4 with short | fourth
    · rw [filter_outlier (x := x.countSample) far short]; rfl
    · rw [filter_reseeds (x := x.countSample) far fourth]; rfl
  case short =>
    rw [filter_outlier (x := x.countSample) far short]
    exact ⟨rfl, rfl, rfl, rfl⟩
  case fourth =>
    rw [filter_reseeds (x := x.countSample) far fourth]
    exact ⟨rfl, seedEst, seedRtt, rfl⟩
  case near =>
    rw [filter_moves (x := x.countSample) near]
    exact ⟨rfl, clampDelay_filtered x.shift estRange nonneg (le_rtt.trans le),
      clampDelay_filtered x.shift rttRange (nonneg.trans le_rtt) le, rfl, rfl⟩
end

section
/-! What SET_ROUTE makes of a route, what SET_EPOCH makes of the numbering, and what a refused selection leaves: the
laws of the Route Selector's settings (R60, R62, R65, R76), and from them the statements RouteIsSet and EpochIsSet. -/

namespace Sys2Proof.Machine

/-! ## Commands that complete as soon as they are applied -/

/-- Writing what changed and the completion change nothing outside CMD and the own-request queue. -/
theorem flush_complete_outside (b : BlockNo) (e : ErrorCode) (n : Nat) (results : List (Nat × List Byte)) (u : State) :
    (flush (complete b e n results u)).outside = u.outside := by
  rw [flush_outside, complete_outside]

/-- As a command ends and its changes are written, at most COMMAND_DONE is raised. -/
theorem flush_complete_raisedNothing (b : BlockNo) (e : ErrorCode) (n : Nat) (results : List (Nat × List Byte))
    (u : State) : u.raisedNothing (flush (complete b e n results u)) := by
  obtain ⟨-, -, -, -, -, -, raised⟩ := complete_cmd b e n results u
  unfold State.raisedNothing at raised ⊢
  rwa [flush_causes]

/-- A cause stays set where no cause but COMMAND_DONE is raised. -/
theorem raisedNothing_hasCause {c : Cause} {s t : State} (raised : s.raisedNothing t) (h : s.hasCause c) :
    t.hasCause c := by
  unfold State.hasCause at h ⊢
  rcases raised with same | done
  · rwa [same]
  · rw [done]; simp [h]

section
variable {s u : State} {b : BlockNo} {rest : List BlockNo} {code : Nat} {p : List Byte}
  {apply : List Byte → State → Applied} (h : s.Takes b rest code p)
include h

/-- A command that is refused as it is applied changes nothing. -/
theorem immediate_refuses {e : ErrorCode} (refused : apply p (s.taken b rest) = refuse e (s.taken b rest)) :
    ∃ t, run (immediate code apply) s = .next t ∧ s.Refuses t b rest e := by
  refine ⟨_, immediate_takes h apply, ?_⟩
  rw [refused]
  exact complete_refuses h e

/-- A command without results is applied, and its completion follows. -/
theorem immediate_applies (done : apply p (s.taken b rest) = applied u) :
    run (immediate code apply) s = .next (flush (complete b .none 0 [] u)) := by
  rw [immediate_takes h apply, done]
  rfl

/-- A command whose application only sends is Done. -/
theorem Sends.taken_done (sends : Sends (s.taken b rest) u) (e : ErrorCode) (results : List (Nat × List Byte)) :
    s.Done (flush (complete b e 0 results u)) b rest e results :=
  complete_done e results sends.blocks sends.pending (sends.exec h.free) sends.enables sends.save sends.runNo
    (congrArg (fun v : State => v.mi.windows[14].base) (a₁ := u.outsideSending) (a₂ := (s.taken b rest).outsideSending)
      sends.outside)
    sends.owes

end

/-! ## SET_ROUTE's checks (R60) -/

theorem indexOf_eq_some {n v : Nat} {i : Fin n} : indexOf n v = some i ↔ v = i.val := by
  unfold indexOf
  split
  · simp [Fin.ext_iff]
  · next out => simp only [reduceCtorEq, false_iff]; omega

/-- A site is found exactly for the number of a remote one. -/
theorem remoteSite_eq_some {s : State} {v : Nat} {r : Site} :
    remoteSite s v = some r ↔ v = r.val ∧ r ≠ s.ownSite := by
  simp only [remoteSite, Option.bind_eq_some_iff, indexOf_eq_some, Option.ite_none_left_eq_some, Option.some.injEq]
  constructor
  · rintro ⟨x, found, remote, rfl⟩
    exact ⟨found, remote⟩
  · exact fun ⟨found, remote⟩ => ⟨r, found, remote, rfl⟩

theorem dualModeOf_eq_some {v : Nat} {d : DualMode} : dualModeOf v = some d ↔ v = d.code.toNat := by
  constructor
  · intro named
    unfold dualModeOf at named
    split_ifs at named with zero one two <;> cases named
    exacts [zero, one, two]
  · rintro rfl
    cases d <;> rfl

theorem pathsOf_cons_eq_some {b : Byte} {bs : List Byte} {cs : List PathNo} :
    pathsOf (b :: bs) = some cs ↔ ∃ x xs, indexOf 16 b.toNat = some x ∧ pathsOf bs = some xs ∧ cs = x :: xs := by
  rw [pathsOf]
  split
  next x xs first others => simp [first, others, eq_comm]
  next none =>
    simp only [reduceCtorEq, false_iff]
    rintro ⟨x, xs, first, others, -⟩
    exact none x xs first others

/-- A list of bytes names candidates exactly when it is their numbers. -/
theorem pathsOf_eq_some {bs : List Byte} {cs : List PathNo} :
    pathsOf bs = some cs ↔ bs = cs.map (fun c => BitVec.ofNat 8 c.val) := by
  induction bs generalizing cs with
  | nil => cases cs <;> simp [pathsOf]
  | cons b bs ih =>
    have byte : ∀ x : PathNo, indexOf 16 b.toNat = some x ↔ b = BitVec.ofNat 8 x.val := by
      intro x
      rw [indexOf_eq_some, ← BitVec.toNat_inj, BitVec.toNat_ofNat, Nat.mod_eq_of_lt (by omega)]
    rw [pathsOf_cons_eq_some]
    simp only [byte, ih]
    cases cs <;> simp

/-- SET_ROUTE's parameters pass every check of R60, and give a route these candidates and this dual mode. -/
structure State.PassesRoute (s : State) (p : List Byte) (r : Site) (cands : List PathNo) (dual : DualMode) : Prop where
  site : byteAt p 0 = r.val
  remote : r ≠ s.ownSite
  count : byteAt p 1 = cands.length
  one : 1 ≤ cands.length
  four : cands.length ≤ 4
  listed : (p.drop 2).take cands.length = cands.map (fun c => BitVec.ofNat 8 c.val)
  distinct : cands.Nodup
  lead : ∀ c ∈ cands, s.paths[c].configured = true ∧ s.paths[c].site = r
  mode : p.getD 6 0 = dual.code

section
variable {s : State} {p : List Byte} {r : Site}

theorem dualModeOf_byteAt {dual : DualMode} : dualModeOf (byteAt p 6) = some dual ↔ p.getD 6 0 = dual.code :=
  dualModeOf_eq_some.trans BitVec.toNat_inj

/-- Parameters that pass give their settings, with H clamped. -/
theorem State.PassesRoute.settings {cands : List PathNo} {dual : DualMode} (h : s.PassesRoute p r cands dual) :
    routeSettings r p s = some (cands, dual, min 1000000 (field p 8 4)) := by
  have few : ¬ (byteAt p 1 < 1 ∨ 4 < byteAt p 1) := by
    rw [h.count, not_or]
    exact ⟨h.one.not_gt, h.four.not_gt⟩
  have named : pathsOf ((p.drop 2).take (byteAt p 1)) = some cands := pathsOf_eq_some.mpr (h.count ▸ h.listed)
  simp only [routeSettings, if_neg few, named, dualModeOf_byteAt.mpr h.mode]
  rw [if_pos ⟨h.count.symm, h.distinct, by simpa using h.lead⟩]

/-- Parameters that give settings for a remote site pass. -/
theorem passesRoute_of_settings {c : List PathNo × DualMode × Nat} (found : remoteSite s (byteAt p 0) = some r)
    (settings : routeSettings r p s = some c) : s.PassesRoute p r c.1 c.2.1 := by
  obtain ⟨site, remote⟩ := remoteSite_eq_some.mp found
  unfold routeSettings at settings
  split at settings
  next => cases settings
  next few =>
    split at settings
    next named coded =>
      split at settings
      next passes =>
        cases settings
        obtain ⟨count, distinct, lead⟩ := passes
        exact ⟨site, remote, count.symm, by dsimp only; omega, by dsimp only; omega,
          count ▸ pathsOf_eq_some.mp named, distinct, by simpa using lead, dualModeOf_byteAt.mp coded⟩
      next => cases settings
    next => cases settings

/-- Parameters that pass replace the route's settings, and its state is evaluated (R60, R65). -/
theorem setRoute_passes {cands : List PathNo} {dual : DualMode} (h : s.PassesRoute p r cands dual) :
    setRoute p s =
      applied (evalRoute r (s.updRoute r (RouteRec.configure (cands, dual, min 1000000 (field p 8 4))))) := by
  simp only [setRoute, remoteSite_eq_some.mpr ⟨h.site, h.remote⟩, h.settings]

/-- Parameters that fail a check are refused (R60). -/
theorem setRoute_refuses (fails : ∀ r cands dual, ¬ s.PassesRoute p r cands dual) :
    setRoute p s = refuse .badParam s := by
  unfold setRoute
  split
  next => rfl
  next r found =>
    split
    next c settings => exact absurd (passesRoute_of_settings found settings) (fails r c.1 c.2.1)
    next => rfl

/-- Each byte of a passing list is the number of the candidate in its place. -/
theorem State.PassesRoute.byte {cands : List PathNo} {dual : DualMode} (h : s.PassesRoute p r cands dual) {i : Nat}
    (inList : i < cands.length) : byteAt p (2 + i) = cands[i].val := by
  have at_i := congrArg (fun l : List Byte => l[i]?) h.listed
  simp only [List.getElem?_take, if_pos inList, List.getElem?_drop, List.getElem?_map, List.getElem?_eq_getElem inList,
    Option.map_some] at at_i
  rw [byteAt, List.getD_eq_getElem?_getD, at_i]
  exact Nat.mod_eq_of_lt (cands[i].isLt.trans (by decide))

end

/-! ## A route evaluated (R65) -/

/-- A route evaluated as LIVE or DARK: one that goes DARK loses its current path. -/
def RouteRec.evaluated (live : Bool) (x : RouteRec) : RouteRec :=
  { x with live := live, current := if x.live = true ∧ live = false then none else x.current }

theorem RouteRec.evaluated_same (x : RouteRec) : x.evaluated x.live = x := by
  have kept : ¬ (x.live = true ∧ x.live = false) := by simp
  rw [RouteRec.evaluated, if_neg kept]

theorem RouteRec.evaluated_changed {live : Bool} {x : RouteRec} (changed : x.live ≠ live) :
    x.evaluated live = { x with live := live, current := if live then x.current else none } := by
  cases live <;> simp_all [RouteRec.evaluated]

/-- Changes of an object that agree on it change the bank alike. -/
theorem updAt_congr {α : Type} {n : Nat} {v : Vector α n} {i : Fin n} {f g : α → α} (same : f v[i] = g v[i]) :
    updAt v i f = updAt v i g := by
  rw [updAt, same, updAt]

/-- Evaluating a route reaches only the route, and CMD (R65). -/
theorem evalRoute_outside (site : Site) (s : State) :
    (evalRoute site s).outside =
      (s.updRoute site (RouteRec.evaluated (routeLive s s.rs.routes[site]))).outside := by
  unfold evalRoute
  dsimp only
  split
  next same =>
    have unchanged : updAt s.rs.routes site (RouteRec.evaluated (routeLive s s.rs.routes[site])) = s.rs.routes :=
      updAt_id _ _ _ (by rw [← same]; exact RouteRec.evaluated_same _)
    rw [State.updRoute, unchanged]
  next changed =>
    rw [raise_outside, markStale_outside, State.updRoute, State.updRoute,
      updAt_congr (RouteRec.evaluated_changed changed).symm]

/-- A route that goes LIVE or DARK raises ROUTE_CHANGE (R65). -/
theorem evalRoute_raises {site : Site} {s : State} (changed : s.rs.routes[site].live ≠ routeLive s s.rs.routes[site]) :
    (evalRoute site s).hasCause .routeChange := by
  unfold evalRoute
  rw [if_neg changed]
  exact raise_hasCause _ _

/-- Of a route configured and evaluated, the current path that stays is in the new list, and the route did not go
DARK (R60, R65). -/
theorem evaluated_configure_current {x : RouteRec} {cands : List PathNo} {dual : DualMode} {hyst : Nat} {live : Bool}
    {c : PathNo} : ((x.configure (cands, dual, hyst)).evaluated live).current = some c ↔
      x.current = some c ∧ c ∈ cands ∧ (x.live = true → live = true) := by
  have kept : (x.configure (cands, dual, hyst)).current = some c ↔ x.current = some c ∧ c ∈ cands := by
    cases current : x.current with
    | none => simp [RouteRec.configure, current]
    | some q =>
      simp only [RouteRec.configure, current, Option.all_some, List.contains_iff_mem, Option.ite_none_right_eq_some,
        Option.some.injEq]
      constructor
      · rintro ⟨listed, rfl⟩
        exact ⟨rfl, listed⟩
      · rintro ⟨rfl, listed⟩
        exact ⟨listed, rfl⟩
  have same : (x.configure (cands, dual, hyst)).live = x.live := rfl
  simp only [RouteRec.evaluated, Option.ite_none_left_eq_some, kept, same]
  cases x.live <;> cases live <;> simp

/-! ## SET_ROUTE carried out (R60) -/

theorem updRoute_updRoute (site : Site) (f g : RouteRec → RouteRec) (s : State) :
    (s.updRoute site f).updRoute site g = s.updRoute site (g ∘ f) := by
  simp [State.updRoute, updAt]

section
variable {s : State} {b : BlockNo} {rest : List BlockNo} {p : List Byte} (h : s.Takes b rest 7 p)
include h

/-- SET_ROUTE with parameters that fail a check changes nothing. -/
theorem exec_setRoute_refuses (fails : ∀ r cands dual, ¬ (s.taken b rest).PassesRoute p r cands dual) :
    ∃ t, exec .setRoute s = .next t ∧ s.Refuses t b rest .badParam :=
  immediate_refuses h (setRoute_refuses fails)

/-- SET_ROUTE with parameters that pass: the route is configured and evaluated, and nothing else outside CMD changes;
ROUTE_CHANGE is raised as its state changes. -/
theorem exec_setRoute_passes {r : Site} {cands : List PathNo} {dual : DualMode} {live : Bool}
    (passes : (s.taken b rest).PassesRoute p r cands dual)
    (isLive : live = cands.any (fun c => s.paths[c].state == .up)) :
    ∃ t, exec .setRoute s = .next t ∧ s.Done t b rest .none [] ∧
      t.outside = (s.updRoute r (fun x =>
        (x.configure (cands, dual, min 1000000 (field p 8 4))).evaluated live)).outside ∧
      (live ≠ s.rs.routes[r].live → t.hasCause .routeChange) := by
  have evaluates := setRoute_passes passes
  generalize configured : (s.taken b rest).updRoute r
    (RouteRec.configure (cands, dual, min 1000000 (field p 8 4))) = u at evaluates
  have now : routeLive u u.rs.routes[r] = live := by subst configured isLive; simp [routeLive, RouteRec.configure]; rfl
  have before : u.rs.routes[r].live = s.rs.routes[r].live := by subst configured; simp [RouteRec.configure]; rfl
  have sends : Sends (s.taken b rest) (evalRoute r u) :=
    configured ▸ (updRoute_sends r _ _).trans (evalRoute_sends r _)
  refine ⟨_, immediate_applies h evaluates, sends.taken_done h .none [], ?_, fun changed => ?_⟩
  · rw [flush_complete_outside, evalRoute_outside, now, ← configured, updRoute_updRoute]
    rfl
  · exact raisedNothing_hasCause (flush_complete_raisedNothing b .none 0 [] _)
      (evalRoute_raises (by rw [now, before]; exact changed.symm))

end

/-! ## SET_EPOCH carried out (R62) -/

/-- The state with an epoch set and every route's numbering restarted (R62). -/
def State.withEpoch (s : State) (epoch : BitVec 32) : State :=
  { s with rs := { s.rs with
      epoch := epoch
      routes := s.rs.routes.map (fun r => { r with nextUrgent := 0, nextBulk := 0 }) } }

theorem withEpoch_sends (epoch : BitVec 32) (s : State) : Sends s (s.withEpoch epoch) := .of_cmd rfl rfl ⟨rfl, rfl⟩

section
variable {s : State} {b : BlockNo} {rest : List BlockNo} {p : List Byte} (h : s.Takes b rest 8 p)
include h

/-- SET_EPOCH with 0 changes nothing. -/
theorem exec_setEpoch_refuses (zero : field p 0 4 = 0) :
    ∃ t, exec .setEpoch s = .next t ∧ s.Refuses t b rest .badParam :=
  immediate_refuses h (if_pos zero)

/-- SET_EPOCH with another value sets the epoch and restarts the numbering; nothing else outside CMD changes, and no
cause but COMMAND_DONE is raised. -/
theorem exec_setEpoch_sets (nonzero : field p 0 4 ≠ 0) :
    ∃ t, exec .setEpoch s = .next t ∧ s.Done t b rest .none [] ∧ s.raisedNothing t ∧
      t.outside = (s.withEpoch (BitVec.ofNat 32 (field p 0 4))).outside := by
  have sets : setEpoch p (s.taken b rest) =
      applied ((s.taken b rest).withEpoch (BitVec.ofNat 32 (field p 0 4))) := if_neg nonzero
  refine ⟨_, immediate_applies h sets, (withEpoch_sends _ _).taken_done h .none [],
    flush_complete_raisedNothing b .none 0 [] ((s.taken b rest).withEpoch _), ?_⟩
  rw [flush_complete_outside]
  rfl

end

/-! ## A selection answered without a placement (R62, R76) -/

theorem recordOf_hdr {s : State} {hdr : Nat} {r : Record} (found : s.recordOf hdr = some r) : r.hdr = hdr := by
  simpa using List.find?_some found

/-- A change of a header line's record that keeps the line changes the record found there. -/
theorem recordOf_updRecord {s : State} {hdr : Nat} {f : Record → Record} (keeps : ∀ r, r.hdr = hdr → (f r).hdr = hdr) :
    (s.updRecord hdr f).recordOf hdr = (s.recordOf hdr).map f := by
  have test : (fun r : Record => r.hdr == hdr) ∘ (fun r => if r.hdr = hdr then f r else r) =
      (fun r => r.hdr == hdr) := by
    funext r
    simp only [Function.comp_apply]
    split
    next same => simp [same, keeps r same]
    next => rfl
  rw [State.recordOf, State.updRecord, List.find?_map, test, ← State.recordOf]
  cases found : s.recordOf hdr with
  | none => rfl
  | some r => simp [recordOf_hdr found]

theorem formGroup_cu (reqs : List (Nat × Option WLine × OwnTag)) (s : State) :
    (formGroup reqs .nothing s).cu = s.cu :=
  congrArg (fun u : State => u.cu) (a₁ := (formGroup reqs .nothing s).outside) (a₂ := s.outside)
    (formGroup_outside reqs .nothing s (by decide))

/-- A record that goes to CLOSING keeps its destinations, and nothing but the records changes outside CMD. -/
theorem closeIfSettled_keeps {s : State} {hdr : Nat} {r : Record} (found : s.recordOf hdr = some r) :
    (∃ r', (closeIfSettled hdr s).recordOf hdr = some r' ∧ r'.dests = r.dests) ∧
      (closeIfSettled hdr s).outside = { s with cu := (closeIfSettled hdr s).cu }.outside := by
  have line := recordOf_hdr found
  simp only [closeIfSettled, found]
  split
  next closes =>
    have closed : (closeRecord r s).cu = (s.updRecord hdr (fun _ => { r with phase := .closing })).cu := by
      rw [← line]
      exact formGroup_cu _ _
    refine ⟨⟨{ r with phase := .closing }, ?_, rfl⟩, ?_⟩
    · rw [State.recordOf, closed, ← State.recordOf,
        recordOf_updRecord (f := fun _ => { r with phase := .closing }) (fun _ _ => line), found]
      rfl
    · rw [closed, closeRecord, formGroup_outside _ _ _ (by decide), line]
      rfl
  next => exact ⟨⟨r, found, rfl⟩, rfl⟩

/-- A record with RS's result for one destination; after the last, the payload is dropped (R104). -/
def Record.withAnswer (site : Site) (d : Dest) (r : Record) : Record :=
  let r := { r with dests := updAt r.dests site (fun _ => d) }
  if r.dests.toList.contains .waiting then r else { r with head := [], body := none }

theorem Record.withAnswer_hdr (site : Site) (d : Dest) (r : Record) : (r.withAnswer site d).hdr = r.hdr := by
  unfold Record.withAnswer
  dsimp only
  split <;> rfl

theorem Record.withAnswer_dests (site : Site) (d : Dest) (r : Record) :
    (r.withAnswer site d).dests = updAt r.dests site (fun _ => d) := by
  unfold Record.withAnswer
  dsimp only
  split <;> rfl

theorem answerDest_eq (hdr : Nat) (site : Site) (d : Dest) (s : State) :
    answerDest hdr site d s = closeIfSettled hdr (s.updRecord hdr (Record.withAnswer site d)) := rfl

/-- A selection's answer reaches the destination of its record, and nothing but the records outside CMD. -/
theorem answerDest_answers {s : State} {hdr : Nat} {r : Record} (site : Site) (d : Dest)
    (found : s.recordOf hdr = some r) :
    (∃ r', (answerDest hdr site d s).recordOf hdr = some r' ∧ r'.dests[site] = d) ∧
      (answerDest hdr site d s).outside = { s with cu := (answerDest hdr site d s).cu }.outside := by
  have answered : (s.updRecord hdr (Record.withAnswer site d)).recordOf hdr = some (r.withAnswer site d) := by
    rw [recordOf_updRecord (fun x line => (x.withAnswer_hdr site d).trans line), found]
    rfl
  obtain ⟨⟨r', found', dests⟩, frame⟩ := closeIfSettled_keeps answered
  rw [answerDest_eq]
  refine ⟨⟨r', found', ?_⟩, frame⟩
  rw [dests, Record.withAnswer_dests]
  exact updAt_self _ _ _

/-- A route with one more selection refused (R76). -/
def RouteRec.withRefusal (x : RouteRec) : RouteRec :=
  { x with counters := { x.counters with refused := x.counters.refused + 1 } }

/-- A selection while the epoch is 0: its destination is settled NO_EPOCH and the refusal counted; nothing else outside
CMD and the records changes. -/
theorem exec_selection_noEpoch {s : State} {hdr : Nat} {r : Record} {site : Site} (ready : s.isReady = true)
    (epoch : s.rs.epoch = 0) (found : s.recordOf hdr = some r) (asks : r.asking = some site) :
    ∃ t r', exec (.selection hdr) s = .next t ∧ t.recordOf hdr = some r' ∧ r'.dests[site] = .settled .noEpoch ∧
      t.outside = { s.updRoute site RouteRec.withRefusal with cu := t.cu }.outside := by
  have refuses : selection hdr { s with out := [] } =
      answerDest hdr site (.settled .noEpoch) ({ s with out := [] }.updRoute site RouteRec.withRefusal) := by
    have found' : ({ s with out := [] } : State).recordOf hdr = some r := found
    have ready' : ({ s with out := [] } : State).isReady = true := ready
    rw [selection, found']
    simp only [asks, ready', if_true]
    rw [selectDest, if_pos epoch, recordOf_hdr found]
    rfl
  obtain ⟨⟨r', found', settled⟩, frame⟩ := answerDest_answers
    (s := { s with out := [] }.updRoute site RouteRec.withRefusal) site (.settled .noEpoch) found
  rw [← refuses] at found' frame
  have records : (flush (selection hdr { s with out := [] })).cu = (selection hdr { s with out := [] }).cu :=
    congrArg (·.cu) (flush_outside _)
  refine ⟨flush (selection hdr { s with out := [] }), r', rfl, ?_, settled, ?_⟩
  · rw [State.recordOf, records]
    exact found'
  · rw [flush_outside, frame, records]
    rfl

end Sys2Proof.Machine

open Sys2Proof Sys2Proof.Machine

/-- Settles O47: the refused forms fail a check of R60; a command that passes configures and evaluates one route, and
each clause reads one field of it. -/
theorem routeIsSet : Obligations.RouteIsSet := by
  intro s b rest p takes
  refine ⟨fun bad => ?refused, fun i inList four bad => ?badCandidate, ?passes⟩
  case refused =>
    refine exec_setRoute_refuses takes fun r cands dual passes => ?_
    obtain ⟨site, remote, count, one, four, -, -, -, mode⟩ := passes
    have code : byteAt p 6 = dual.code.toNat := congrArg BitVec.toNat mode
    have coded : dual.code.toNat ≤ 2 := by cases dual <;> decide
    have known : r.val ≤ 7 := by omega
    have foreign : r.val ≠ s.ownSite.val := fun same => remote (Fin.ext same)
    omega
  case badCandidate =>
    refine exec_setRoute_refuses takes fun r cands dual passes => ?_
    rw [passes.count] at inList
    have named := passes.byte inList
    rcases bad with beyond | ⟨j, before, twice⟩ | ⟨c, names, unfit⟩
    · omega
    · have same : cands[j] = cands[i] := Fin.ext (by rw [← named, ← passes.byte (before.trans inList), twice])
      exact before.ne ((List.Nodup.getElem_inj_iff passes.distinct).mp same)
    · have same : cands[i] = c := Fin.ext (by rw [← named, names])
      obtain ⟨configured, leads⟩ := passes.lead c (same ▸ List.getElem_mem inList)
      rcases unfit with missing | elsewhere
      · exact Bool.false_ne_true (missing.symm.trans configured)
      · exact elsewhere ((congrArg Fin.val leads).trans passes.site.symm)
  case passes =>
    intro r cands dual site remote count one four listed distinct lead mode
    obtain ⟨live, isLive⟩ : ∃ live, live = cands.any (fun c => s.paths[c].state == .up) := ⟨_, rfl⟩
    have anyUp : live = true ↔ ∃ c ∈ cands, s.paths[c].state = .up := by simp [isLive]
    rw [← anyUp]
    obtain ⟨t, runs, done, frame, raises⟩ := exec_setRoute_passes takes
      ⟨site, remote, count, one, four, listed, distinct, lead, mode⟩ isLive
    have rs : t.rs = (s.updRoute r _).rs := congrArg (·.rs) frame
    have route : t.rs.routes[r] =
        (s.rs.routes[r].configure (cands, dual, min 1000000 (field p 8 4))).evaluated live := by
      rw [rs]
      exact updAt_self _ _ _
    have others : ∀ x : Site, x ≠ r → t.rs.routes[x] = s.rs.routes[x] := by
      intro x apart
      rw [rs]
      exact updAt_other _ _ _ _ apart
    have epoch : t.rs.epoch = s.rs.epoch := by rw [rs]; rfl
    have outside : t.outside = { s with rs := t.rs }.outside := by rw [frame, rs]; rfl
    refine ⟨t, runs, done, ?_⟩
    rw [route]
    exact ⟨rfl, rfl, rfl, fun c => evaluated_configure_current, Iff.rfl, raises, rfl, rfl, rfl, others, epoch, outside⟩

/-- Settles O48: SET_EPOCH's two forms, and a selection while the epoch is 0; each clause reads one field. -/
theorem epochIsSet : Obligations.EpochIsSet := by
  refine ⟨fun s b rest p takes => ⟨exec_setEpoch_refuses takes, fun nonzero => ?sets⟩, ?noEpoch⟩
  case sets =>
    obtain ⟨t, runs, done, raised, frame⟩ := exec_setEpoch_sets takes nonzero
    have rs : t.rs = (s.withEpoch (BitVec.ofNat 32 (field p 0 4))).rs := congrArg (·.rs) frame
    refine ⟨t, runs, done, raised, ?_, fun r => ?restarted, ?_, ?_, frame.trans ?_⟩
    all_goals rw [rs]
    case restarted => simp [State.withEpoch]
    all_goals rfl
  case noEpoch =>
    intro s hdr r site ready epoch found asks
    obtain ⟨t, r', runs, found', settled, frame⟩ := exec_selection_noEpoch ready epoch found asks
    have rs : t.rs = (s.updRoute site RouteRec.withRefusal).rs := congrArg (·.rs) frame
    refine ⟨t, r', runs, found', settled, ?counted, fun other apart => ?others, ?unset, ?_, frame.trans ?_⟩
    all_goals rw [rs]
    case counted => exact updAt_self _ _ _
    case others => exact updAt_other _ _ _ _ apart
    case unset => exact epoch
    all_goals rfl
end
section
/-! What every operation keeps: the queue of waiting commands, and each capacity and range of Safe. It is said once for
each shared operation and each command; from it the statements CommandsLeaveTheQueue, TimeStaysInRange,
OwnQueueStaysBounded, PortQueuesStayBounded and BuffersStayBounded. -/

namespace Sys2Proof.Machine

-- One proof at a time: each would otherwise hold a thread of its own.
set_option Elab.async false

/-- What an operation keeps: the queue of waiting commands as it is, and each capacity and range where it holds. -/
structure KeepsSafe (s t : State) : Prop where
  queue : t.pending = s.pending
  time : s.tu.inRange → t.tu.inRange
  own : s.mi.inRange → t.mi.inRange
  ports : (∀ k : PortNo, s.tx[k].inRange) → ∀ k : PortNo, t.tx[k].inRange
  probes : (∀ p : PathNo, s.paths[p].inRange) → ∀ p : PathNo, t.paths[p].inRange
  caught : s.cu.inRange → t.cu.inRange
  records : (∀ r : Site, s.rmu[r].inRange) → ∀ r : Site, t.rmu[r].inRange

namespace KeepsSafe

theorem refl (s : State) : KeepsSafe s s := ⟨rfl, id, id, id, id, id, id⟩

theorem trans {s t u : State} (h : KeepsSafe s t) (k : KeepsSafe t u) : KeepsSafe s u where
  queue := k.queue.trans h.queue
  time := k.time ∘ h.time
  own := k.own ∘ h.own
  ports := k.ports ∘ h.ports
  probes := k.probes ∘ h.probes
  caught := k.caught ∘ h.caught
  records := k.records ∘ h.records

/-- A fold of such operations. -/
theorem overAll {α : Type} (l : List α) (f : α → State → State) (h : ∀ a s, KeepsSafe s (f a s)) (s : State) :
    KeepsSafe s (overAll l f s) :=
  overAll_induct (KeepsSafe s) l f (fun a _ u hu => hu.trans (h a u)) s (refl s)

/-- A state that holds every capacity and range, and the same queue. -/
theorem of_safe {s t : State} (queue : t.pending = s.pending) (h : t.Safe) : KeepsSafe s t :=
  ⟨queue, fun _ => h.time, fun _ => h.own, fun _ => h.ports, fun _ => h.probes, fun _ => h.caught, fun _ => h.records⟩

end KeepsSafe

/-! ## One object -/

/-- A bank keeps what every object of it meets, where the one changed keeps it. -/
theorem updAt_all {α : Type} {n : Nat} {P : α → Prop} {v : Vector α n} {i : Fin n} {f : α → α}
    (one : P v[i] → P (f v[i])) (all : ∀ j : Fin n, P v[j]) (j : Fin n) : P (updAt v i f)[j] := by
  have at_j : (updAt v i f)[j] = if j = i then f v[i] else v[j] := updAt_get v i j f
  rw [at_j]
  split
  · exact one (all i)
  · exact all j

/-- A change of all objects of a bank that keeps what each meets. -/
theorem map_all {α : Type} {n : Nat} {P : α → Prop} {v : Vector α n} {f : α → α} (each : ∀ x, P x → P (f x))
    (all : ∀ j : Fin n, P v[j]) (j : Fin n) : P (v.map f)[j] := by
  have at_j : (v.map f)[j] = f v[j] := Vector.getElem_map ..
  rw [at_j]
  exact each _ (all j)

theorem updTx_keepsSafe (k : PortNo) (f : Transmitter → Transmitter) (s : State)
    (h : s.tx[k].inRange → (f s.tx[k]).inRange := by exact id) : KeepsSafe s (s.updTx k f) :=
  { KeepsSafe.refl s with ports := updAt_all h }

theorem updPath_keepsSafe (p : PathNo) (f : PathRec → PathRec) (s : State)
    (h : s.paths[p].inRange → (f s.paths[p]).inRange := by exact id) : KeepsSafe s (s.updPath p f) :=
  { KeepsSafe.refl s with probes := updAt_all h }

theorem updSite_keepsSafe (r : Site) (f : RxSite → RxSite) (s : State)
    (h : s.rmu[r].inRange → (f s.rmu[r]).inRange := by exact id) : KeepsSafe s (s.updSite r f) :=
  { KeepsSafe.refl s with records := updAt_all h }

theorem updHop_keepsSafe (h : HopNo) (f : HopRec → HopRec) (s : State) : KeepsSafe s (s.updHop h f) :=
  { KeepsSafe.refl s with }

theorem updPort_keepsSafe (k : PortNo) (f : PortRec → PortRec) (s : State) : KeepsSafe s (s.updPort k f) :=
  { KeepsSafe.refl s with }

theorem updRx_keepsSafe (k : PortNo) (f : Receiver → Receiver) (s : State) : KeepsSafe s (s.updRx k f) :=
  { KeepsSafe.refl s with }

theorem updRoute_keepsSafe (r : Site) (f : RouteRec → RouteRec) (s : State) : KeepsSafe s (s.updRoute r f) :=
  { KeepsSafe.refl s with }

theorem updBlock_keepsSafe (b : BlockNo) (f : Block → Block) (s : State) : KeepsSafe s (s.updBlock b f) :=
  { KeepsSafe.refl s with }

theorem updRecord_keepsSafe (hdr : Nat) (f : Record → Record) (s : State) : KeepsSafe s (s.updRecord hdr f) :=
  { KeepsSafe.refl s with }

theorem emit_keepsSafe (e : OutEvent) (s : State) : KeepsSafe s (s.emit e) := { KeepsSafe.refl s with }

/-- A change of CMD alone. -/
theorem cmd_keepsSafe (c : CommandUnit) (s : State) : KeepsSafe s { s with cmd := c } := { KeepsSafe.refl s with }

/-- A change of the Time Unit's record that keeps its ranges. -/
theorem tu_keepsSafe (u : TimeUnit) (s : State) (h : s.tu.inRange → u.inRange := by exact id) : KeepsSafe s { s with tu := u } :=
  { KeepsSafe.refl s with time := h }

/-- A change of the Memory Interposer that keeps the own-request queue within its capacity. -/
theorem mi_keepsSafe (m : Interposer) (s : State) (h : s.mi.inRange → m.inRange := by exact id) :
    KeepsSafe s { s with mi := m } :=
  { KeepsSafe.refl s with own := h }

/-- A change of the Capture Unit that keeps the catch buffer within its capacity. -/
theorem cu_keepsSafe (c : CaptureUnit) (s : State) (h : s.cu.inRange → c.inRange := by exact id) :
    KeepsSafe s { s with cu := c } :=
  { KeepsSafe.refl s with caught := h }

/-! ## CMD and the own-request queue (R90, R163, R166) -/

theorem raise_keepsSafe (c : Cause) (s : State) : KeepsSafe s (raise c s) := cmd_keepsSafe _ s

theorem markStale_keepsSafe (m : Mirror) (s : State) : KeepsSafe s (markStale m s) := by
  cases m <;> exact cmd_keepsSafe _ s

/-- A group that joins where the queue has room for it leaves the queue within its capacity. -/
theorem joinGroup_keepsSafe {g : Group} {s : State} (room : s.hasRoom g = true) : KeepsSafe s (joinGroup g s) := by
  have fits : s.mi.own.length + g.reqs.length ≤ 32 := of_decide_eq_true room
  have push : ∀ u : State, u.mi = s.mi → u.pending = s.pending → u.tu = s.tu → u.tx = s.tx → u.paths = s.paths →
      u.cu = s.cu → u.rmu = s.rmu → KeepsSafe s (pushGroup g u) := by
    intro u mi queue tu tx paths cu rmu
    refine ⟨queue, tu ▸ id, fun _ => ?_, tx ▸ id, paths ▸ id, cu ▸ id, rmu ▸ id⟩
    simpa [Interposer.inRange, pushGroup, mi] using fits
  unfold joinGroup
  split
  · exact (push s rfl rfl rfl rfl rfl rfl rfl).trans (raise_keepsSafe _ _)
  · exact push (setReady s) rfl rfl rfl rfl rfl rfl rfl
  · exact push s rfl rfl rfl rfl rfl rfl rfl

theorem formGroup_keepsSafe (reqs : List (Nat × Option WLine × OwnTag)) (act : JoinAct) (s : State) :
    KeepsSafe s (formGroup reqs act s) := by
  unfold formGroup
  dsimp only
  split
  next joins =>
    exact (mi_keepsSafe _ s).trans (joinGroup_keepsSafe (Bool.and_eq_true_iff.mp joins).2)
  next => exact mi_keepsSafe _ s

theorem flush_keepsSafe (s : State) : KeepsSafe s (flush s) := by
  unfold flush
  split
  · dsimp only
    split
    · exact cmd_keepsSafe _ s
    · exact (cmd_keepsSafe _ s).trans (formGroup_keepsSafe _ _ _)
  · exact cmd_keepsSafe _ s

theorem complete_keepsSafe (b : BlockNo) (e : ErrorCode) (n : Nat) (results : List (Nat × List Byte)) (s : State) :
    KeepsSafe s (complete b e n results s) :=
  ((flush_keepsSafe s).trans (updBlock_keepsSafe b _ _)).trans (formGroup_keepsSafe _ _ _)

/-- A meaning whose event keeps them all keeps them all. -/
theorem run_keepsSafe {event : State → State} {s t : State} (h : ∀ u, KeepsSafe u (event u)) (r : run event s = .next t) :
    KeepsSafe s t := by
  cases r
  exact KeepsSafe.trans (t := { s with out := [] }) { KeepsSafe.refl s with } ((h _).trans (flush_keepsSafe _))

/-! ## Records and the catch buffer (chapter 6) -/

theorem closeRecord_keepsSafe (r : Record) (s : State) : KeepsSafe s (closeRecord r s) :=
  (updRecord_keepsSafe _ _ s).trans (formGroup_keepsSafe _ _ _)

theorem closeIfSettled_keepsSafe (hdr : Nat) (s : State) : KeepsSafe s (closeIfSettled hdr s) := by
  unfold closeIfSettled
  split
  · split
    · exact closeRecord_keepsSafe _ s
    · exact .refl s
  · exact .refl s

theorem reportDest_keepsSafe (hdr : Nat) (site : Site) (f : Dest → Dest) (s : State) :
    KeepsSafe s (reportDest hdr site f s) := by
  unfold reportDest
  split
  · split
    · exact .refl s
    · exact (updRecord_keepsSafe _ _ s).trans (closeIfSettled_keepsSafe _ _)
  · exact .refl s

theorem reportStart_keepsSafe (m : Msg) (stamp : Stamp) (s : State) : KeepsSafe s (reportStart m stamp s) := by
  unfold reportStart
  split
  · split
    · exact .refl s
    · exact (updRecord_keepsSafe _ _ s).trans (formGroup_keepsSafe _ _ _)
  · exact .refl s

/-- A body line copied into the buffer replaces its entry, or takes a place, the oldest making way where all are taken
(R101). -/
theorem catchBytes_length {line : Nat} {w : WLine} {buffer : List CatchEntry} (h : buffer.length ≤ 32) :
    (catchBytes line w buffer).length ≤ 32 := by
  unfold catchBytes catchCapacity
  split
  next e found =>
    have shorter : (buffer.filter (fun e => e.line != line)).length < buffer.length := by
      refine List.length_filter_lt_length_iff_exists.mpr ⟨e, List.mem_of_find?_eq_some found, ?_⟩
      simpa using List.find?_some found
    simp only [List.length_append, List.length_singleton]
    omega
  next =>
    split <;> simp only [List.length_append, List.length_singleton, List.length_drop] <;> omega

theorem bodyWrite_keepsSafe (line : Nat) (w : WLine) (s : State) : KeepsSafe s (bodyWrite line w s) :=
  cu_keepsSafe _ _ catchBytes_length

theorem recordClosed_keepsSafe (hdr : Nat) (s : State) : KeepsSafe s (recordClosed hdr s) := cu_keepsSafe _ _

/-- Entries taken out of the catch buffer. -/
theorem filter_inRange {c : CaptureUnit} {test : CatchEntry → Bool} (h : c.inRange) :
    (c.buffer.filter test).length ≤ 32 := (List.length_filter_le _ _).trans h

theorem gather_keepsSafe (r : Record) (s : State) : KeepsSafe s (gather r s) := by
  unfold gather
  dsimp only
  split
  · exact .trans (cu_keepsSafe _ _ (by exact filter_inRange)) (updRecord_keepsSafe _ _ _)
  · exact .trans (.trans (cu_keepsSafe _ _ (by exact filter_inRange)) (updRecord_keepsSafe _ _ _)) (formGroup_keepsSafe _ _ _)

theorem takePosting_keepsSafe (ring : RingNo) (slot hdr : Nat) (w : WLine) (s : State) :
    KeepsSafe s (takePosting ring slot hdr w s) := by
  unfold takePosting
  extract_lets bs r unit opened
  have kept : KeepsSafe s opened := cu_keepsSafe _ _
  split
  · exact kept.trans (closeRecord_keepsSafe _ _)
  · exact kept.trans (gather_keepsSafe _ _)

theorem headerWrite_keepsSafe (ring : RingNo) (t : RingTable) (j : Nat) (w : WLine) (s : State) :
    KeepsSafe s (headerWrite ring t j w s).1 := by
  unfold headerWrite
  split
  · split
    · exact .refl s
    · exact raise_keepsSafe _ s
    · exact takePosting_keepsSafe _ _ _ _ s
  · exact .refl s

theorem transmitWrite_keepsSafe (ring : RingNo) (t : RingTable) (line : Nat) (ls : List WLine) (s : State) :
    KeepsSafe s (transmitWrite ring t line ls s).1 := by
  induction line, ls, s using transmitWrite.induct ring t with
  | case1 => exact .refl _
  | case2 line w s i even =>
    simp only [transmitWrite, i, even, if_true]
    exact headerWrite_keepsSafe _ _ _ _ _
  | case3 line w s i odd =>
    simp only [transmitWrite, i, odd, if_false]
    exact bodyWrite_keepsSafe _ _ _
  | case4 line w w' ws s i even a ih =>
    simp only [transmitWrite, i, even, if_true]
    exact ((bodyWrite_keepsSafe _ _ _).trans (headerWrite_keepsSafe _ _ _ _ _)).trans ih
  | case5 line w w' ws s i odd ih =>
    simp only [transmitWrite, i, odd, if_false]
    exact (bodyWrite_keepsSafe _ _ _).trans ih

theorem captureAnswer_keepsSafe (hdr : Nat) (isBody ok : Bool) (data : List Byte) (s : State) :
    KeepsSafe s (captureAnswer hdr isBody ok data s) := by
  unfold captureAnswer
  split
  · split
    · exact .refl s
    · split
      · exact updRecord_keepsSafe _ _ s
      · exact ((updRecord_keepsSafe _ _ s).trans (raise_keepsSafe _ _)).trans (closeIfSettled_keepsSafe _ _)
  · exact .refl s

theorem dropRing_keepsSafe (ring : RingNo) (w : Window) (s : State) : KeepsSafe s (dropRing ring w s) :=
  cu_keepsSafe _ _ (by exact filter_inRange)

theorem startRing_keepsSafe (ring : RingNo) (w : Window) (s : State) : KeepsSafe s (startRing ring w s) :=
  cu_keepsSafe _ _

theorem captureReset_keepsSafe (s : State) : KeepsSafe s (captureReset s) :=
  .overAll _ _ (fun _ u => closeRecord_keepsSafe _ u) s

/-! ## Ports (chapter 7) -/

/-- A change of a port's transmitter that leaves its two queues. -/
theorem txQueues_keepsSafe (k : PortNo) (f : Transmitter → Transmitter) (s : State)
    (h : ∀ t, (f t).urgent = t.urgent ∧ (f t).bulk = t.bulk := by exact fun _ => ⟨rfl, rfl⟩) :
    KeepsSafe s (s.updTx k f) :=
  updTx_keepsSafe k f s (by unfold Transmitter.inRange; rw [(h _).1, (h _).2]; exact id)

theorem testStarted_keepsSafe (k : PortNo) (run : Byte) (i : Nat) (s : State) : KeepsSafe s (testStarted k run i s) := by
  unfold testStarted
  split
  · dsimp only
    split
    · exact cmd_keepsSafe _ s
    · exact .refl s
  · exact .refl s

/-- A path has at most 4 outstanding probes as another starts: the oldest of four makes way (R49). -/
theorem probeStarted_inRange {id : Byte} {t1 : Stamp} {now : Nat} {x : PathRec} (h : x.inRange) :
    (x.probeStarted id t1 now).inRange := by
  unfold PathRec.inRange at h ⊢
  unfold PathRec.probeStarted
  dsimp only
  rw [List.length_append, List.length_singleton]
  split
  next => rw [List.length_drop]; omega
  next few => simp only [decide_eq_true_eq] at few; omega

theorem startItem_keepsSafe (k : PortNo) (item : LineItem) (s : State) : KeepsSafe s (startItem k item s) := by
  unfold startItem
  dsimp only
  have placed : ∀ (e : OutEvent) (f : Transmitter → Transmitter), (∀ t, (f t).urgent = t.urgent ∧ (f t).bulk = t.bulk) →
      KeepsSafe s ((s.emit e).updTx k f) := fun e f h => (emit_keepsSafe e s).trans (txQueues_keepsSafe k f _ h)
  split
  · exact placed _ _ (fun _ => ⟨rfl, rfl⟩)
  · exact (placed _ _ (by exact fun _ => ⟨rfl, rfl⟩)).trans (updPath_keepsSafe _ _ _ (by exact probeStarted_inRange))
  · exact (placed _ _ (by exact fun _ => ⟨rfl, rfl⟩)).trans (reportStart_keepsSafe _ _ _)
  · exact (placed _ _ (by exact fun _ => ⟨rfl, rfl⟩)).trans (testStarted_keepsSafe _ _ _ _)
  · exact (placed _ _ (by exact fun _ => ⟨rfl, rfl⟩)).trans (.overAll _ _ (fun m u => reportStart_keepsSafe m _ u) _)

theorem startFragment_keepsSafe (k : PortNo) (c : BulkContext) (s : State) : KeepsSafe s (startFragment k c s) :=
  (txQueues_keepsSafe _ _ _).trans (startItem_keepsSafe k _ _)

theorem resume_keepsSafe (k : PortNo) (c : BulkContext) (s : State) : KeepsSafe s (resume k c s) :=
  startFragment_keepsSafe k _ s

/-- Frames taken from a port's queues. -/
theorem inRange_of_le {t t' : Transmitter} (urgent : t'.urgent.length ≤ t.urgent.length)
    (bulk : t'.bulk.length ≤ t.bulk.length) (h : t.inRange) : t'.inRange :=
  ⟨urgent.trans h.1, bulk.trans h.2⟩

theorem startBulk_keepsSafe (k : PortNo) (f : BulkFrame) (s : State) : KeepsSafe s (startBulk k f s) :=
  (updTx_keepsSafe _ _ _ (by exact inRange_of_le le_rfl (by simp))).trans (startFragment_keepsSafe k _ _)

theorem holdoffOrResume_keepsSafe (k : PortNo) (c : BulkContext) (s : State) : KeepsSafe s (holdoffOrResume k c s) := by
  unfold holdoffOrResume
  split
  · exact resume_keepsSafe k c s
  · split
    · exact .refl s
    · exact txQueues_keepsSafe _ _ _

theorem lineChoice_keepsSafe (k : PortNo) (s : State) : KeepsSafe s (lineChoice k s) := by
  unfold lineChoice
  split
  · exact .refl s
  · dsimp only
    split
    · exact (txQueues_keepsSafe _ _ _).trans (startItem_keepsSafe k _ _)
    · exact (txQueues_keepsSafe _ _ _).trans (startItem_keepsSafe k _ _)
    · next queued =>
      exact (updTx_keepsSafe _ _ _ (by exact inRange_of_le (by rw [queued]; exact Nat.le_succ _) le_rfl)).trans (startItem_keepsSafe k _ _)
    · next queued =>
      exact (updTx_keepsSafe _ _ _ (by exact inRange_of_le (by rw [queued]; exact Nat.le_succ _) le_rfl)).trans (startItem_keepsSafe k _ _)
    · split
      · split
        · exact holdoffOrResume_keepsSafe k _ s
        · exact startFragment_keepsSafe k _ s
      · exact startBulk_keepsSafe k _ s
      · exact txQueues_keepsSafe _ _ _

theorem placeProbeBack_keepsSafe (k : PortNo) (b : ProbeBack) (s : State) : KeepsSafe s (placeProbeBack k b s) :=
  (txQueues_keepsSafe _ _ _).trans (lineChoice_keepsSafe k _)

theorem withdrawProbe_keepsSafe (p : PathNo) (s : State) : KeepsSafe s (withdrawProbe p s) :=
  txQueues_keepsSafe _ _ _ (fun t => by split <;> exact ⟨rfl, rfl⟩)

theorem displace_keepsSafe (k : PortNo) (removed : List Msg) (s : State) : KeepsSafe s (displace k removed s) := by
  unfold displace
  dsimp only
  have dropped : ∀ u : State, KeepsSafe u (overAll (removed.filter (·.dual)) reportDropped u) :=
    .overAll _ _ (fun m u => reportDest_keepsSafe _ _ _ u)
  split
  · exact (txQueues_keepsSafe _ _ s).trans (dropped _)
  · exact ((txQueues_keepsSafe _ _ s).trans (dropped _)).trans { KeepsSafe.refl _ with }

theorem without_inRange {p : PathNo} {t : Transmitter} : t.inRange → (t.without p).inRange := by
  unfold Transmitter.without
  dsimp only
  split <;> exact inRange_of_le (List.length_filter_le _ _) (List.length_filter_le _ _)

theorem departPath_keepsSafe (p : PathNo) (s : State) : KeepsSafe s (departPath p s) :=
  ((updTx_keepsSafe _ _ _ (by exact without_inRange)).trans (displace_keepsSafe _ _ _)).trans (lineChoice_keepsSafe _ _)

theorem linkLostTx_keepsSafe (k : PortNo) (s : State) : KeepsSafe s (linkLostTx k s) := by
  unfold linkLostTx
  dsimp only
  have emptied : ∀ (u : State) (c : Transmitter → TxCounters),
      KeepsSafe u (u.updTx k (fun t => { t.emptied with counters := c t })) :=
    fun u c => updTx_keepsSafe _ _ _ (by exact inRange_of_le (Nat.zero_le _) (Nat.zero_le _))
  split
  · exact ((emit_keepsSafe _ s).trans (emptied _ _)).trans (displace_keepsSafe k _ _)
  · exact (emptied _ _).trans (displace_keepsSafe k _ _)

theorem fragmentBoundary_keepsSafe (k : PortNo) (c : BulkContext) (s : State) :
    KeepsSafe s (fragmentBoundary k c s) := by
  unfold fragmentBoundary
  dsimp only
  split
  · exact startFragment_keepsSafe k c s
  · split
    · exact (txQueues_keepsSafe _ _ _).trans (startFragment_keepsSafe k c _)
    · exact (txQueues_keepsSafe _ _ _).trans (lineChoice_keepsSafe k _)

theorem clearLine_keepsSafe (k : PortNo) (s : State) : KeepsSafe s (clearLine k s) :=
  txQueues_keepsSafe _ _ _

theorem fragmentDone_keepsSafe (k : PortNo) (f : BulkFrame) (i : Nat) (abandoned : Bool) (s : State) :
    KeepsSafe s (fragmentDone k f i abandoned s) := by
  unfold fragmentDone
  dsimp only
  refine (clearLine_keepsSafe k s).trans ?_
  split
  · exact lineChoice_keepsSafe k _
  · split
    · exact ((txQueues_keepsSafe _ _ _).trans
        (.overAll _ _ (fun m u => reportDest_keepsSafe _ _ _ u) _)).trans (lineChoice_keepsSafe k _)
    · split
      · exact fragmentBoundary_keepsSafe k _ _
      · exact lineChoice_keepsSafe k _

theorem holdoffExpiry_keepsSafe (k : PortNo) (s : State) : KeepsSafe s (holdoffExpiry k s) := by
  unfold holdoffExpiry
  split
  · split
    · exact resume_keepsSafe k _ s
    · exact .refl s
  · exact .refl s

/-! ## Paths, routes and hops (chapters 2 to 4) -/

/-- A change of a path's record that leaves its outstanding probes, or takes some of them. -/
theorem pathProbes_keepsSafe (p : PathNo) (f : PathRec → PathRec) (s : State)
    (h : ∀ x, (f x).outstanding.length ≤ x.outstanding.length := by exact fun _ => le_rfl) :
    KeepsSafe s (s.updPath p f) :=
  updPath_keepsSafe p f s (fun few => (h _).trans few)

theorem recompute_keepsSafe (p : PathNo) (s : State) : KeepsSafe s (recompute p s) :=
  pathProbes_keepsSafe _ _ _

theorem recomputePort_keepsSafe (k : PortNo) (s : State) : KeepsSafe s (recomputePort k s) := by
  refine .overAll _ _ (fun p u => ?_) s
  split
  · exact recompute_keepsSafe p u
  · exact .refl u

theorem evalRoute_keepsSafe (site : Site) (s : State) : KeepsSafe s (evalRoute site s) := by
  unfold evalRoute
  dsimp only
  split
  · exact .refl s
  · exact ((updRoute_keepsSafe site _ s).trans (markStale_keepsSafe _ _)).trans (raise_keepsSafe _ _)

theorem evalRoutesOf_keepsSafe (p : PathNo) (s : State) : KeepsSafe s (evalRoutesOf p s) := by
  refine .overAll _ _ (fun site u => ?_) s
  split
  · exact evalRoute_keepsSafe site u
  · exact .refl u

theorem notifyPath_keepsSafe (wasUp : Bool) (p : PathNo) (s : State) : KeepsSafe s (notifyPath wasUp p s) := by
  unfold notifyPath
  dsimp only
  have told := ((markStale_keepsSafe .summary s).trans (raise_keepsSafe .pathChange _)).trans (evalRoutesOf_keepsSafe p _)
  split
  · exact told.trans (departPath_keepsSafe p _)
  · exact told

theorem placeProbe_keepsSafe (p : PathNo) (s : State) : KeepsSafe s (placeProbe p s) := by
  unfold placeProbe
  dsimp only
  have given : KeepsSafe s (s.updPath p (fun x => { x with nextId := x.nextId + 1 })) :=
    pathProbes_keepsSafe _ _ _
  split
  · exact ((given.trans (pathProbes_keepsSafe _ _ _)).trans (txQueues_keepsSafe _ _ _)).trans
      (lineChoice_keepsSafe _ _)
  · exact (given.trans (txQueues_keepsSafe _ _ _)).trans (lineChoice_keepsSafe _ _)

theorem enterProbing_keepsSafe (p : PathNo) (s : State) : KeepsSafe s (enterProbing p s) := by
  unfold enterProbing
  dsimp only
  exact (((pathProbes_keepsSafe _ _ _).trans (placeProbe_keepsSafe p _)).trans
    (pathProbes_keepsSafe _ _ _)).trans (notifyPath_keepsSafe _ p _)

theorem evalDown_keepsSafe (p : PathNo) (s : State) : KeepsSafe s (evalDown p s) := by
  unfold evalDown
  split
  · exact enterProbing_keepsSafe p s
  · exact .refl s

theorem pathDown_keepsSafe (p : PathNo) (s : State) : KeepsSafe s (pathDown p s) := by
  unfold pathDown
  dsimp only
  split
  · exact (((pathProbes_keepsSafe _ _ _ (by exact fun _ => Nat.zero_le _)).trans (withdrawProbe_keepsSafe p _)).trans
      (notifyPath_keepsSafe _ p _)).trans (evalDown_keepsSafe p _)
  · exact .refl s

theorem cutProbeTimer_outstanding (now : Nat) (x : PathRec) : (cutProbeTimer now x).outstanding = x.outstanding := by
  unfold cutProbeTimer
  split
  · split <;> rfl
  · rfl

theorem pathNotice_keepsSafe (st : HopState) (p : PathNo) (s : State) : KeepsSafe s (pathNotice st p s) := by
  unfold pathNotice
  dsimp only
  refine (recompute_keepsSafe p s).trans ?_
  split
  · exact .refl _
  · exact evalDown_keepsSafe p _
  · split
    · exact pathDown_keepsSafe p _
    · split
      · exact .refl _
      · exact pathProbes_keepsSafe _ _ _ (by exact fun x => (congrArg List.length (cutProbeTimer_outstanding ..)).le)

theorem hopNotice_keepsSafe (h : HopNo) (s : State) : KeepsSafe s (hopNotice h s) := by
  unfold hopNotice
  split
  · refine .overAll _ _ (fun p u => ?_) s
    split
    · exact pathNotice_keepsSafe _ p u
    · exact .refl u
  · exact .refl s

/-- A change of every path's record that leaves its outstanding probes, or takes some of them. -/
theorem mapPaths_keepsSafe {f : PathRec → PathRec} {s : State}
    (h : ∀ x, (f x).outstanding.length ≤ x.outstanding.length) : KeepsSafe s { s with paths := s.paths.map f } :=
  { KeepsSafe.refl s with probes := map_all fun x few => (h x).trans few }

theorem heardNotice_keepsSafe (k : PortNo) (src : Nat) (s : State) : KeepsSafe s (heardNotice k src s) :=
  mapPaths_keepsSafe (fun x => by split <;> exact le_rfl)

theorem portHeard_keepsSafe (k : PortNo) (s : State) : KeepsSafe s (portHeard k s) :=
  mapPaths_keepsSafe (fun x => by split <;> exact le_rfl)

theorem probeTimerExpiry_keepsSafe (p : PathNo) (s : State) : KeepsSafe s (probeTimerExpiry p s) := by
  unfold probeTimerExpiry
  split
  · exact (pathProbes_keepsSafe _ _ _).trans (placeProbe_keepsSafe p _)
  · exact .refl s

theorem enterUp_keepsSafe (p : PathNo) (s : State) : KeepsSafe s (enterUp p s) :=
  (pathProbes_keepsSafe _ _ _ (by exact fun x => (congrArg List.length (cutProbeTimer_outstanding ..)).le)).trans (notifyPath_keepsSafe _ p _)

/-- A sample leaves the outstanding probes. -/
theorem takeSample_outstanding (rtt : Int) (m : Method) (f : Int) (x : PathRec) :
    (x.takeSample rtt m f).outstanding = x.outstanding := by
  unfold PathRec.takeSample PathRec.filter
  dsimp only
  split
  · rfl
  · split
    · rfl
    · split
      · split <;> rfl
      · rfl

theorem probeBackArrived_keepsSafe (k : PortNo) (src : Nat) (id : Byte) (remote : Bool) (t2 t3 t4 : Stamp) (here : Bool)
    (s : State) : KeepsSafe s (probeBackArrived k src id remote t2 t3 t4 here s) := by
  unfold probeBackArrived
  split
  · exact .refl s
  next p _ =>
    split
    · exact pathProbes_keepsSafe _ _ _
    next e _ =>
      dsimp only
      have matched : KeepsSafe s (s.updPath p (fun x => { x with outstanding := x.outstanding.erase e })) :=
        pathProbes_keepsSafe _ _ _ (fun _ => List.length_erase_le)
      refine matched.trans ?_
      split
      · exact pathProbes_keepsSafe _ _ _
      next rtt m f _ =>
        have sampled : ∀ u : State, KeepsSafe u (u.updPath p (PathRec.takeSample rtt m f)) :=
          fun u => pathProbes_keepsSafe _ _ _ (fun x => (congrArg List.length (takeSample_outstanding rtt m f x)).le)
        refine (sampled _).trans ?_
        split
        · exact enterUp_keepsSafe _ _
        · exact .refl _

theorem trailingLag_keepsSafe (p : PathNo) (arrival accepted : Stamp) (s : State) :
    KeepsSafe s (trailingLag p arrival accepted s) := pathProbes_keepsSafe _ _ _

theorem evalPaths_keepsSafe (s : State) : KeepsSafe s (evalPaths s) := .overAll _ _ evalDown_keepsSafe s

theorem evalPort_keepsSafe (k : PortNo) (s : State) : KeepsSafe s (evalPort k s) := by
  refine .overAll _ _ (fun p u => ?_) s
  split
  · exact evalDown_keepsSafe p u
  · exact .refl u

theorem downPort_keepsSafe (k : PortNo) (s : State) : KeepsSafe s (downPort k s) := by
  refine .overAll _ _ (fun p u => ?_) s
  split
  · exact pathDown_keepsSafe p u
  · exact .refl u

theorem noteHop_keepsSafe (before : HopState) (h : HopNo) (s : State) : KeepsSafe s (noteHop before h s) := by
  unfold noteHop
  split
  · exact .refl s
  · exact (markStale_keepsSafe _ s).trans (raise_keepsSafe _ _)

theorem changeHop_keepsSafe (h : HopNo) (f : HopRec → HopRec) (s : State) : KeepsSafe s (changeHop h f s) := by
  unfold changeHop
  dsimp only
  have noted := (updHop_keepsSafe h f s).trans (noteHop_keepsSafe s.hops[h].state h _)
  split
  · exact noted
  · exact noted.trans (hopNotice_keepsSafe h _)

theorem hopEntry_keepsSafe (k : PortNo) (e : HopEntry) (s : State) : KeepsSafe s (hopEntry k e s) := by
  unfold hopEntry
  split
  · exact .refl s
  · split
    · exact changeHop_keepsSafe _ _ s
    · exact .refl s

theorem hopstatArrived_keepsSafe (k : PortNo) (entries : List HopEntry) (s : State) :
    KeepsSafe s (hopstatArrived k entries s) := by
  unfold hopstatArrived
  split
  · exact .refl s
  · exact (portHeard_keepsSafe k s).trans (.overAll _ _ (hopEntry_keepsSafe k) _)

theorem moveReportTimer_keepsSafe (ms : Nat) (h : HopNo) (s : State) : KeepsSafe s (moveReportTimer ms h s) := by
  unfold moveReportTimer
  split
  · dsimp only
    split
    · exact changeHop_keepsSafe h _ s
    · exact updHop_keepsSafe h _ s
  · exact .refl s

theorem answerDest_keepsSafe (hdr : Nat) (site : Site) (d : Dest) (s : State) : KeepsSafe s (answerDest hdr site d s) :=
  (updRecord_keepsSafe _ _ s).trans (closeIfSettled_keepsSafe _ _)

theorem refuseSelection_keepsSafe (hdr : Nat) (site : Site) (o : DestOutcome) (s : State) :
    KeepsSafe s (refuseSelection hdr site o s) :=
  (updRoute_keepsSafe site _ s).trans (answerDest_keepsSafe _ _ _ _)

theorem joinNewest_length (m : Msg) (fs : List BulkFrame) : (joinNewest m fs).length = fs.length := by
  induction fs with
  | nil => rfl
  | cons f fs ih => unfold joinNewest; split <;> simp [ih]

/-- A message placed where the port has room leaves its queues within their capacities (R69). -/
theorem place_inRange {m : Msg} {t : Transmitter} (room : t.roomFor m.path m.cls m.payload.length = true)
    (h : t.inRange) : (t.place m).inRange := by
  obtain ⟨urgent, bulk⟩ := h
  unfold Transmitter.place
  unfold Transmitter.roomFor urgentCapacity bulkCapacity at room
  split at room
  next cls =>
    have below : t.urgent.length < 32 := of_decide_eq_true room
    exact ⟨by simpa using below, bulk⟩
  next cls =>
    split
    next joins => exact ⟨urgent, by simpa [joinNewest_length] using bulk⟩
    next opens =>
      have below : t.bulk.length < 16 := by simpa [opens] using room
      exact ⟨urgent, by simpa using below⟩

/-- A message placed on a path whose port has room. -/
theorem placeMsg_keepsSafe {m : Msg} {s : State} (room : hasPortRoom s m.cls m.payload.length m.path = true) :
    KeepsSafe s (placeMsg m s) := updTx_keepsSafe _ _ _ (place_inRange room)

/-- A selection's message placed with the route's next number on a path whose port has room. -/
theorem placeFresh_keepsSafe {r : Record} {site : Site} {p : PathNo} {fallback : Bool} {s : State}
    (room : hasPortRoom s r.cls r.size p = true) :
    KeepsSafe s (placeMsg (freshMsg s r site p) (advanceRoute site r.cls fallback s)) :=
  KeepsSafe.trans (t := advanceRoute site r.cls fallback s) { KeepsSafe.refl s with } (placeMsg_keepsSafe room)

theorem dualCopy_keepsSafe (m : Msg) (force : Bool) (ranked : List PathNo) (s : State) :
    KeepsSafe s (dualCopy m force ranked s).1 := by
  unfold dualCopy
  split
  · split
    · split
      next room => exact (updRoute_keepsSafe _ _ s).trans (placeMsg_keepsSafe room)
      · exact .refl s
    · exact .refl s
  · exact .refl s

theorem selectDest_keepsSafe (r : Record) (site : Site) (s : State) : KeepsSafe s (selectDest r site s) := by
  unfold selectDest
  split
  · exact refuseSelection_keepsSafe _ _ _ s
  · dsimp only
    split
    · exact refuseSelection_keepsSafe _ _ _ s
    · have current : ∀ p, KeepsSafe s (setCurrent site p s) := fun p => updRoute_keepsSafe _ _ s
      split
      · exact (current _).trans (refuseSelection_keepsSafe _ _ _ _)
      next p placed =>
        have room := List.find?_some placed
        have taken := fun fallback => (current _).trans (placeFresh_keepsSafe (site := site) (fallback := fallback) room)
        split
        · exact ((((taken _).trans (dualCopy_keepsSafe _ r.force _ _)).trans (answerDest_keepsSafe _ _ _ _)).trans
            (lineChoice_keepsSafe _ _)).trans (lineChoice_keepsSafe _ _)
        · exact (((taken _).trans (dualCopy_keepsSafe _ r.force _ _)).trans (answerDest_keepsSafe _ _ _ _)).trans
            (lineChoice_keepsSafe _ _)

theorem selection_keepsSafe (hdr : Nat) (s : State) : KeepsSafe s (selection hdr s) := by
  unfold selection
  split
  · split
    · split
      · exact selectDest_keepsSafe _ _ s
      · exact .refl s
    · exact .refl s
  · exact .refl s

theorem reselect_keepsSafe (m : Msg) (s : State) : KeepsSafe s (reselect m s) := by
  unfold reselect
  dsimp only
  split
  next p placed =>
    have room : hasPortRoom s m.cls m.payload.length p = true := List.find?_some placed
    have placed := fun f => (updRoute_keepsSafe m.site f s).trans
      (placeMsg_keepsSafe (m := { m with path := p }) (s := s.updRoute m.site f) room)
    exact ((placed _).trans (reportDest_keepsSafe _ _ _ _)).trans (lineChoice_keepsSafe _ _)
  next => exact (updRoute_keepsSafe _ _ s).trans (reportDest_keepsSafe _ _ _ _)

theorem reselection_keepsSafe (k : PortNo) (s : State) : KeepsSafe s (reselection k s) := by
  unfold reselection
  split
  next m bs taken =>
    exact KeepsSafe.trans (t := { s with rs := { s.rs with batches := bs } }) { KeepsSafe.refl s with }
      (reselect_keepsSafe m _)
  · exact .refl s

/-! ## Receive Merge Unit (chapter 9) -/

/-- A site's ring changed, its pending list no longer than before. -/
theorem updRing_keepsSafe (site : Site) (f : RxSite → RxSite) (s : State)
    (h : ∀ x, (f x).ring.pending.length ≤ x.ring.pending.length := by exact fun _ => le_rfl) :
    KeepsSafe s (s.updSite site f) :=
  updSite_keepsSafe site f s (fun few => (h _).trans few)

/-- A window's change leaves the ring. -/
theorem setWindow_ring (cls : MsgClass) (f : RxWindow → RxWindow) (x : RxSite) : (x.setWindow cls f).ring = x.ring := by
  cases cls <;> rfl

theorem updWindow_keepsSafe (site : Site) (cls : MsgClass) (f : RxWindow → RxWindow) (s : State) :
    KeepsSafe s (s.updWindow site cls f) :=
  updRing_keepsSafe _ _ _ (fun x => by rw [setWindow_ring])

theorem advance_pending (n : Nat) (r : RxRing) : (r.advance n).pending = r.pending := by
  unfold RxRing.advance
  split <;> rfl

theorem writeSlot_keepsSafe (site : Site) (a b : List Byte) (s : State) : KeepsSafe s (writeSlot site a b s) := by
  unfold writeSlot
  dsimp only
  split
  next base n _ =>
    have advanced : KeepsSafe s (s.updSite site (fun x => { x with ring := s.rmu[site].ring.advance n })) :=
      updSite_keepsSafe _ _ _ (by unfold RxSite.inRange; rw [advance_pending]; exact id)
    exact advanced.trans (formGroup_keepsSafe _ _ _)
  · exact .refl s

theorem writeRecord_keepsSafe (site : Site) (rec : RingRecord) (s : State) : KeepsSafe s (writeRecord site rec s) :=
  (writeSlot_keepsSafe _ _ _ s).trans (raise_keepsSafe _ _)

theorem putRecord_keepsSafe (site : Site) (rec : RingRecord) (s : State) : KeepsSafe s (putRecord site rec s) := by
  unfold putRecord
  split
  · exact writeRecord_keepsSafe site rec s
  · exact (updSite_keepsSafe _ _ s (by exact joinPending_length rec _)).trans (raise_keepsSafe _ _)

theorem drain_keepsSafe (n : Nat) (site : Site) (s : State) : KeepsSafe s (drain n site s) := by
  induction n generalizing s with
  | zero => exact .refl s
  | succ n ih =>
    unfold drain
    split
    next rec rest pending =>
      split
      · have taken : KeepsSafe s (s.updSite site (fun x => { x with ring := { x.ring with pending := rest } })) :=
          updSite_keepsSafe _ _ s (fun few => by
            unfold RxSite.inRange at few
            rw [pending] at few
            exact (Nat.le_succ _).trans few)
        exact (taken.trans (writeRecord_keepsSafe site rec _)).trans (ih _)
      · exact .refl s
    · exact .refl s

theorem consumerHandoff_keepsSafe (site : Site) (v : Nat) (s : State) : KeepsSafe s (consumerHandoff site v s) := by
  unfold consumerHandoff
  split
  · split
    · exact .refl s
    · exact (updRing_keepsSafe _ _ s).trans (drain_keepsSafe _ _ _)
  · exact .refl s

theorem startRxRing_keepsSafe (site : Site) (w : Window) (tag : OwnTag) (s : State) :
    KeepsSafe s (startRxRing site w tag s) :=
  ((updRing_keepsSafe _ _ s).trans (formGroup_keepsSafe _ _ _)).trans (drain_keepsSafe _ _ _)

theorem stopRxRing_keepsSafe (site : Site) (s : State) : KeepsSafe s (stopRxRing site s) := updRing_keepsSafe _ _ s

theorem reportRuns_keepsSafe (site : Site) (cls : MsgClass) (cause : GapCause) (runs : List Run) (s : State) :
    KeepsSafe s (reportRuns site cls cause runs s) :=
  .overAll _ _ (fun _ u => putRecord_keepsSafe site _ u) s

theorem relieveWindow_keepsSafe (site : Site) (cls : MsgClass) (s : State) : KeepsSafe s (relieveWindow site cls s) := by
  unfold relieveWindow
  dsimp only
  split
  · exact (updWindow_keepsSafe _ _ _ s).trans (reportRuns_keepsSafe _ _ _ _ _)
  · exact .refl s

theorem acceptMsg_keepsSafe (m : Arrived) (v : Nat) (s : State) : KeepsSafe s (acceptMsg m v s) := by
  unfold acceptMsg
  split
  · exact (updWindow_keepsSafe _ _ _ s).trans (writeSlot_keepsSafe _ _ _ _)
  · exact ((updWindow_keepsSafe _ _ _ s).trans (raise_keepsSafe _ _)).trans (relieveWindow_keepsSafe _ _ _)

theorem newSession_keepsSafe (m : Arrived) (s : State) : KeepsSafe s (newSession m s) :=
  ((updWindow_keepsSafe _ _ _ s).trans (putRecord_keepsSafe _ _ _)).trans (acceptMsg_keepsSafe m 0 _)

theorem advanceWindow_keepsSafe (m : Arrived) (top : BitVec 32) (u : Nat) (s : State) :
    KeepsSafe s (advanceWindow m top u s) :=
  ((reportRuns_keepsSafe _ _ _ _ s).trans (updWindow_keepsSafe _ _ _ _)).trans (acceptMsg_keepsSafe m 0 _)

theorem messageArrived_keepsSafe (m : Arrived) (s : State) : KeepsSafe s (messageArrived m s) := by
  unfold messageArrived
  dsimp only
  split
  · exact .refl s
  · split
    · exact newSession_keepsSafe m s
    · split
      · exact .refl s
      · split
        · exact advanceWindow_keepsSafe m _ _ s
        · split
          · split
            · exact trailingLag_keepsSafe _ _ _ s
            · exact acceptMsg_keepsSafe m _ s
            · exact .refl s
          · exact .refl s

theorem holeExpiry_keepsSafe (site : Site) (cls : MsgClass) (s : State) : KeepsSafe s (holeExpiry site cls s) := by
  unfold holeExpiry
  dsimp only
  split
  · exact (updWindow_keepsSafe _ _ _ s).trans (reportRuns_keepsSafe _ _ _ _ _)
  · exact .refl s

theorem expireHoles_keepsSafe (n : Nat) (site : Site) (cls : MsgClass) (s : State) :
    KeepsSafe s (expireHoles n site cls s) := by
  induction n generalizing s with
  | zero => exact .refl s
  | succ n ih =>
    unfold expireHoles
    split
    · exact (holeExpiry_keepsSafe site cls s).trans (ih _)
    · exact .refl s

theorem setHoleTimeout_keepsSafe (site : Site) (cls : MsgClass) (us : Nat) (s : State) :
    KeepsSafe s (setHoleTimeout site cls us s) :=
  (updWindow_keepsSafe _ _ _ s).trans (expireHoles_keepsSafe _ _ _ _)

theorem resyncWindow_keepsSafe (site : Site) (cls : MsgClass) (s : State) : KeepsSafe s (resyncWindow site cls s) :=
  updRing_keepsSafe _ _ s (fun x => by
    dsimp only
    rw [setWindow_ring]
    exact List.length_filter_le _ _)

/-! ## Time Unit (chapter 1) -/

theorem clampPpb_bounds (v : Int) : -100000 ≤ clampPpb v ∧ clampPpb v ≤ 100000 := by
  rw [clampPpb_eq]
  omega

theorem steer_inRange (e : Int) (t : TimeUnit) : (t.steer e).inRange := by
  have good : (t.steer e).goodRun ≤ 8 := by
    rw [steer_goodRun]
    split <;> omega
  exact ⟨(clampPpb_bounds _).1, (clampPpb_bounds _).2, (clampPpb_bounds _).1, (clampPpb_bounds _).2, good⟩

theorem afterStep_inRange {t : TimeUnit} (h : t.inRange) : t.afterStep.inRange := by
  obtain ⟨low, high, slow, fast, -⟩ := h
  rw [afterStep_eq]
  unfold TimeUnit.inRange
  dsimp only
  split
  · decide
  · exact ⟨low, high, slow, fast, Nat.zero_le _⟩

theorem pulseMissing_inRange {now : Nat} {t : TimeUnit} (h : t.inRange) : (t.pulseMissing now).inRange := by
  obtain ⟨low, high, slow, fast, good⟩ := h
  unfold TimeUnit.pulseMissing
  dsimp only
  split
  · exact ⟨low, high, low, high, Nat.zero_le _⟩
  · exact ⟨low, high, low, high, Nat.zero_le _⟩
  · exact ⟨low, high, slow, fast, good⟩

theorem endHoldover_inRange {t : TimeUnit} (h : t.inRange) : t.endHoldover.inRange := by
  unfold TimeUnit.endHoldover
  split <;> exact h

theorem commanded_inRange {t : TimeUnit} (h : t.inRange) : t.commanded.inRange := by
  unfold TimeUnit.commanded
  split <;> exact h

theorem changeTime_keepsSafe (f : TimeUnit → TimeUnit) (s : State) (h : s.tu.inRange → (f s.tu).inRange) :
    KeepsSafe s (changeTime f s) := by
  unfold changeTime noteTimeState
  split
  · exact tu_keepsSafe _ s h
  · exact ((tu_keepsSafe _ s h).trans (markStale_keepsSafe _ _)).trans (raise_keepsSafe _ _)

theorem stepTime_keepsSafe (amount : Int) (s : State) : KeepsSafe s (stepTime amount s) := by
  refine KeepsSafe.trans ?_ (raise_keepsSafe _ _)
  exact { KeepsSafe.refl s with
    probes := map_all fun _ _ => Nat.zero_le _
    ports := map_all fun _ few => few }

theorem handlePulse_keepsSafe (sec : Nat) (s : State) : KeepsSafe s (handlePulse sec s) := by
  unfold handlePulse
  dsimp only
  split
  · exact ((tu_keepsSafe _ s).trans (stepTime_keepsSafe _ _)).trans (changeTime_keepsSafe _ _ afterStep_inRange)
  · exact (tu_keepsSafe _ s).trans (changeTime_keepsSafe _ _ (fun _ => steer_inRange _ _))

theorem secondPulse_keepsSafe (s : State) : KeepsSafe s (secondPulse s) := by
  unfold secondPulse
  split
  · exact .refl s
  · dsimp only
    split
    · exact (tu_keepsSafe _ s).trans (handlePulse_keepsSafe _ _)
    · exact tu_keepsSafe _ s

theorem takeAnnouncement_keepsSafe (chars : List Byte) (s : State) : KeepsSafe s (takeAnnouncement chars s) := by
  unfold takeAnnouncement
  split
  · exact tu_keepsSafe _ s
  · exact .refl s

theorem setHoldoverLimit_keepsSafe (limit : Nat) (s : State) : KeepsSafe s (setHoldoverLimit limit s) := by
  unfold setHoldoverLimit
  dsimp only
  split
  · split
    · exact (tu_keepsSafe _ s).trans (changeTime_keepsSafe _ _ endHoldover_inRange)
    · exact tu_keepsSafe _ s
  · exact tu_keepsSafe _ s

theorem tick_keepsSafe (s : State) : KeepsSafe s (tick s) := by
  unfold tick
  split <;> exact { KeepsSafe.refl s with }

/-! ## Commands (chapter 10) -/

theorem refreshBlock_keepsSafe (b : BlockNo) (s : State) : KeepsSafe s (refreshBlock b s) := formGroup_keepsSafe _ _ s

theorem blockWrite_keepsSafe (b : BlockNo) (w : WLine) (s : State) : KeepsSafe s (blockWrite b w s).1 := by
  have refresh : ∀ (c : Prop) [Decidable c] (u : State), KeepsSafe u (if c then refreshBlock b u else u) := by
    intro c _ u
    split
    · exact refreshBlock_keepsSafe b u
    · exact .refl u
  unfold blockWrite
  dsimp only
  split
  · exact (updBlock_keepsSafe b _ s).trans (cmd_keepsSafe _ _)
  · exact (updBlock_keepsSafe b _ s).trans (refresh _ _)
  · exact (updBlock_keepsSafe b _ s).trans (formGroup_keepsSafe _ _ _)
  · split
    · dsimp only
      split
      · exact refresh _ s
      · exact .refl s
    · exact .refl s

/-- A command that is taken keeps them where its body does. -/
theorem command_keepsSafe (codes : Nat → Bool) {body : BlockNo → List Byte → State → State}
    (h : ∀ b copy u, KeepsSafe u (body b copy u)) (s : State) : KeepsSafe s (command codes body s) := by
  unfold command
  split
  · split
    · dsimp only
      split
      · exact ((cmd_keepsSafe _ s).trans (updBlock_keepsSafe _ _ _)).trans (h _ _ _)
      · exact .refl s
    · exact .refl s
  · exact .refl s

theorem immediate_keepsSafe (code : Nat) {apply : List Byte → State → Applied}
    (h : ∀ p u, KeepsSafe u (apply p u).1) (s : State) : KeepsSafe s (immediate code apply s) :=
  command_keepsSafe _ (fun _ _ u => (h _ u).trans (complete_keepsSafe _ _ _ _ _)) s

theorem readList_keepsSafe (line : Nat) (e : Exec) (s : State) : KeepsSafe s (readList line (waitOn e s)) :=
  (cmd_keepsSafe _ s).trans (formGroup_keepsSafe _ _ _)

theorem storeWindow_keepsSafe (e : EntryNo) (w : Window) (s : State) : KeepsSafe s (storeWindow e w s) := mi_keepsSafe _ s

theorem windowNotice_keepsSafe (old w : Window) (s : State) : KeepsSafe s (windowNotice old w s) := by
  unfold windowNotice
  dsimp only
  split
  · exact dropRing_keepsSafe _ _ s
  · split
    · exact stopRxRing_keepsSafe _ s
    · split
      · exact startRing_keepsSafe _ _ s
      · split
        · exact startRxRing_keepsSafe _ _ _ s
        · exact .refl s

theorem setWindow_keepsSafe (p : List Byte) (s : State) : KeepsSafe s (setWindow p s).1 := by
  unfold setWindow
  split
  · exact .refl s
  · dsimp only
    split
    · exact (storeWindow_keepsSafe _ _ s).trans (windowNotice_keepsSafe _ _ _)
    · exact .refl s

theorem setPortNumbers_keepsSafe (k : PortNo) (p : List Byte) (s : State) : KeepsSafe s (setPortNumbers k p s) :=
  (updPort_keepsSafe k _ s).trans (txQueues_keepsSafe _ _ _)

theorem rehop_keepsSafe (place : Option (PortNo × Nat)) (h : HopNo) (s : State) : KeepsSafe s (rehop place h s) :=
  (updHop_keepsSafe h _ s).trans (noteHop_keepsSafe _ _ _)

theorem applyChain_keepsSafe (k : PortNo) (chain : List HopNo) (s : State) : KeepsSafe s (applyChain k chain s) :=
  ((KeepsSafe.overAll _ _ (rehop_keepsSafe none) s).trans
    (.overAll _ _ (fun (x : HopNo × Nat) u => rehop_keepsSafe (some (k, x.2 + 1)) x.1 u) _)).trans (updPort_keepsSafe k _ _)

theorem applyPort_keepsSafe (k : PortNo) (kind : PortKind) (chain : Option (List HopNo)) (p : List Byte) (s : State) :
    KeepsSafe s (applyPort k kind chain p s) := by
  unfold applyPort
  extract_lets u chain
  refine KeepsSafe.trans ?_ (recomputePort_keepsSafe k _)
  have set : KeepsSafe s u := (updPort_keepsSafe k _ s).trans (setPortNumbers_keepsSafe k p _)
  cases chain with
  | some c => exact set.trans (applyChain_keepsSafe k _ _)
  | none => exact set.trans (.overAll _ _ (moveReportTimer_keepsSafe _) _)

theorem setPort_keepsSafe (b : BlockNo) (copy : List Byte) (s : State) : KeepsSafe s (setPort b copy s) := by
  have ends := fun e u => complete_keepsSafe b e 0 [] u
  have applies := fun k kind chain p => (applyPort_keepsSafe k kind chain p s).trans (ends .none _)
  unfold setPort
  dsimp only
  split
  · split
    · exact ends _ s
    · split
      · exact applies _ _ _ _
      · split
        · exact ends _ s
        · split
          · exact ends _ s
          · split
            · exact applies _ _ _ _
            · exact readList_keepsSafe _ _ s
  · exact ends _ s

theorem endExec_keepsSafe (s : State) : KeepsSafe s (endExec s) := cmd_keepsSafe _ s

theorem portListAnswer_keepsSafe (b : BlockNo) (line : Nat) (bytes : List Byte) (ok : Bool) (data : List Byte)
    (s : State) : KeepsSafe s (portListAnswer b line bytes ok data s) := by
  have ends := fun e => (endExec_keepsSafe s).trans (complete_keepsSafe b e 0 [] _)
  unfold portListAnswer
  dsimp only
  split
  · exact ends _
  · split
    · exact readList_keepsSafe _ _ s
    · split
      · split
        · exact ((endExec_keepsSafe s).trans (applyPort_keepsSafe _ _ _ _ _)).trans (complete_keepsSafe _ _ _ _ _)
        · exact ends _
      · exact ends _

theorem applyHopRecord_keepsSafe (rec : List Byte) (s : State) : KeepsSafe s (applyHopRecord rec s).2 := by
  unfold applyHopRecord
  split
  · exact .refl s
  · split
    · exact .refl s
    · exact changeHop_keepsSafe _ _ s

theorem applyHopRecords_keepsSafe (left : Nat) (bytes : List Byte) (s : State) :
    KeepsSafe s (applyHopRecords left bytes s).1 := by
  induction left generalizing bytes s with
  | zero => exact .refl s
  | succ left ih =>
    unfold applyHopRecords
    split
    · exact .refl s
    · dsimp only
      split
      · exact (applyHopRecord_keepsSafe _ s).trans (ih _ _)
      · exact .refl s

theorem setHops_keepsSafe (b : BlockNo) (copy : List Byte) (s : State) : KeepsSafe s (setHops b copy s) := by
  unfold setHops
  dsimp only
  split
  · exact complete_keepsSafe _ _ _ _ s
  · exact readList_keepsSafe _ _ s

theorem hopListAnswer_keepsSafe (b : BlockNo) (line : Nat) (bytes : List Byte) (left : Nat) (ok : Bool)
    (data : List Byte) (s : State) : KeepsSafe s (hopListAnswer b line bytes left ok data s) := by
  have ends := fun e n u => (endExec_keepsSafe u).trans (complete_keepsSafe b e n [] _)
  unfold hopListAnswer
  dsimp only
  split
  · exact ends _ _ s
  · have applied := applyHopRecords_keepsSafe left (bytes ++ listBytes s.cmd.blocks[b].copy line data) s
    refine applied.trans ?_
    split
    · exact ends _ _ _
    · split
      · exact ends _ _ _
      · exact readList_keepsSafe _ _ _

theorem unlistPath_keepsSafe (p : PathNo) (s : State) : KeepsSafe s (unlistPath p s) := by
  refine .overAll _ _ (fun site u => ?_) s
  split
  · exact (updRoute_keepsSafe site _ u).trans (evalRoute_keepsSafe site _)
  · exact .refl u

theorem setPath_keepsSafe (p : List Byte) (s : State) : KeepsSafe s (setPath p s).1 := by
  unfold setPath
  split
  · exact .refl s
  · split
    · exact ((pathProbes_keepsSafe _ _ s).trans (recompute_keepsSafe _ _)).trans (unlistPath_keepsSafe _ _)
    · exact .refl s

theorem enablePath_keepsSafe (p : List Byte) (s : State) : KeepsSafe s (enablePath p s).1 := by
  unfold enablePath
  split
  · exact .refl s
  · split
    · exact .refl s
    · split
      · exact .refl s
      · exact ((pathProbes_keepsSafe _ _ s).trans (notifyPath_keepsSafe _ _ _)).trans (evalDown_keepsSafe _ _)

theorem disablePath_keepsSafe (p : List Byte) (s : State) : KeepsSafe s (disablePath p s).1 := by
  unfold disablePath
  split
  · exact .refl s
  next path _ =>
    split
    · exact .refl s
    · have quiet : KeepsSafe s (s.updPath path (PathRec.quiet .off)) :=
        pathProbes_keepsSafe _ _ s (fun _ => Nat.zero_le _)
      exact (quiet.trans (withdrawProbe_keepsSafe _ _)).trans (notifyPath_keepsSafe _ _ _)

theorem setRoute_keepsSafe (p : List Byte) (s : State) : KeepsSafe s (setRoute p s).1 := by
  unfold setRoute
  split
  · exact .refl s
  · split
    · exact (updRoute_keepsSafe _ _ s).trans (evalRoute_keepsSafe _ _)
    · exact .refl s

theorem setEpoch_keepsSafe (p : List Byte) (s : State) : KeepsSafe s (setEpoch p s).1 := by
  unfold setEpoch
  split
  · exact .refl s
  · exact { KeepsSafe.refl s with }

theorem setTime_keepsSafe (p : List Byte) (s : State) : KeepsSafe s (setTime p s).1 :=
  (stepTime_keepsSafe _ s).trans (changeTime_keepsSafe _ _ commanded_inRange)

theorem setHoleTimeouts_keepsSafe (p : List Byte) (s : State) : KeepsSafe s (setHoleTimeouts p s) :=
  .overAll _ _ (fun _ u => (setHoleTimeout_keepsSafe _ _ _ u).trans (setHoleTimeout_keepsSafe _ _ _ _)) s

theorem setTiming_keepsSafe (p : List Byte) (s : State) : KeepsSafe s (setTiming p s).1 :=
  (setHoldoverLimit_keepsSafe _ s).trans (setHoleTimeouts_keepsSafe p _)

theorem clearExtremes_keepsSafe (first last : Nat) (s : State) : KeepsSafe s (clearExtremes first last s) :=
  { KeepsSafe.refl s with }

theorem resyncSite_keepsSafe (p : List Byte) (s : State) : KeepsSafe s (resyncSite p s).1 := by
  unfold resyncSite
  split
  · exact .refl s
  · split
    · exact resyncWindow_keepsSafe _ _ s
    · split
      · exact resyncWindow_keepsSafe _ _ s
      · split
        · exact (resyncWindow_keepsSafe _ _ s).trans (resyncWindow_keepsSafe _ _ _)
        · exact .refl s

/-! ## Reads -/

theorem spendFree_keepsSafe (s : State) : KeepsSafe s (spendFree s) := { KeepsSafe.refl s with }

theorem readPath_keepsSafe (p : List Byte) (s : State) : KeepsSafe s (readPath p s).1 := by
  unfold readPath
  split
  · exact .refl s
  · exact spendFree_keepsSafe s

theorem readRoute_keepsSafe (p : List Byte) (s : State) : KeepsSafe s (readRoute p s).1 := by
  unfold readRoute
  split
  · exact .refl s
  · exact spendFree_keepsSafe s

theorem readPort_keepsSafe (p : List Byte) (s : State) : KeepsSafe s (readPort p s).1 := by
  unfold readPort
  split
  · exact .refl s
  · exact spendFree_keepsSafe s

theorem readGuard_keepsSafe (p : List Byte) (s : State) : KeepsSafe s (readGuard p s).1 :=
  (spendFree_keepsSafe s).trans (mi_keepsSafe _ _)

/-! ## The loopback test and receiving (chapter 8) -/

theorem endLoop_keepsSafe (b : BlockNo) (l : Loopback) (lost : Bool) (s : State) : KeepsSafe s (endLoop b l lost s) :=
  ((endExec_keepsSafe s).trans (spendFree_keepsSafe _)).trans (complete_keepsSafe _ _ _ _ _)

theorem handTest_keepsSafe (k : PortNo) (i : Nat) (s : State) : KeepsSafe s (handTest k i s) := by
  unfold handTest urgentCapacity
  split
  next room =>
    exact updTx_keepsSafe _ _ s (fun few => ⟨by rw [List.length_append]; exact room, few.2⟩)
  · exact .refl s

theorem loopback_keepsSafe (b : BlockNo) (copy : List Byte) (s : State) : KeepsSafe s (loopback b copy s) := by
  unfold loopback
  split
  · exact complete_keepsSafe _ _ _ _ s
  · split
    · exact complete_keepsSafe _ _ _ _ s
    · dsimp only
      split
      · exact (((cmd_keepsSafe _ s).trans (cmd_keepsSafe _ _)).trans (handTest_keepsSafe _ _ _)).trans
          (lineChoice_keepsSafe _ _)
      · exact (cmd_keepsSafe _ s).trans (endLoop_keepsSafe _ _ _ _)

theorem testSent_keepsSafe (k : PortNo) (run : Byte) (s : State) : KeepsSafe s (testSent k run s) := by
  unfold testSent
  split
  · split
    · dsimp only
      split
      · exact (cmd_keepsSafe _ s).trans (handTest_keepsSafe _ _ _)
      · exact cmd_keepsSafe _ s
    · exact .refl s
  · exact .refl s

theorem testArrived_keepsSafe (k : PortNo) (run : Byte) (index : Nat) (pattern : List Byte) (arrival : Stamp)
    (s : State) : KeepsSafe s (testArrived k run index pattern arrival s) := by
  unfold testArrived
  split
  · split
    · dsimp only
      split
      · exact endLoop_keepsSafe _ _ _ s
      · exact cmd_keepsSafe _ s
    · exact updRx_keepsSafe _ _ s
  · exact updRx_keepsSafe _ _ s

theorem testCrcError_keepsSafe (k : PortNo) (s : State) : KeepsSafe s (testCrcError k s) := by
  unfold testCrcError
  split
  · split
    · exact cmd_keepsSafe _ s
    · exact .refl s
  · exact .refl s

theorem testLinkLost_keepsSafe (k : PortNo) (s : State) : KeepsSafe s (testLinkLost k s) := by
  unfold testLinkLost
  split
  · split
    · exact endLoop_keepsSafe _ _ _ s
    · exact .refl s
  · exact .refl s

theorem fragmentArrived_keepsSafe (k : PortNo) (src : Site) (arrival : Stamp) (f : Fragment) (s : State) :
    KeepsSafe s (fragmentArrived k src arrival f s) := by
  unfold fragmentArrived
  split
  · exact updRx_keepsSafe _ _ s
  · dsimp only
    split
    · exact (updRx_keepsSafe _ _ s).trans (.overAll _ _ messageArrived_keepsSafe _)
    · exact updRx_keepsSafe _ _ s

theorem msgArrived_keepsSafe (k : PortNo) (src : Site) (arrival : Stamp) (copy : Byte) (epoch seq : BitVec 32)
    (capture : Stamp) (payload : List Byte) (s : State) :
    KeepsSafe s (msgArrived k src arrival copy epoch seq capture payload s) := by
  unfold msgArrived
  split
  · exact updRx_keepsSafe _ _ s
  · exact messageArrived_keepsSafe _ s

theorem probeArrived_keepsSafe (k : PortNo) (src : Site) (arrival : Stamp) (id : Byte) (s : State) :
    KeepsSafe s (probeArrived k src arrival id s) := by
  unfold probeArrived
  split
  · exact updRx_keepsSafe _ _ s
  · exact (updRx_keepsSafe _ _ s).trans (placeProbeBack_keepsSafe _ _ _)

theorem dispatchFrame_keepsSafe (k : PortNo) (arrival : Stamp) (here : Bool) (f : Frame) (s : State) :
    KeepsSafe s (dispatchFrame k arrival here f s) := by
  unfold dispatchFrame
  dsimp only
  split
  · exact (heardNotice_keepsSafe _ _ s).trans (msgArrived_keepsSafe _ _ _ _ _ _ _ _ _)
  · exact (heardNotice_keepsSafe _ _ s).trans (fragmentArrived_keepsSafe _ _ _ _ _)
  · exact (heardNotice_keepsSafe _ _ s).trans (probeArrived_keepsSafe _ _ _ _ _)
  · exact (heardNotice_keepsSafe _ _ s).trans (probeBackArrived_keepsSafe _ _ _ _ _ _ _ _ _)
  · exact hopstatArrived_keepsSafe _ _ s
  · exact testArrived_keepsSafe _ _ _ _ _ s

theorem frameJudged_keepsSafe (k : PortNo) (arrival : Stamp) (here : Bool) (bytes : List Byte) (s : State) :
    KeepsSafe s (frameJudged k arrival here bytes s) := by
  unfold frameJudged
  split
  · exact updRx_keepsSafe _ _ s
  · exact (updRx_keepsSafe _ _ s).trans (testCrcError_keepsSafe _ _)
  · exact updRx_keepsSafe _ _ s
  · exact (updRx_keepsSafe _ _ s).trans (dispatchFrame_keepsSafe _ _ _ _ _)

theorem frameArrival_keepsSafe (k : PortNo) (bytes : List Byte) (s : State) : KeepsSafe s (frameArrival k bytes s) := by
  unfold frameArrival
  split
  · dsimp only
    split
    · exact (updRx_keepsSafe _ _ s).trans (frameJudged_keepsSafe _ _ _ _ _)
    · exact updRx_keepsSafe _ _ s
  · exact .refl s

theorem itemDone_keepsSafe (k : PortNo) (item : LineItem) (s : State) : KeepsSafe s (itemDone k item s) := by
  cases item with
  | probeBack => exact (clearLine_keepsSafe k s).trans (lineChoice_keepsSafe k _)
  | probe => exact (clearLine_keepsSafe k s).trans (lineChoice_keepsSafe k _)
  | msg m =>
    exact (((clearLine_keepsSafe k s).trans (txQueues_keepsSafe _ _ _)).trans (reportDest_keepsSafe _ _ _ _)).trans
      (lineChoice_keepsSafe k _)
  | test run => exact ((clearLine_keepsSafe k s).trans (testSent_keepsSafe k run _)).trans (lineChoice_keepsSafe k _)
  | frag f id i abandoned => exact fragmentDone_keepsSafe k f i abandoned s

theorem frameComplete_keepsSafe (k : PortNo) (s : State) : KeepsSafe s (frameComplete k s) := by
  unfold frameComplete
  split
  · exact itemDone_keepsSafe k _ s
  · exact .refl s

theorem setInput_keepsSafe (k : PortNo) (up : Bool) (s : State) : KeepsSafe s (setInput k up s) :=
  { KeepsSafe.refl s with }

theorem changeLink_keepsSafe (k : PortNo) (up : Bool) (s : State) : KeepsSafe s (changeLink k up s) :=
  KeepsSafe.trans (t := { s with link := updAt s.link k (fun _ => up) }) { KeepsSafe.refl s with }
    ((markStale_keepsSafe _ _).trans (raise_keepsSafe _ _))

theorem linkUp_keepsSafe (k : PortNo) (s : State) : KeepsSafe s (linkUp k s) := by
  unfold linkUp
  dsimp only
  refine (setInput_keepsSafe k true s).trans ?_
  split
  · exact ((changeLink_keepsSafe k true _).trans (evalPort_keepsSafe k _)).trans (lineChoice_keepsSafe k _)
  · exact .refl _

theorem linkLost_keepsSafe (k : PortNo) (s : State) : KeepsSafe s (linkLost k s) := by
  unfold linkLost
  dsimp only
  refine (setInput_keepsSafe k false s).trans ?_
  split
  · exact ((((changeLink_keepsSafe k false _).trans (linkLostTx_keepsSafe k _)).trans (updRx_keepsSafe k _ _)).trans
      (testLinkLost_keepsSafe k _)).trans (downPort_keepsSafe k _)
  · exact .refl _

theorem frameReceptionStart_keepsSafe (k : PortNo) (s : State) : KeepsSafe s (frameReceptionStart k s) := by
  unfold frameReceptionStart
  split
  · exact updRx_keepsSafe k _ s
  · exact .refl s

/-! ## Memory (chapter 5) -/

theorem takeRequest_keepsSafe (r : MemReq) (s : State) : KeepsSafe s (takeRequest r s) := by
  unfold takeRequest
  split
  · exact .refl s
  · exact mi_keepsSafe _ s

theorem setHead_keepsSafe (parts : List Part) (s : State) : KeepsSafe s (setHead parts s) := mi_keepsSafe _ s

theorem deliver_keepsSafe (s : State) : KeepsSafe s (deliver s) := { KeepsSafe.refl s with }

theorem violate_keepsSafe (v : Violation) (s : State) : KeepsSafe s (violate v s) :=
  (mi_keepsSafe _ s).trans (raise_keepsSafe _ _)

theorem becomeHead_keepsSafe (r : MemReq) (rest : List MemReq) (s : State) : KeepsSafe s (becomeHead r rest s) := by
  unfold becomeHead
  extract_lets ts parts mi owed noted timed
  have kept : KeepsSafe s owed := mi_keepsSafe _ s
  have violated : KeepsSafe s noted := by
    unfold noted
    split
    · exact kept.trans (violate_keepsSafe _ _)
    · exact kept
  have refreshed : KeepsSafe s timed := by
    unfold timed
    split
    · exact violated.trans (formGroup_keepsSafe _ _ _)
    · exact violated
  exact ((refreshed.trans (flush_keepsSafe _)).trans (setHead_keepsSafe _ _)).trans (deliver_keepsSafe _)

theorem requestHead_keepsSafe (s : State) : KeepsSafe s (requestHead s) := by
  unfold requestHead
  split
  · exact becomeHead_keepsSafe _ _ s
  · exact .refl s

theorem controlWrite_keepsSafe (line : Nat) (ls : List WLine) (s : State) : KeepsSafe s (controlWrite line ls s).1 := by
  induction ls generalizing line s with
  | nil => exact .refl s
  | cons w ws ih =>
    unfold controlWrite
    dsimp only
    refine KeepsSafe.trans ?_ (ih _ _)
    split
    · split
      · exact blockWrite_keepsSafe _ _ s
      · exact .refl s
    · exact .refl s

theorem receiveWrite_keepsSafe (w : Window) (line : Nat) (ls : List WLine) (s : State) :
    KeepsSafe s (receiveWrite w line ls s) := by
  unfold receiveWrite
  dsimp only
  split
  · split
    · exact consumerHandoff_keepsSafe _ _ s
    · exact .refl s
  · exact .refl s

theorem grantWrite_keepsSafe (w : Window) (line : Nat) (ls : List WLine) (s : State) :
    KeepsSafe s (grantWrite w line ls s).1 := by
  unfold grantWrite
  split
  · dsimp only
    split
    · split
      · exact transmitWrite_keepsSafe _ _ _ _ s
      · exact .refl s
    · exact .refl s
  · exact receiveWrite_keepsSafe _ _ _ s
  · exact controlWrite_keepsSafe _ _ s
  · exact .refl s

theorem grantPart_keepsSafe (p : Part) (s : State) : KeepsSafe s (grantPart p s).1 := by
  unfold grantPart
  split
  · split
    · exact grantWrite_keepsSafe _ _ _ s
    · exact .refl s
  · exact .refl s

theorem openRecord_keepsSafe (p : Part) (s : State) : KeepsSafe s (openRecord p s) := by
  unfold openRecord
  split
  · exact cmd_keepsSafe _ s
  · exact .refl s

theorem grantForwarded_keepsSafe (p : Part) (rest : List Part) (s : State) : KeepsSafe s (grantForwarded p rest s) := by
  unfold grantForwarded
  extract_lets r opened issued
  have kept : KeepsSafe s opened := (grantPart_keepsSafe p s).trans (openRecord_keepsSafe p _)
  exact ((kept.trans ((emit_keepsSafe _ _).trans (mi_keepsSafe _ _))).trans (flush_keepsSafe _)).trans
    (setHead_keepsSafe _ _)

/-- The oldest own request leaves the queue as it is granted (R91). -/
theorem grantOwn_keepsSafe {r : OwnReq} {rest : List OwnReq} {s : State} (front : s.mi.own = r :: rest) :
    KeepsSafe s (grantOwn r rest s) := by
  refine (emit_keepsSafe (.memory r.request) s).trans (mi_keepsSafe _ _ fun few => ?_)
  have shorter : rest.length + 1 ≤ 32 := by simpa [Interposer.inRange, front] using few
  exact Nat.le_of_succ_le shorter

theorem memoryGrant_keepsSafe (s : State) : KeepsSafe s (memoryGrant s) := by
  unfold memoryGrant
  split
  · exact grantForwarded_keepsSafe _ _ s
  next owned =>
    split
    · exact grantOwn_keepsSafe owned
    · exact grantForwarded_keepsSafe _ _ s
  next owned => exact grantOwn_keepsSafe owned
  · exact .refl s

theorem causeRead_keepsSafe (ok : Bool) (line : List Byte) (s : State) : KeepsSafe s (causeRead ok line s) := by
  unfold causeRead
  split
  · exact cmd_keepsSafe _ s
  · exact .refl s

theorem forwardedAnswered_keepsSafe (n : Nat) (cause ok : Bool) (data : List (List Byte)) (rest : List Outstanding)
    (s : State) : KeepsSafe s (forwardedAnswered n cause ok data rest s) := by
  unfold forwardedAnswered
  extract_lets mi taken read lines
  have kept : KeepsSafe s taken := mi_keepsSafe _ s
  have judged : KeepsSafe s read := by
    unfold read
    split
    · exact kept.trans (causeRead_keepsSafe _ _ _)
    · exact kept
  exact (judged.trans (mi_keepsSafe _ _)).trans (deliver_keepsSafe _)

/-! ## The image, the resets and the start-up order (chapter 11) -/

theorem applyEntries_keepsSafe {apply : List Byte → State → Option State}
    (h : ∀ e u v, apply e u = some v → KeepsSafe u v) (seen : List Nat) (es : List (List Byte)) (s : State) :
    KeepsSafe s (applyEntries apply seen es s).1 := by
  induction es generalizing seen s with
  | nil => exact .refl s
  | cons e es ih =>
    unfold applyEntries
    dsimp only
    split
    · exact ih _ s
    · split
      next applied => exact (h _ _ _ applied).trans (ih _ _)
      · exact ih _ s

theorem applyIdentity_keepsSafe {e : List Byte} {s t : State} (h : applyIdentity e s = some t) : KeepsSafe s t := by
  obtain ⟨site, -, rfl⟩ := Option.map_eq_some_iff.mp h
  exact { KeepsSafe.refl s with }

theorem applyWindow_keepsSafe {e : List Byte} {s t : State} (h : applyWindow e s = some t) : KeepsSafe s t := by
  unfold applyWindow at h
  split at h
  · split at h
    · cases h; exact storeWindow_keepsSafe _ _ s
    · cases h
  · cases h

theorem applyPortEntry_keepsSafe {e : List Byte} {s t : State} (h : applyPortEntry e s = some t) : KeepsSafe s t := by
  unfold applyPortEntry at h
  split at h
  · split at h
    · cases h
    · obtain ⟨chain, -, rfl⟩ := Option.map_eq_some_iff.mp h
      exact applyPort_keepsSafe _ _ _ _ s
  · cases h

theorem applyHopEntry_keepsSafe {e : List Byte} {s t : State} (h : applyHopEntry e s = some t) : KeepsSafe s t := by
  obtain ⟨hop, -, rfl⟩ := Option.map_eq_some_iff.mp h
  exact updHop_keepsSafe hop _ s

theorem applyPathEntry_keepsSafe {e : List Byte} {s t : State} (h : applyPathEntry e s = some t) : KeepsSafe s t := by
  unfold applyPathEntry at h
  split at h
  · split at h
    · cases h; exact (pathProbes_keepsSafe _ _ s).trans (recompute_keepsSafe _ _)
    · cases h
  · cases h

theorem applyRouteEntry_keepsSafe {e : List Byte} {s t : State} (h : applyRouteEntry e s = some t) : KeepsSafe s t := by
  unfold applyRouteEntry at h
  split at h
  · obtain ⟨c, -, rfl⟩ := Option.map_eq_some_iff.mp h
    exact updRoute_keepsSafe _ _ s
  · cases h

theorem enableFromImage_keepsSafe (es : List (List Byte)) (p : PathNo) (s : State) :
    KeepsSafe s (enableFromImage es p s) := by
  unfold enableFromImage
  dsimp only
  split
  · exact pathProbes_keepsSafe _ _ s
  · exact .refl s

theorem applyBlock_keepsSafe (t : BlockType) (es : List (List Byte)) (s : State) : KeepsSafe s (applyBlock t es s).1 := by
  cases t with
  | identity => exact applyEntries_keepsSafe (fun _ _ _ => applyIdentity_keepsSafe) _ _ s
  | windows => exact applyEntries_keepsSafe (fun _ _ _ => applyWindow_keepsSafe) _ _ s
  | ports => exact applyEntries_keepsSafe (fun _ _ _ => applyPortEntry_keepsSafe) _ _ s
  | hops => exact applyEntries_keepsSafe (fun _ _ _ => applyHopEntry_keepsSafe) _ _ s
  | paths =>
    exact (applyEntries_keepsSafe (fun _ _ _ => applyPathEntry_keepsSafe) _ _ s).trans
      (.overAll _ _ (enableFromImage_keepsSafe es) _)
  | routes => exact applyEntries_keepsSafe (fun _ _ _ => applyRouteEntry_keepsSafe) _ _ s
  | timing => exact (setHoldoverLimit_keepsSafe _ s).trans (setHoleTimeouts_keepsSafe _ _)
  | notify => exact cmd_keepsSafe _ s

theorem applyType_keepsSafe (entries : BlockType → Option (List (List Byte))) (t : BlockType) (s : State) :
    KeepsSafe s (applyType entries t s) := by
  unfold applyType
  split
  · exact (applyBlock_keepsSafe _ _ s).trans { KeepsSafe.refl _ with }
  · split
    · exact setHoldoverLimit_keepsSafe _ s
    · exact .refl s

theorem applyImage_keepsSafe (flash : Option (List Byte)) (s : State) : KeepsSafe s (applyImage flash s) := by
  unfold applyImage
  dsimp only
  refine KeepsSafe.trans ?_ (KeepsSafe.overAll blockTypes _ (applyType_keepsSafe _) _)
  exact { KeepsSafe.refl s with }

theorem eraseArea_keepsSafe (s : State) : KeepsSafe s (eraseArea s) := (emit_keepsSafe _ s).trans (emit_keepsSafe _ _)

theorem saveConfig_keepsSafe (b : BlockNo) (copy : List Byte) (s : State) : KeepsSafe s (saveConfig b copy s) := by
  unfold saveConfig
  split
  · exact complete_keepsSafe _ _ _ _ s
  · exact ((cmd_keepsSafe _ s).trans (updBlock_keepsSafe _ _ _)).trans (eraseArea_keepsSafe _)

theorem endSave_keepsSafe (b : BlockNo) (e : ErrorCode) (s : State) : KeepsSafe s (endSave b e s) :=
  (cmd_keepsSafe _ s).trans (complete_keepsSafe _ _ _ _ _)

theorem flashStage_keepsSafe (v : Save) (s : State) : KeepsSafe s (flashStage v s) := by
  unfold flashStage
  split
  · exact (cmd_keepsSafe _ s).trans (emit_keepsSafe _ _)
  · exact (cmd_keepsSafe _ s).trans (emit_keepsSafe _ _)
  · exact endSave_keepsSafe _ _ s

theorem ofSave_keepsSafe {f : Save → State → State} (h : ∀ v u, KeepsSafe u (f v u)) (s : State) :
    KeepsSafe s (ofSave f s) := by
  unfold ofSave
  split
  · exact h _ s
  · exact .refl s

/-- A bank of equal objects meets what the one does. -/
theorem replicate_all {α : Type} {n : Nat} {P : α → Prop} {x : α} (one : P x) (j : Fin n) :
    P (Vector.replicate n x)[j] := by
  have at_j : (Vector.replicate n x)[j] = x := Vector.getElem_replicate ..
  rw [at_j]
  exact one

theorem transmitter_reset_inRange : Transmitter.reset.inRange := ⟨Nat.zero_le _, Nat.zero_le _⟩
theorem pathRec_reset_inRange : PathRec.reset.inRange := Nat.zero_le _
theorem rxSite_reset_inRange : RxSite.reset.inRange := Nat.zero_le _

/-- Right after power-on reset nothing is held, so every capacity and range holds. -/
theorem reset_safe : State.reset.Safe where
  time := by unfold TimeUnit.inRange; decide
  own := Nat.zero_le _
  ports := replicate_all transmitter_reset_inRange
  probes := replicate_all pathRec_reset_inRange
  caught := Nat.zero_le _
  records := replicate_all rxSite_reset_inRange

theorem resetInput_keepsSafe (s : State) : KeepsSafe s (resetInput s) :=
  .of_safe rfl ⟨reset_safe.time, reset_safe.own, reset_safe.ports, reset_safe.probes, reset_safe.caught,
    reset_safe.records⟩

theorem stopBlocks_keepsSafe (s : State) : KeepsSafe s (stopBlocks s) := by
  unfold stopBlocks
  extract_lets up stopping closed
  have kept : KeepsSafe s closed :=
    KeepsSafe.trans (t := stopping) { KeepsSafe.refl s with } (captureReset_keepsSafe _)
  exact kept.trans { KeepsSafe.refl closed with
    ports := map_all fun _ _ => ⟨Nat.zero_le _, Nat.zero_le _⟩ }

theorem resetStation_keepsSafe (b : BlockNo) (copy : List Byte) (s : State) : KeepsSafe s (resetStation b copy s) :=
  ((((updBlock_keepsSafe b _ s).trans (formGroup_keepsSafe _ _ _)).trans (stopBlocks_keepsSafe _)).trans
    (cmd_keepsSafe _ _)).trans (formGroup_keepsSafe _ _ _)

theorem restartBlocks_keepsSafe (straps : Fin 8) (s : State) : KeepsSafe s (restartBlocks straps s) :=
  { KeepsSafe.refl s with
    ports := fun _ => replicate_all transmitter_reset_inRange
    probes := fun _ => replicate_all pathRec_reset_inRange
    caught := fun _ => Nat.zero_le _
    records := fun _ => replicate_all rxSite_reset_inRange }

theorem beginStep_keepsSafe (n left : Nat) (s : State) : KeepsSafe s (beginStep n left s) := { KeepsSafe.refl s with }

theorem stepSeven_keepsSafe (s : State) : KeepsSafe s (stepSeven s) := by
  unfold stepSeven
  dsimp only
  split
  · exact beginStep_keepsSafe _ _ s
  · exact (beginStep_keepsSafe _ _ s).trans (.overAll _ _ (fun _ u => startRxRing_keepsSafe _ _ _ u) _)

theorem stepSix_keepsSafe (s : State) : KeepsSafe s (stepSix s) := by
  unfold stepSix
  dsimp only
  split
  · exact (cmd_keepsSafe _ s).trans (stepSeven_keepsSafe _)
  · exact ((cmd_keepsSafe _ s).trans (beginStep_keepsSafe _ _ _)).trans (formGroup_keepsSafe _ _ _)

theorem nextStep_keepsSafe (s : State) : KeepsSafe s (nextStep s) := by
  unfold nextStep
  split
  · exact ((cmd_keepsSafe _ s).trans (beginStep_keepsSafe 4 5 _)).trans (formGroup_keepsSafe _ _ _)
  · exact (beginStep_keepsSafe 5 8 s).trans (formGroup_keepsSafe _ _ _)
  · exact stepSix_keepsSafe s
  · exact stepSeven_keepsSafe s
  · exact beginStep_keepsSafe _ _ s
  · exact .refl s

theorem stepAnswered_keepsSafe (s : State) : KeepsSafe s (stepAnswered s) := by
  unfold stepAnswered
  split
  · exact (beginStep_keepsSafe _ _ s).trans (nextStep_keepsSafe _)
  · exact beginStep_keepsSafe _ _ s

theorem startUpOrder_keepsSafe (straps : Fin 8) (flash : Option (List Byte)) (s : State) :
    KeepsSafe s (startUpOrder straps flash s) := by
  unfold startUpOrder
  split
  · exact (((restartBlocks_keepsSafe straps s).trans (applyImage_keepsSafe flash _)).trans
      (beginStep_keepsSafe _ _ _)).trans (formGroup_keepsSafe _ _ _)
  · exact .refl s

theorem afterJoin_keepsSafe (before s : State) : KeepsSafe s (afterJoin before s) := by
  unfold afterJoin
  split
  · exact (KeepsSafe.overAll _ _ (fun _ u => startRing_keepsSafe _ _ u) s).trans (evalPaths_keepsSafe _)
  · exact .refl s

theorem readyStep_keepsSafe (s : State) : KeepsSafe s (readyStep s) := by
  unfold readyStep
  split
  · dsimp only
    refine KeepsSafe.trans (KeepsSafe.trans ?_ (formGroup_keepsSafe _ _ _)) (afterJoin_keepsSafe s _)
    exact { KeepsSafe.refl s with }
  · exact .refl s

theorem ownGroupJoin_keepsSafe (s : State) : KeepsSafe s (ownGroupJoin s) := by
  unfold ownGroupJoin
  split
  · split
    next room =>
      refine KeepsSafe.trans ?_ (afterJoin_keepsSafe s _)
      exact (mi_keepsSafe _ s).trans (joinGroup_keepsSafe (by exact room))
    · exact .refl s
  · exact .refl s

theorem listAnswered_keepsSafe (ok : Bool) (data : List Byte) (s : State) : KeepsSafe s (listAnswered ok data s) := by
  unfold listAnswered
  split
  · exact portListAnswer_keepsSafe _ _ _ _ _ s
  · exact hopListAnswer_keepsSafe _ _ _ _ _ _ s
  · exact .refl s

theorem ownAnswer_keepsSafe (t : OwnTag) (ok : Bool) (data : List Byte) (s : State) :
    KeepsSafe s (ownAnswer t ok data s) := by
  unfold ownAnswer
  split
  · exact recordClosed_keepsSafe _ s
  · exact captureAnswer_keepsSafe _ _ _ _ s
  · exact captureAnswer_keepsSafe _ _ _ _ s
  · exact updBlock_keepsSafe _ _ s
  · exact listAnswered_keepsSafe _ _ s
  · exact stepAnswered_keepsSafe s
  · exact (updBlock_keepsSafe _ _ s).trans (stepAnswered_keepsSafe _)
  · exact .refl s

theorem ownAnswered_keepsSafe (r : OwnReq) (ok : Bool) (data : List Byte) (rest : List Outstanding) (s : State) :
    KeepsSafe s (ownAnswered r ok data rest s) :=
  ((mi_keepsSafe _ s).trans (mi_keepsSafe _ _)).trans (ownAnswer_keepsSafe _ _ _ _)

/-! ## Every command -/

/-- An event that happens only under a condition keeps them where the event does. -/
theorem run_ite_keepsSafe {test : State → Prop} [DecidablePred test] {event : State → State} {s t : State}
    (r : run (fun u => if test u then event u else u) s = .next t) (h : ∀ u, KeepsSafe u (event u)) : KeepsSafe s t := by
  refine run_keepsSafe (fun u => ?_) r
  split
  · exact h u
  · exact .refl u

theorem execPulseMissingExpiry_keepsSafe {s t : State} (h : execPulseMissingExpiry s = .next t) : KeepsSafe s t :=
  run_ite_keepsSafe h (fun u => changeTime_keepsSafe _ u pulseMissing_inRange)

theorem execHoldoverExpiry_keepsSafe {s t : State} (h : execHoldoverExpiry s = .next t) : KeepsSafe s t :=
  run_ite_keepsSafe h (fun u => changeTime_keepsSafe _ u endHoldover_inRange)

theorem execReportTimerExpiry_keepsSafe {hop : HopNo} {s t : State} (h : execReportTimerExpiry hop s = .next t) :
    KeepsSafe s t := run_ite_keepsSafe h (changeHop_keepsSafe hop _)

theorem execSilenceTimerExpiry_keepsSafe {p : PathNo} {s t : State} (h : execSilenceTimerExpiry p s = .next t) :
    KeepsSafe s t := run_ite_keepsSafe h (pathDown_keepsSafe p)

theorem loseOldest_length (x : PathRec) : x.loseOldest.outstanding.length ≤ x.outstanding.length :=
  (List.drop_sublist 1 _).length_le

theorem execProbeLifetimeExpiry_keepsSafe {p : PathNo} {s t : State} (h : execProbeLifetimeExpiry p s = .next t) :
    KeepsSafe s t := run_ite_keepsSafe h (fun u => pathProbes_keepsSafe p _ u loseOldest_length)

theorem execHoleTimerExpiry_keepsSafe {site : Site} {cls : MsgClass} {s t : State}
    (h : execHoleTimerExpiry site cls s = .next t) : KeepsSafe s t :=
  run_ite_keepsSafe h (holeExpiry_keepsSafe site cls)

theorem execLoopbackTimerExpiry_keepsSafe {s t : State} (h : execLoopbackTimerExpiry s = .next t) : KeepsSafe s t := by
  refine run_keepsSafe (fun u => ?_) h
  split
  · split
    · exact endLoop_keepsSafe _ _ _ u
    · exact .refl u
  · exact .refl u

theorem execSaveTimerExpiry_keepsSafe {s t : State} (h : execSaveTimerExpiry s = .next t) : KeepsSafe s t := by
  refine run_keepsSafe (ofSave_keepsSafe fun v u => ?_) h
  split
  · exact endSave_keepsSafe _ _ u
  · exact .refl u

theorem execRequest_keepsSafe {r : MemReq} {s t : State} (h : execRequest r s = .next t) : KeepsSafe s t := by
  unfold execRequest at h
  split at h
  · split at h
    · exact run_keepsSafe (takeRequest_keepsSafe r) h
    · cases h
  · cases h

theorem execForwardedResponse_keepsSafe {ok : Bool} {data : List (List Byte)} {s t : State}
    (h : execForwardedResponse ok data s = .next t) : KeepsSafe s t := by
  unfold execForwardedResponse at h
  split at h
  · split at h
    · cases h
    · exact run_keepsSafe (forwardedAnswered_keepsSafe _ _ _ _ _) h
  · exact run_keepsSafe KeepsSafe.refl h

theorem execOwnResponse_keepsSafe {ok : Bool} {data : List Byte} {s t : State}
    (h : execOwnResponse ok data s = .next t) : KeepsSafe s t := by
  unfold execOwnResponse at h
  split at h
  · split at h
    · cases h
    · exact run_keepsSafe (ownAnswered_keepsSafe _ _ _ _) h
  · exact run_keepsSafe KeepsSafe.refl h

/-- Every command keeps the queue of waiting commands, and each capacity and range. -/
theorem exec_keepsSafe {c : Instr} {s t : State} (h : exec c s = .next t) : KeepsSafe s t := by
  cases c with
  | announcement chars => exact run_keepsSafe (takeAnnouncement_keepsSafe chars) h
  | secondPulse => exact run_keepsSafe secondPulse_keepsSafe h
  | pulseMissingExpiry => exact execPulseMissingExpiry_keepsSafe h
  | holdoverExpiry => exact execHoldoverExpiry_keepsSafe h
  | request r => exact execRequest_keepsSafe h
  | requestHead => exact run_keepsSafe requestHead_keepsSafe h
  | memoryGrant => exact run_keepsSafe memoryGrant_keepsSafe h
  | forwardedResponse ok data => exact execForwardedResponse_keepsSafe h
  | ownGroupJoin => exact run_keepsSafe ownGroupJoin_keepsSafe h
  | ownResponse ok data => exact execOwnResponse_keepsSafe h
  | selection hdr => exact run_keepsSafe (selection_keepsSafe hdr) h
  | reselection k => exact run_keepsSafe (reselection_keepsSafe k) h
  | frameComplete k => exact run_keepsSafe (frameComplete_keepsSafe k) h
  | holdoffExpiry k => exact run_keepsSafe (holdoffExpiry_keepsSafe k) h
  | linkUp k => exact run_keepsSafe (linkUp_keepsSafe k) h
  | linkLost k => exact run_keepsSafe (linkLost_keepsSafe k) h
  | frameArrival k bytes => exact run_keepsSafe (frameArrival_keepsSafe k bytes) h
  | reportTimerExpiry hop => exact execReportTimerExpiry_keepsSafe h
  | probeTimerExpiry p => exact run_keepsSafe (probeTimerExpiry_keepsSafe p) h
  | silenceTimerExpiry p => exact execSilenceTimerExpiry_keepsSafe h
  | probeLifetimeExpiry p => exact execProbeLifetimeExpiry_keepsSafe h
  | holeTimerExpiry site cls => exact execHoleTimerExpiry_keepsSafe h
  | badCommand => exact run_keepsSafe (command_keepsSafe _ (fun _ _ u => complete_keepsSafe _ _ _ _ u)) h
  | setWindow => exact run_keepsSafe (immediate_keepsSafe _ setWindow_keepsSafe) h
  | setPort => exact run_keepsSafe (command_keepsSafe _ setPort_keepsSafe) h
  | setHops => exact run_keepsSafe (command_keepsSafe _ setHops_keepsSafe) h
  | setPath => exact run_keepsSafe (immediate_keepsSafe _ setPath_keepsSafe) h
  | enablePath => exact run_keepsSafe (immediate_keepsSafe _ enablePath_keepsSafe) h
  | disablePath => exact run_keepsSafe (immediate_keepsSafe _ disablePath_keepsSafe) h
  | setRoute => exact run_keepsSafe (immediate_keepsSafe _ setRoute_keepsSafe) h
  | setEpoch => exact run_keepsSafe (immediate_keepsSafe _ setEpoch_keepsSafe) h
  | setTime => exact run_keepsSafe (immediate_keepsSafe _ setTime_keepsSafe) h
  | setTiming => exact run_keepsSafe (immediate_keepsSafe _ setTiming_keepsSafe) h
  | setNotify => exact run_keepsSafe (immediate_keepsSafe _ (fun _ u => cmd_keepsSafe _ u)) h
  | readPath => exact run_keepsSafe (immediate_keepsSafe _ readPath_keepsSafe) h
  | readHop => exact run_keepsSafe (immediate_keepsSafe _ (fun _ u => spendFree_keepsSafe u)) h
  | readRoute => exact run_keepsSafe (immediate_keepsSafe _ readRoute_keepsSafe) h
  | readPort => exact run_keepsSafe (immediate_keepsSafe _ readPort_keepsSafe) h
  | readTime => exact run_keepsSafe (immediate_keepsSafe _ (fun _ u => .refl u)) h
  | readGuard => exact run_keepsSafe (immediate_keepsSafe _ readGuard_keepsSafe) h
  | clearExtremes => exact run_keepsSafe (immediate_keepsSafe _ (fun _ u => clearExtremes_keepsSafe _ _ u)) h
  | resyncSite => exact run_keepsSafe (immediate_keepsSafe _ resyncSite_keepsSafe) h
  | loopback => exact run_keepsSafe (command_keepsSafe _ loopback_keepsSafe) h
  | loopbackTimerExpiry => exact execLoopbackTimerExpiry_keepsSafe h
  | saveConfig => exact run_keepsSafe (command_keepsSafe _ saveConfig_keepsSafe) h
  | flashStageComplete => exact run_keepsSafe (ofSave_keepsSafe flashStage_keepsSafe) h
  | flashFailure => exact run_keepsSafe (ofSave_keepsSafe (fun v => endSave_keepsSafe v.block _)) h
  | saveTimerExpiry => exact execSaveTimerExpiry_keepsSafe h
  | resetStation => exact run_keepsSafe (command_keepsSafe _ resetStation_keepsSafe) h
  | resetInput => cases h; exact resetInput_keepsSafe s
  | startUpOrder straps flash => exact run_keepsSafe (startUpOrder_keepsSafe straps flash) h
  | ready => exact run_keepsSafe readyStep_keepsSafe h
  | frameReceptionStart k => exact run_keepsSafe (frameReceptionStart_keepsSafe k) h

/-- Every step keeps each capacity and range: a command's, or a nanosecond's on an empty queue. -/
theorem step_keepsSafe {s t : State} (h : step s = .next t) : ∃ u : State, KeepsSafe { s with pending := u.pending } t := by
  unfold step at h
  split at h
  next rest _ => exact ⟨{ s with pending := rest }, exec_keepsSafe h⟩
  next => cases h; exact ⟨s, tick_keepsSafe s⟩

end Sys2Proof.Machine

open Sys2Proof Sys2Proof.Machine

/-- Settles O2: what every command keeps includes the queue. -/
theorem commandsLeaveTheQueue : Obligations.CommandsLeaveTheQueue :=
  fun _ _ _ runs => (exec_keepsSafe runs).queue

/-- Settles O4, by what every step keeps. -/
theorem timeStaysInRange : Obligations.TimeStaysInRange := by
  intro s t before runs
  obtain ⟨_, kept⟩ := step_keepsSafe runs
  exact kept.time before

/-- Settles O5, by what every step keeps. -/
theorem ownQueueStaysBounded : Obligations.OwnQueueStaysBounded := by
  intro s t before runs
  obtain ⟨_, kept⟩ := step_keepsSafe runs
  exact kept.own before

/-- Settles O6, by what every step keeps. -/
theorem portQueuesStayBounded : Obligations.PortQueuesStayBounded := by
  intro s t before runs
  obtain ⟨_, kept⟩ := step_keepsSafe runs
  exact kept.ports before

/-- Settles O7, by what every step keeps of the paths, the catch buffer and the receive rings. -/
theorem buffersStayBounded : Obligations.BuffersStayBounded := by
  intro s t runs
  obtain ⟨_, kept⟩ := step_keepsSafe runs
  exact ⟨kept.probes, kept.caught, kept.records⟩
end

section
/-! What a step leaves owed to be written: nothing, but a stale mirror line whose write waits (R163, R166); and what one
nanosecond of the oscillator does (R1, R2). From these the statements ChangesAreWritten, ResetIsSafe and
StepRunsTheFront. -/

namespace Sys2Proof.Machine

-- One proof at a time: each would otherwise hold a thread of its own.
set_option Elab.async false

/-! ## Mirror lines -/

/-- The tag of a mirror line's writes. -/
def Mirror.tag : Mirror → OwnTag
  | .summary => .summary
  | .low => .hopsLow
  | .high => .hopsHigh

/-- Whether a mirror line is stale. -/
def CommandUnit.stale (c : CommandUnit) : Mirror → Bool
  | .summary => c.staleSummary
  | .low => c.staleLow
  | .high => c.staleHigh

/-- CMD owes no write, said of each mirror line alike. -/
theorem settled_iff {s : State} :
    s.Settled ↔ s.cmd.changes = [] ∧ ∀ m : Mirror, s.staleWaits (s.cmd.stale m) m.tag := by
  constructor
  · rintro ⟨changes, summary, low, high⟩
    exact ⟨changes, fun m => by cases m; exacts [summary, low, high]⟩
  · exact fun ⟨changes, lines⟩ => ⟨changes, lines .summary, lines .low, lines .high⟩

/-- A group that joins freshens the lines it writes. -/
theorem freshen_stale (c : CommandUnit) (g : Group) (m : Mirror) :
    (c.freshen g).stale m = (c.stale m && !g.has m.tag) := by
  cases m <;> rfl

/-- A numbered group writes the lines its requests do. -/
theorem numbered_has (n : Nat) (reqs : List (Nat × Option WLine × OwnTag)) (act : JoinAct) (t : OwnTag) :
    (Group.mk (numbered n reqs) act).has t = reqs.any (fun r => r.2.2 == t) := by
  have triples := congrArg (fun l => l.any (fun r => r.2.2 == t)) (numbered_triples n reqs)
  simpa [Group.has, List.any_map, Function.comp_def] using triples

/-- A stale line has a write that waits, or is written now (R166). -/
theorem staleWrites_covers {s : State} {m : Mirror} (stale : s.cmd.stale m = true) :
    s.mi.waiting.any (fun g => g.has m.tag) = true ∨ (staleWrites s).any (fun r => r.2.2 == m.tag) = true := by
  by_cases waits : s.mi.waiting.any (fun g => g.has m.tag) = true
  · exact .inl waits
  · refine .inr ?_
    cases m <;> simp_all [staleWrites, CommandUnit.stale, Mirror.tag]

/-! ## The end of an event -/

/-- Writing what changed leaves no write owed, whatever was owed before it. -/
theorem flush_settles (s : State) : (flush s).Settled := by
  unfold flush
  split
  next on =>
    generalize reqs_eq : staleWrites s ++ changeWrites s = reqs
    have covered : ∀ m : Mirror, s.cmd.stale m = true →
        s.mi.waiting.any (fun g => g.has m.tag) = true ∨ reqs.any (fun r => r.2.2 == m.tag) = true := by
      intro m stale
      rw [← reqs_eq, List.any_append, Bool.or_eq_true, ← or_assoc]
      exact .inl (staleWrites_covers stale)
    refine settled_iff.mpr ⟨?changes, fun m stale => ?line⟩
    case changes =>
      dsimp only
      split
      · rfl
      · exact fresh_changes (formGroup_cmd _ _)
    case line =>
      revert stale
      dsimp only
      split
      next none =>
        intro stale
        refine ⟨on, (covered m stale).resolve_right ?_⟩
        rw [List.isEmpty_iff.mp none]
        exact Bool.false_ne_true
      next =>
        unfold formGroup
        dsimp only
        split
        next joins =>
          have noneWaits : s.mi.waiting = [] := List.isEmpty_iff.mp (Bool.and_eq_true_iff.mp joins).1
          intro stale
          obtain ⟨was, unwritten⟩ := Bool.and_eq_true_iff.mp ((freshen_stale _ _ m).symm.trans stale)
          rw [numbered_has, Bool.not_eq_true'] at unwritten
          have := covered m was
          simp [noneWaits, unwritten] at this
        next =>
          intro stale
          refine ⟨on, ?_⟩
          dsimp only
          rw [List.any_append, Bool.or_eq_true]
          exact (covered m stale).imp id fun written => by simpa [numbered_has] using written
  next => exact settled_of_fresh ⟨rfl, rfl, rfl, rfl⟩

/-- Right after power-on reset no write is owed. -/
theorem reset_settled : State.reset.Settled := settled_of_fresh ⟨rfl, rfl, rfl, rfl⟩

theorem run_settles {event : State → State} {s t : State} (h : run event s = .next t) : t.Settled := by
  cases h
  exact flush_settles _

theorem execRequest_settles {r : MemReq} {s t : State} (h : execRequest r s = .next t) : t.Settled := by
  unfold execRequest at h
  split at h
  · split at h
    · exact run_settles h
    · cases h
  · cases h

theorem execForwardedResponse_settles {ok : Bool} {data : List (List Byte)} {s t : State}
    (h : execForwardedResponse ok data s = .next t) : t.Settled := by
  unfold execForwardedResponse at h
  split at h
  · split at h
    · cases h
    · exact run_settles h
  · exact run_settles h

theorem execOwnResponse_settles {ok : Bool} {data : List Byte} {s t : State}
    (h : execOwnResponse ok data s = .next t) : t.Settled := by
  unfold execOwnResponse at h
  split at h
  · split at h
    · cases h
    · exact run_settles h
  · exact run_settles h

/-- Every command ends with no write owed. -/
theorem exec_settles {c : Instr} {s t : State} (h : exec c s = .next t) : t.Settled := by
  cases c with
  | request r => exact execRequest_settles h
  | forwardedResponse ok data => exact execForwardedResponse_settles h
  | ownResponse ok data => exact execOwnResponse_settles h
  | loopbackTimerExpiry =>
    have runs : execLoopbackTimerExpiry s = .next t := h
    exact run_settles runs
  | resetInput => cases h; exact settled_of_fresh ⟨rfl, rfl, rfl, rfl⟩
  | _ => exact run_settles h

/-- A nanosecond of the oscillator leaves CMD and its queue. -/
theorem tick_settles {s : State} (h : s.Settled) : (tick s).Settled := by
  obtain ⟨changes, lines⟩ := settled_iff.mp h
  unfold tick
  split <;> exact settled_iff.mpr ⟨changes, lines⟩

/-! ## The oscillator (R1, R2) -/

/-- A nanosecond advances the interval clock at each thousandth, and station time. -/
theorem tick_eq (s : State) : tick s = { s with
    out := []
    clock := if s.subMicro + 1 < 1000 then s.clock else s.clock + 1
    subMicro := if s.subMicro + 1 < 1000 then s.subMicro + 1 else 0
    tu := s.tu.tick } := by
  unfold tick
  split <;> rfl

end Sys2Proof.Machine

open Sys2Proof Sys2Proof.Machine

/-- Settles O8: every command ends by writing what changed, which leaves no write owed; the oscillator leaves CMD. -/
theorem changesAreWritten : Obligations.ChangesAreWritten := by
  intro s t before runs
  unfold step at runs
  split at runs
  · exact exec_settles runs
  · cases runs
    exact tick_settles before

/-- Settles O3. -/
theorem resetIsSafe : Obligations.ResetIsSafe := ⟨reset_safe, reset_settled⟩

/-- Settles O1: the front command by the definition of a step; on an empty queue the nanoseconds and the part below one
are the quotient and the remainder of what accumulates. -/
theorem stepRunsTheFront : Obligations.StepRunsTheFront := by
  refine ⟨fun c rest s => rfl, fun s empty adj => ?_⟩
  have sum := Nat.div_add_mod (s.tu.frac + (1000000000 + s.tu.adj).toNat) 1000000000
  refine ⟨(s.tu.frac + (1000000000 + s.tu.adj).toNat) / 1000000000,
    (s.tu.frac + (1000000000 + s.tu.adj).toNat) % 1000000000, by omega, Nat.mod_lt _ (by decide), ?_⟩
  have idle : step s = .next (tick s) := by
    unfold step
    rw [empty]
  rw [idle, tick_eq]
  rfl
end

section
/-! The bytes of numbers and of frames read back as they were written (8.1, 12.4), and from that the statement
FramesReadBack. -/

namespace Sys2Proof.Machine

-- One proof at a time: each would otherwise hold a thread of its own.
set_option Elab.async false

/-! ## Numbers as bytes -/

@[simp] theorem leBytes_length (n v : Nat) : (leBytes n v).length = n := by
  induction n generalizing v with
  | zero => rfl
  | succ n ih => simp [leBytes, ih]

/-- A number's bytes read back the number, reduced to their width. -/
theorem leNat_leBytes (n v : Nat) : leNat (leBytes n v) = v % 256 ^ n := by
  induction n generalizing v with
  | zero => simp [leBytes, leNat, Nat.mod_one]
  | succ n ih =>
    simp only [leBytes, leNat, ih, BitVec.toNat_ofNat]
    exact (Nat.mod_mul (x := v) (a := 256) (b := 256 ^ n)).symm.trans (by rw [Nat.pow_succ'])

/-- The bytes of a word read back the word. -/
theorem ofNat_leNat_leBytes {n w : Nat} (x : BitVec w) (wide : 2 ^ w ≤ 256 ^ n) :
    BitVec.ofNat w (leNat (leBytes n x.toNat)) = x := by
  rw [leNat_leBytes, Nat.mod_eq_of_lt (x.isLt.trans_le wide), BitVec.ofNat_toNat, BitVec.setWidth_eq]

@[simp] theorem crcBytes_length (bs : List Byte) : (crcBytes bs).length = 4 := leBytes_length _ _

/-- A signed number within a 16-bit field's range reads back. -/
theorem signedField_leSigned {v : Int} (low : -32768 ≤ v) (high : v ≤ 32767) (rest : List Byte) (first : Byte) :
    signedField (first :: (leSigned 2 v ++ rest)) 1 2 = v := by
  have bytes : field (first :: (leSigned 2 v ++ rest)) 1 2 = (v % 65536).toNat := by
    have two : field (first :: (leSigned 2 v ++ rest)) 1 2 = leNat (leBytes 2 (v % 65536).toNat) := rfl
    rw [two, leNat_leBytes]
    omega
  simp only [signedField, bytes]
  split <;> omega

/-! ## Headers and bodies -/

/-- A list of eight, written out. -/
theorem eq_of_length_eight {α : Type} {l : List α} (h : l.length = 8) :
    ∃ a b c d e f g i, l = [a, b, c, d, e, f, g, i] := by
  obtain ⟨a, l, rfl⟩ := List.exists_cons_of_length_eq_add_one h
  obtain ⟨b, l, rfl⟩ := List.exists_cons_of_length_eq_add_one (by simpa using h)
  obtain ⟨c, l, rfl⟩ := List.exists_cons_of_length_eq_add_one (by simpa using h)
  obtain ⟨d, l, rfl⟩ := List.exists_cons_of_length_eq_add_one (by simpa using h)
  obtain ⟨e, l, rfl⟩ := List.exists_cons_of_length_eq_add_one (by simpa using h)
  obtain ⟨f, l, rfl⟩ := List.exists_cons_of_length_eq_add_one (by simpa using h)
  obtain ⟨g, l, rfl⟩ := List.exists_cons_of_length_eq_add_one (by simpa using h)
  obtain ⟨i, l, rfl⟩ := List.exists_cons_of_length_eq_add_one (by simpa using h)
  have nil : l = [] := by simpa using h
  subst nil
  exact ⟨a, b, c, d, e, f, g, i, rfl⟩

section
variable (src dst : Byte)

theorem header_msg (copy : Byte) (epoch seq : BitVec 32) (capture : Stamp) (payload : List Byte) :
    Frame.header ⟨src, dst, .msg copy epoch seq capture payload⟩ =
      [1, src, dst, copy, BitVec.ofNat 8 payload.length, 0, 0, 0] ++
        (leBytes 4 epoch.toNat ++ (leBytes 4 seq.toNat ++ leBytes 8 capture.toNat)) := by
  simp [Frame.header, FrameBody.fields, FrameBody.kind, layout, putAt, leBytes, List.replicate]

theorem header_bulk {g : Fragment} (eight : g.lengths.length = 8) :
    Frame.header ⟨src, dst, .bulk g⟩ =
      [2, src, dst, g.id, BitVec.ofNat 8 (g.index % 16 + if g.last then 128 else 0), BitVec.ofNat 8 g.payload.length,
        BitVec.ofNat 8 g.count, g.copies] ++ (g.lengths.map (BitVec.ofNat 8) ++ List.replicate 8 0) := by
  obtain ⟨id, i, last, n, copies, lengths, payload⟩ := g
  obtain ⟨a, b, c, d, e, f, g, j, rfl⟩ := eq_of_length_eight eight
  simp [Frame.header, FrameBody.fields, FrameBody.kind, layout, putAt, leBytes, List.replicate]

theorem header_probe (id : Byte) :
    Frame.header ⟨src, dst, .probe id⟩ = [3, src, dst] ++ List.replicate 21 0 := by
  simp [Frame.header, FrameBody.fields, FrameBody.kind, layout, putAt, List.replicate]

theorem header_probeBack (id : Byte) (here : Bool) (t2 t3 : Stamp) :
    Frame.header ⟨src, dst, .probeBack id here t2 t3⟩ = [4, src, dst] ++ List.replicate 21 0 := by
  simp [Frame.header, FrameBody.fields, FrameBody.kind, layout, putAt, List.replicate]

theorem header_hopstat (es : List HopEntry) :
    Frame.header ⟨src, dst, .hopstat es⟩ = [5, src, dst, BitVec.ofNat 8 es.length] ++ List.replicate 20 0 := by
  simp [Frame.header, FrameBody.fields, FrameBody.kind, layout, putAt, leBytes, List.replicate]

theorem header_test (run : Byte) (index : Nat) (pattern : List Byte) :
    Frame.header ⟨src, dst, .test run index pattern⟩ =
      [6, src, dst, run, BitVec.ofNat 8 index] ++ List.replicate 19 0 := by
  simp [Frame.header, FrameBody.fields, FrameBody.kind, layout, putAt, leBytes, List.replicate]

theorem bytes_probeBack (id : Byte) (here : Bool) (t2 t3 : Stamp) :
    FrameBody.bytes (.probeBack id here t2 t3) =
      [id, flagByte here, 0, 0, 0, 0, 0, 0] ++ (leBytes 8 t2.toNat ++ leBytes 8 t3.toNat) := by
  simp [FrameBody.bytes, layout, putAt, leBytes, List.replicate]

end

theorem bytes_probe (id : Byte) : FrameBody.bytes (.probe id) = id :: List.replicate 7 0 := by
  simp [FrameBody.bytes, layout, putAt, List.replicate]

/-- A header begins with the kind, the source and the destination, and is 24 bytes. -/
theorem header_begins {f : Frame} (h : f.body.wellFormed) :
    ∃ more, f.header = f.body.kind :: f.src :: f.dst :: more ∧ more.length = 21 := by
  obtain ⟨src, dst, body⟩ := f
  cases body with
  | msg => exact ⟨_, header_msg .., by simp⟩
  | bulk g =>
    obtain ⟨-, -, eight, -⟩ := h
    exact ⟨_, header_bulk src dst eight, by simp [eight]⟩
  | probe => exact ⟨_, header_probe .., rfl⟩
  | probeBack => exact ⟨_, header_probeBack .., rfl⟩
  | hopstat => exact ⟨_, header_hopstat .., rfl⟩
  | test => exact ⟨_, header_test .., rfl⟩

theorem header_length {f : Frame} (h : f.body.wellFormed) : f.header.length = 24 := by
  obtain ⟨more, eq, len⟩ := header_begins h
  rw [eq, List.length_cons, List.length_cons, List.length_cons, len]

theorem hopBytes_length (es : List HopEntry) : (es.flatMap HopEntry.bytes).length = 4 * es.length := by
  induction es with
  | nil => rfl
  | cons e es ih =>
    have four : e.bytes.length = 4 := rfl
    simp only [List.flatMap_cons, List.length_append, four, ih, List.length_cons]
    omega

theorem body_length {b : FrameBody} (h : b.wellFormed) : b.bytes.length ≤ 96 := by
  cases b with
  | msg => exact h.2
  | bulk => obtain ⟨-, -, -, -, -, few⟩ := h; exact few.trans (by decide)
  | probe => exact (by decide : 8 ≤ 96)
  | probeBack => exact (by decide : 24 ≤ 96)
  | hopstat es => exact (hopBytes_length es).trans_le (by have := h.1; omega)
  | test => exact h.2.trans_le (by decide)

/-- HOPSTAT entries read back. -/
theorem hopEntries_bytes {es : List HopEntry}
    (h : ∀ e ∈ es, e.position < 256 ∧ -32768 ≤ e.level ∧ e.level ≤ 32767 ∧ e.step < 128) :
    hopEntries es.length (es.flatMap HopEntry.bytes) = es := by
  induction es with
  | nil => rfl
  | cons e es ih =>
    obtain ⟨position, low, high, step⟩ := h e List.mem_cons_self
    obtain ⟨pos, level, st, lost⟩ := e
    dsimp only at position low high step
    have third : byteAt (HopEntry.bytes ⟨pos, level, st, lost⟩ ++ es.flatMap HopEntry.bytes) 3 =
        st + if lost then 128 else 0 := by
      have byte : byteAt (HopEntry.bytes ⟨pos, level, st, lost⟩ ++ es.flatMap HopEntry.bytes) 3 =
        (st % 128 + if lost then 128 else 0) % 256 := rfl
      rw [byte]
      split <;> omega
    have first : byteAt (HopEntry.bytes ⟨pos, level, st, lost⟩ ++ es.flatMap HopEntry.bytes) 0 = pos := by
      have byte : byteAt (HopEntry.bytes ⟨pos, level, st, lost⟩ ++ es.flatMap HopEntry.bytes) 0 = pos % 256 := rfl
      omega
    have second : signedField (HopEntry.bytes ⟨pos, level, st, lost⟩ ++ es.flatMap HopEntry.bytes) 1 2 = level :=
      signedField_leSigned low high _ _
    have rest : (HopEntry.bytes ⟨pos, level, st, lost⟩ ++ es.flatMap HopEntry.bytes).drop 4 =
      es.flatMap HopEntry.bytes := rfl
    rw [List.flatMap_cons, List.length_cons, hopEntries, third, first, second, rest,
      ih (fun x hx => h x (List.mem_cons_of_mem _ hx))]
    cases lost <;> (simp; omega)

/-! ## What a receiver makes of a frame's bytes (R130) -/

/-- The bytes of a frame after its header and body. -/
def Frame.trailer (f : Frame) : List Byte := crcBytes (f.header ++ f.body.bytes) ++ delimiter

theorem Frame.encode_eq (f : Frame) : f.encode = f.header ++ (f.body.bytes ++ f.trailer) := by
  simp [Frame.encode, Frame.trailer]

theorem Frame.encode_length {f : Frame} (h : f.body.wellFormed) : f.encode.length = f.body.bytes.length + 32 := by
  simp [Frame.encode, header_length h, delimiter]
  omega

theorem Frame.encode_body {f : Frame} (h : f.body.wellFormed) :
    (f.encode.drop 24).take (f.encode.length - 32) = f.body.bytes := by
  have past : f.encode.drop 24 = f.body.bytes ++ f.trailer := by
    rw [f.encode_eq, ← header_length h, List.drop_left]
  rw [past, Frame.encode_length h, Nat.add_sub_cancel, List.take_left]

/-- A well-formed frame's kind and fields are read back. -/
theorem readBody_encode {f : Frame} (h : f.body.wellFormed) : readBody f.encode = some f.body := by
  have body := Frame.encode_body h
  have long := Frame.encode_length h
  unfold readBody
  dsimp only
  rw [body, long, f.encode_eq]
  generalize f.body.bytes ++ f.trailer = rest
  obtain ⟨src, dst, b⟩ := f
  cases b with
  | msg copy epoch seq capture payload =>
    obtain ⟨some, few⟩ := h
    have same : FrameBody.bytes (.msg copy epoch seq capture payload) = payload := rfl
    have len : (BitVec.ofNat 8 payload.length).toNat = payload.length := Nat.mod_eq_of_lt (by omega)
    rw [header_msg, same]
    change (if 1 ≤ (BitVec.ofNat 8 payload.length).toNat ∧ (BitVec.ofNat 8 payload.length).toNat ≤ 96 ∧
        (BitVec.ofNat 8 payload.length).toNat + 32 = payload.length + 32 then
        Option.some (FrameBody.msg copy (BitVec.ofNat 32 (leNat (leBytes 4 epoch.toNat)))
          (BitVec.ofNat 32 (leNat (leBytes 4 seq.toNat))) (BitVec.ofNat 64 (leNat (leBytes 8 capture.toNat))) payload)
      else none) = _
    rw [len, if_pos ⟨some, few, rfl⟩, ofNat_leNat_leBytes _ (by decide), ofNat_leNat_leBytes _ (by decide),
      ofNat_leNat_leBytes _ (by decide)]
  | bulk g =>
    obtain ⟨index, count, eight, bytes, some, few⟩ := h
    obtain ⟨id, i, last, n, copies, lengths, payload⟩ := g
    dsimp only at index count eight bytes some few
    have same : FrameBody.bytes (.bulk ⟨id, i, last, n, copies, lengths, payload⟩) = payload := rfl
    have len : (BitVec.ofNat 8 payload.length).toNat = payload.length := Nat.mod_eq_of_lt (by omega)
    have four : (BitVec.ofNat 8 (i % 16 + if last then 128 else 0)).toNat = i + if last then 128 else 0 := by
      rw [BitVec.toNat_ofNat]
      split <;> omega
    have messages : (lengths.map (BitVec.ofNat 8)).map BitVec.toNat = lengths := by
      rw [List.map_map]
      exact (List.map_congr_left fun x m => Nat.mod_eq_of_lt (bytes x m)).trans (List.map_id _)
    have place : (i + if last then 128 else 0) % 16 = i := by split <;> omega
    have ends : decide (128 ≤ i + if last then 128 else 0) = last := by
      cases last
      · simpa using index.trans_le (by decide)
      · simp
    have listed : ∀ (a : List Byte), ((lengths.map (BitVec.ofNat 8) ++ a).take 8) = lengths.map (BitVec.ofNat 8) := by
      intro a
      exact List.take_left' (by rw [List.length_map, eight])
    rw [header_bulk src dst eight, same]
    change (if 1 ≤ (BitVec.ofNat 8 payload.length).toNat ∧ (BitVec.ofNat 8 payload.length).toNat ≤ 64 ∧
        (BitVec.ofNat 8 payload.length).toNat + 32 = payload.length + 32 then
        Option.some (FrameBody.bulk ⟨id, (BitVec.ofNat 8 (i % 16 + if last then 128 else 0)).toNat % 16,
          decide (128 ≤ (BitVec.ofNat 8 (i % 16 + if last then 128 else 0)).toNat), (BitVec.ofNat 8 n).toNat, copies,
          ((lengths.map (BitVec.ofNat 8) ++ List.replicate 8 0 ++ rest).take 8).map BitVec.toNat, payload⟩)
      else none) = _
    rw [len, if_pos ⟨some, few, rfl⟩, four, place, ends, List.append_assoc, listed,
      messages, BitVec.toNat_ofNat, Nat.mod_eq_of_lt count]
  | probe id =>
    rw [header_probe, bytes_probe]
    rfl
  | probeBack id traceable t2 t3 =>
    have flag : decide ((flagByte traceable).toNat ≠ 0) = traceable := by cases traceable <;> rfl
    rw [header_probeBack, bytes_probeBack]
    change Option.some (FrameBody.probeBack id (decide ((flagByte traceable).toNat ≠ 0))
      (BitVec.ofNat 64 (leNat (leBytes 8 t2.toNat))) (BitVec.ofNat 64 (leNat (leBytes 8 t3.toNat)))) = _
    rw [flag, ofNat_leNat_leBytes _ (by decide), ofNat_leNat_leBytes _ (by decide)]
  | hopstat es =>
    obtain ⟨few, ranges⟩ := h
    have len : (FrameBody.bytes (.hopstat es)).length = 4 * es.length := hopBytes_length es
    have count : (BitVec.ofNat 8 es.length).toNat = es.length := Nat.mod_eq_of_lt (by omega)
    rw [header_hopstat, len]
    change (if (BitVec.ofNat 8 es.length).toNat ≤ 24 ∧ 32 + 4 * (BitVec.ofNat 8 es.length).toNat = 4 * es.length + 32 then
      Option.some (FrameBody.hopstat (hopEntries (BitVec.ofNat 8 es.length).toNat (es.flatMap HopEntry.bytes)))
      else none) = _
    rw [count, if_pos ⟨few, by omega⟩, hopEntries_bytes ranges]
  | test run index pattern =>
    obtain ⟨small, long⟩ := h
    have same : FrameBody.bytes (.test run index pattern) = pattern := rfl
    rw [header_test, same, long]
    change Option.some (FrameBody.test run (BitVec.ofNat 8 index).toNat pattern) = _
    rw [BitVec.toNat_ofNat, Nat.mod_eq_of_lt small]

/-- A well-formed frame passes every check of a receiver it is meant for (R130). -/
theorem judge_encode {own : Site} {f : Frame} (h : f.wellFormed own) : judge own f.encode = .good f := by
  obtain ⟨formed, addressed⟩ := h
  have long := Frame.encode_length formed
  have few := body_length formed
  have headed := header_length formed
  generalize hb_eq : f.header ++ f.body.bytes = hb
  have size : hb.length = f.encode.length - 8 := by rw [← hb_eq, List.length_append, headed, long]; omega
  have shape : f.encode = hb ++ (crcBytes hb ++ delimiter) := by rw [← hb_eq]; simp [Frame.encode]
  have front : f.encode.take (f.encode.length - 8) = hb := by rw [← size, shape, List.take_left]
  have check : (f.encode.drop (f.encode.length - 8)).take 4 = crcBytes hb := by
    rw [← size, shape, List.drop_left]; rfl
  have last : f.encode.drop (f.encode.length - 4) = delimiter := by
    have four : f.encode.length - 4 = hb.length + 4 := by omega
    rw [four, shape, ← List.drop_drop, List.drop_left]
    rfl
  obtain ⟨more, begins, -⟩ := header_begins formed
  have src : f.encode.getD 1 0 = f.src := by rw [f.encode_eq, begins]; rfl
  have dst : f.encode.getD 2 0 = f.dst := by rw [f.encode_eq, begins]; rfl
  unfold judge
  dsimp only
  rw [last, check, front, if_neg (by rw [long]; simp; omega), if_neg (by simp), readBody_encode formed]
  dsimp only
  rw [src, dst, if_neg]
  rintro ⟨directed, bad⟩
  obtain ⟨meant, low, other⟩ := addressed directed
  omega

end Sys2Proof.Machine

open Sys2Proof Sys2Proof.Machine

/-- Settles O9: a receiver's checks find the parts that the frame's forming lays down. -/
theorem framesReadBack : Obligations.FramesReadBack := fun _ _ => judge_encode
end

section
/-! Announcements, the pulses that are ignored, the Time Unit's two timers, and the writes that a change of time state
forms (R4 to R6, R10, R11, R13, R163, R166). From these the statements AnnouncementIsHeld and PulsesMissed. -/

namespace Sys2Proof.Machine

-- One proof at a time: each would otherwise hold a thread of its own.
set_option Elab.async false

/-! ## Events that owe no write -/

/-- Whether CMD owes a write depends only on CMD and the groups that wait. -/
theorem State.Settled.congr {s t : State} (h : s.Settled) (cmd : t.cmd = s.cmd) (waiting : t.mi.waiting = s.mi.waiting) :
    t.Settled := by
  obtain ⟨changes, summary, low, high⟩ := h
  unfold State.staleWaits at summary low high
  refine ⟨?_, ?_, ?_, ?_⟩
  · rw [cmd]; exact changes
  all_goals unfold State.staleWaits; rw [cmd, waiting]; assumption

/-- The state as every event finds it, the record of the pins cleared. -/
def State.quiet (s : State) : State := { s with out := [] }

@[simp] theorem State.quiet_out (s : State) : s.quiet.out = [] := rfl
@[simp] theorem State.quiet_outside (s : State) : s.quiet.outside = s.outside := rfl
@[simp] theorem State.quiet_outsideSending (s : State) : s.quiet.outsideSending = s.outsideSending := rfl
@[simp] theorem State.quiet_mi (s : State) : s.quiet.mi = s.mi := rfl
@[simp] theorem State.quiet_cmd (s : State) : s.quiet.cmd = s.cmd := rfl
@[simp] theorem State.quiet_tu (s : State) : s.quiet.tu = s.tu := rfl
@[simp] theorem State.quiet_now (s : State) : s.quiet.now = s.now := rfl
@[simp] theorem State.quiet_isReady (s : State) : s.quiet.isReady = s.isReady := rfl
@[simp] theorem State.quiet_startUp (s : State) : s.quiet.startUp = s.startUp := rfl
@[simp] theorem State.quiet_hops (s : State) : s.quiet.hops = s.hops := rfl
@[simp] theorem State.quiet_ports (s : State) : s.quiet.ports = s.ports := rfl
@[simp] theorem State.quiet_paths (s : State) : s.quiet.paths = s.paths := rfl
@[simp] theorem State.quiet_rs (s : State) : s.quiet.rs = s.rs := rfl
@[simp] theorem State.quiet_tx (s : State) : s.quiet.tx = s.tx := rfl
@[simp] theorem State.quiet_rx (s : State) : s.quiet.rx = s.rx := rfl
@[simp] theorem State.quiet_cu (s : State) : s.quiet.cu = s.cu := rfl
@[simp] theorem State.quiet_rmu (s : State) : s.quiet.rmu = s.rmu := rfl
@[simp] theorem State.quiet_link (s : State) : s.quiet.link = s.link := rfl
@[simp] theorem State.quiet_ownSite (s : State) : s.quiet.ownSite = s.ownSite := rfl

theorem run_eq (event : State → State) (s : State) : run event s = .next (flush (event s.quiet)) := rfl

/-- An event that leaves CMD and the waiting groups of a state that owes no write is its whole meaning. -/
theorem run_settled {event : State → State} {s t : State} (h : s.Settled) (comes : event s.quiet = t)
    (cmd : t.cmd = s.cmd) (waiting : t.mi.waiting = s.mi.waiting) : run event s = .next t := by
  subst comes
  exact congrArg Host.Outcome.next (flush_settled (h.congr cmd waiting))

/-! ## Announcements (R4) -/

/-- The characters of an announcement of a seconds count (12.4). -/
def announcementOf (sec : Nat) : List Byte := 0x24 :: 12 :: leBytes 8 sec ++ crcBytes (12 :: leBytes 8 sec)

theorem announced_announcementOf {sec : Nat} (h : sec ≤ 18446744073) : announced (announcementOf sec) = some sec := by
  have count : field (announcementOf sec) 2 8 = sec := by
    have read : field (announcementOf sec) 2 8 = leNat (leBytes 8 sec) := rfl
    rw [read, leNat_leBytes]
    exact Nat.mod_eq_of_lt (h.trans_lt (by decide))
  have covered : ((announcementOf sec).drop 1).take 9 = 12 :: leBytes 8 sec := rfl
  have check : ((announcementOf sec).drop 10).take 4 = crcBytes (12 :: leBytes 8 sec) := by
    have split : announcementOf sec = (0x24 :: 12 :: leBytes 8 sec) ++ crcBytes (12 :: leBytes 8 sec) := rfl
    rw [split, List.drop_left' (by simp), List.take_of_length_le (crcBytes_length _).le]
  have long : (announcementOf sec).length = 14 := by
    rw [announcementOf, List.length_append, crcBytes_length]
    rfl
  unfold announced
  dsimp only
  rw [count, covered, check, if_pos ⟨long, rfl, rfl, rfl, h⟩]

theorem announced_bad {chars : List Byte} (h : chars.length ≠ 14 ∨ byteAt chars 0 ≠ 0x24 ∨ byteAt chars 1 ≠ 12 ∨
    18446744073 < field chars 2 8 ∨ (chars.drop 10).take 4 ≠ crcBytes ((chars.drop 1).take 9)) :
    announced chars = none := by
  refine if_neg ?_
  rintro ⟨long, first, second, check, range⟩
  rcases h with h | h | h | h | h
  · exact h long
  · exact h first
  · exact h second
  · exact absurd range (Nat.not_le.mpr h)
  · exact h check

/-! ## Pulses that are not handled (R5, R6) -/

theorem isBounce_true {s : State} {l : Nat} (last : s.tu.lastPulse = some l) (early : s.now < l + 500000) :
    isBounce s = true := by
  rw [isBounce, last, Option.any_some]
  exact decide_eq_true early

/-- Without an announcement a pulse is given no seconds where there are no previous ones, or in UNSET. -/
theorem assigned_none {t : TimeUnit} (invalid : t.annValid = false) (h : t.prevSeconds = none ∨ t.state = .unset) :
    t.assigned = none := by
  rcases h with h | h <;> simp [TimeUnit.assigned, invalid, h]

/-! ## A change of time state, written (R13, R163, R166) -/

/-- A change of time state leaves the own-request queue until the event's end. -/
theorem changeTime_mi (f : TimeUnit → TimeUnit) (s : State) : (changeTime f s).mi = s.mi := by
  unfold changeTime noteTimeState
  split <;> rfl

/-- Raising a cause that is not set notes one change for the cause line. -/
theorem raise_changes {c : Cause} {s : State} (h : (raise c s).cmd.causes ≠ s.cmd.causes) :
    (raise c s).cmd.changes = s.cmd.changes ++ [(raise c s).cmd.causes] := by
  rw [(raise_cmd c s).2.2.2.2.2.2] at h ⊢
  unfold raise CommandUnit.setCauses
  dsimp only
  rw [if_neg h]

theorem raise_stale (c : Cause) (s : State) (m : Mirror) : (raise c s).cmd.stale m = s.cmd.stale m := by
  unfold raise CommandUnit.setCauses
  dsimp only
  split <;> cases m <;> rfl

theorem raise_statusOn (c : Cause) (s : State) : (raise c s).cmd.statusOn = s.cmd.statusOn := by
  unfold raise CommandUnit.setCauses
  dsimp only
  split <;> rfl

/-- Where no group waits, a state that owes no write has no mirror line stale. -/
theorem State.Settled.not_stale {s : State} (h : s.Settled) (none : s.mi.waiting = []) (m : Mirror) :
    s.cmd.stale m = false := by
  rw [Bool.eq_false_iff]
  intro stale
  have waits := ((settled_iff.mp h).2 m stale).2
  rw [none] at waits
  cases waits

/-- The two writes joined at once, as an event's end forms them from a stale summary mirror and one change. -/
theorem flush_writesBoth {s : State} {v : BitVec 9} (on : s.cmd.statusOn = true) (none : s.mi.waiting = [])
    (room : s.mi.own.length + 2 ≤ 32) (changes : s.cmd.changes = [v]) (summary : s.cmd.staleSummary = true)
    (low : s.cmd.staleLow = false) (high : s.cmd.staleHigh = false) :
    (flush s).mi.own = s.mi.own ++ [⟨s.mi.nextId, s.controlLine + 2, some (summaryLineOf s), .summary⟩,
      ⟨s.mi.nextId + 1, s.controlLine, some (causeLineOf v), .causeLine⟩] := by
  have mirror : staleWrites s = [(s.controlLine + 2, some [], .summary)] := by
    simp [staleWrites, summary, low, high, none]
  have line : changeWrites s = [(s.controlLine, some (causeLineOf v), .causeLine)] := by simp [changeWrites, changes]
  unfold flush
  rw [if_pos on, mirror, line]
  dsimp only [List.cons_append, List.nil_append, List.isEmpty_cons]
  rw [if_neg Bool.false_ne_true]
  unfold formGroup
  dsimp only
  rw [if_pos (by simpa [none, State.hasRoom, ownCapacity, numbered] using room)]
  rfl

/-- What the summary mirror shows is not CMD's or the queue's. -/
theorem summaryLineOf_outside {s t : State} (h : t.outside = s.outside) : summaryLineOf t = summaryLineOf s := by
  have paths : t.paths = s.paths := congrArg (·.paths) h
  have rs : t.rs = s.rs := congrArg (·.rs) h
  have tu : t.tu = s.tu := congrArg (·.tu) h
  have link : t.link = s.link := congrArg (·.link) h
  have start : t.startUp = s.startUp := congrArg (·.startUp) h
  have site : t.ownSite = s.ownSite := congrArg (·.ownSite) h
  unfold summaryLineOf State.remotes State.isReady
  rw [paths, rs, tu, link, start, site]

/-- A cause raised on a state with the summary mirror alone stale forms, at the event's end, the two writes. -/
theorem raise_writesBoth {c : Cause} {s u : State} (mi : u.mi = s.mi) (causes : u.cmd.causes = s.cmd.causes)
    (changes : u.cmd.changes = s.cmd.changes) (status : u.cmd.statusOn = s.cmd.statusOn)
    (summary : u.cmd.stale .summary = true) (low : u.cmd.stale .low = s.cmd.stale .low)
    (high : u.cmd.stale .high = s.cmd.stale .high) : s.WritesBoth (flush (raise c u)) := by
  intro settled on none room raised
  rw [flush_causes] at raised ⊢
  have own : (raise c u).mi = s.mi := mi
  have noted : (raise c u).cmd.changes = [(raise c u).cmd.causes] := by
    rw [raise_changes (by rw [causes]; exact raised), changes, settled.changes, List.nil_append]
  have writes := flush_writesBoth (s := raise c u) (by rw [raise_statusOn, status]; exact on)
    (by rw [own]; exact none) (by rw [own]; exact room) noted ((raise_stale c u .summary).trans summary)
    ((raise_stale c u .low).trans (low.trans (settled.not_stale none .low)))
    ((raise_stale c u .high).trans (high.trans (settled.not_stale none .high)))
  have line : (raise c u).controlLine = s.controlLine := by rw [State.controlLine, own, State.controlLine]
  rw [writes, summaryLineOf_outside (flush_outside (raise c u)), own, line]

/-- An event that changes the time state forms the two writes (R13). -/
theorem changeTime_writesBoth {f : TimeUnit → TimeUnit} {s : State} (changed : (f s.tu).state ≠ s.tu.state) :
    s.WritesBoth (flush (changeTime f { s with out := [] })) := by
  have raised : changeTime f { s with out := [] } =
      raise .timeChange (markStale .summary { s with out := [], tu := f s.tu }) := by
    unfold changeTime noteTimeState
    exact if_neg changed
  rw [raised]
  exact raise_writesBoth rfl rfl rfl rfl rfl rfl rfl

/-! ## The two timers (R10, R11) -/

theorem dueBy_iff {now : Nat} {t : Option Nat} : dueBy now t = true ↔ ∃ d, t = some d ∧ d ≤ now := by
  cases t <;> simp [dueBy]

/-- A timer that has reached its expiry changes the record; where that changes the time state, TIME_CHANGE is raised and
the two writes are formed. -/
theorem timer_changes {f : TimeUnit → TimeUnit} {s : State} (changed : (f s.tu).state ≠ s.tu.state) :
    ∃ t, t = flush (changeTime f { s with out := [] }) ∧ t.tu = f s.tu ∧ t.hasCause .timeChange ∧ s.WritesBoth t ∧
      t.outside = { s with tu := t.tu }.outside := by
  refine ⟨_, rfl, ?_, flush_hasCause (changeTime_raises changed), changeTime_writesBoth changed, ?_⟩
  · rw [flush_tu, changeTime_tu]
  · rw [flush_outside, flush_tu, changeTime_tu, changeTime_outside]; rfl

theorem exec_pulseMissing {s : State} {d : Nat} (due : s.tu.missingDue = some d) (past : d ≤ s.now) :
    exec .pulseMissingExpiry s = .next (flush (changeTime (TimeUnit.pulseMissing s.now) { s with out := [] })) :=
  congrArg (fun u => Host.Outcome.next (flush u))
    (if_pos (dueBy_iff.mpr ⟨d, due, past⟩) : (if dueBy s.now s.tu.missingDue then _ else _) = _)

theorem exec_holdoverExpiry {s : State} {d : Nat} (due : s.tu.holdoverDue = some d) (past : d ≤ s.now) :
    exec .holdoverExpiry s = .next (flush (changeTime TimeUnit.endHoldover { s with out := [] })) :=
  congrArg (fun u => Host.Outcome.next (flush u))
    (if_pos (dueBy_iff.mpr ⟨d, due, past⟩) : (if dueBy s.now s.tu.holdoverDue then _ else _) = _)

theorem pulseMissing_locked {t : TimeUnit} (now : Nat) (h : t.state = .locked) : t.pulseMissing now =
    { t with state := .holdover, adj := t.integral, goodRun := 0, missingDue := none, holdoverStart := some now,
             holdoverDue := some (now + t.limit * 1000000) } := by
  simp [TimeUnit.pulseMissing, h]

theorem pulseMissing_acquiring {t : TimeUnit} (now : Nat) (h : t.state = .acquiring) : t.pulseMissing now =
    { t with state := .free, adj := t.integral, goodRun := 0, missingDue := none } := by
  simp [TimeUnit.pulseMissing, h]

theorem pulseMissing_other {t : TimeUnit} (now : Nat) (locked : t.state ≠ .locked) (acquiring : t.state ≠ .acquiring) :
    t.pulseMissing now = { t with missingDue := none } := by
  unfold TimeUnit.pulseMissing
  cases h : t.state <;> simp_all

theorem endHoldover_holdover {t : TimeUnit} (h : t.state = .holdover) :
    t.endHoldover = { t with state := .free, holdoverStart := none, holdoverDue := none } := if_pos h

end Sys2Proof.Machine

open Sys2Proof Sys2Proof.Machine

/-- Settles O10: a good announcement is read back, and a pulse that is not handled does only what precedes handling. -/
theorem announcementIsHeld : Obligations.AnnouncementIsHeld := by
  refine fun s settled => ⟨fun sec range => ?good, fun chars bad => ?bad, fun l last early => ?bounce,
    fun accepted invalid unassigned => ?unhandled⟩
  case good =>
    refine run_settled settled ?_ rfl rfl
    have held := announced_announcementOf range
    unfold announcementOf at held
    rw [takeAnnouncement, held]
    rfl
  case bad =>
    refine run_settled settled ?_ rfl rfl
    rw [takeAnnouncement, announced_bad bad]
    rfl
  case bounce =>
    refine run_settled settled ?_ rfl rfl
    rw [secondPulse, if_pos (isBounce_true (s := s.quiet) last early)]
    rfl
  case unhandled =>
    refine run_settled settled ?_ rfl rfl
    have none : (s.tu.accept s.now).assigned = none := assigned_none invalid unassigned
    have bounce : isBounce s.quiet = false := isBounce_false accepted
    unfold secondPulse
    rw [bounce]
    dsimp only
    rw [if_neg Bool.false_ne_true, State.quiet_now, State.quiet_tu, none]
    rfl

/-- Settles O13: each timer changes the record as its state tells, and a change of time state is raised and written. -/
theorem pulsesMissed : Obligations.PulsesMissed := by
  refine fun s d past => ⟨fun due => ⟨fun locked => ?_, fun acquiring => ?_, fun locked acquiring settled => ?_⟩,
    fun due holdover => ?_⟩
  · obtain ⟨t, is, tu, rest⟩ := timer_changes (f := TimeUnit.pulseMissing s.now) (s := s)
      (by rw [pulseMissing_locked _ locked, locked]; exact nofun)
    exact ⟨t, is ▸ exec_pulseMissing due past, tu.trans (pulseMissing_locked _ locked), rest⟩
  · obtain ⟨t, is, tu, rest⟩ := timer_changes (f := TimeUnit.pulseMissing s.now) (s := s)
      (by rw [pulseMissing_acquiring _ acquiring, acquiring]; exact nofun)
    exact ⟨t, is ▸ exec_pulseMissing due past, tu.trans (pulseMissing_acquiring _ acquiring), rest⟩
  · have other := pulseMissing_other s.now locked acquiring
    rw [exec_pulseMissing due past, changeTime, noteTimeState, if_pos (by rw [other])]
    dsimp only
    rw [other]
    exact congrArg Host.Outcome.next (flush_settled (settled.congr rfl rfl))
  · obtain ⟨t, is, tu, rest⟩ := timer_changes (f := TimeUnit.endHoldover) (s := s)
      (by rw [endHoldover_holdover holdover, holdover]; exact nofun)
    exact ⟨t, is ▸ exec_holdoverExpiry due past, tu.trans (endHoldover_holdover holdover), rest⟩
end

section
/-! What the Memory Interposer does with a request, from the requester port to its answer: requests taken, classified,
granted and answered, and the own-request groups that join (chapter 5, R164); and the reset input. From these the
statements RequestIsQueued, PlainRequestIsHeld, GuardedWriteIsDropped, ArbiterAlternates, ReadIsAnswered,
CauseReadClears, GroupJoinsWhole and ResetInputResets. -/

namespace Sys2Proof.Machine

-- One proof at a time: each would otherwise hold a thread of its own.
set_option Elab.async false

/-! ## Writing what changed, seen from outside CMD -/

theorem flush_hops (s : State) : (flush s).hops = s.hops := congrArg (·.hops) (flush_outside s)
theorem flush_ports (s : State) : (flush s).ports = s.ports := congrArg (·.ports) (flush_outside s)
theorem flush_link (s : State) : (flush s).link = s.link := congrArg (·.link) (flush_outside s)
theorem flush_rs (s : State) : (flush s).rs = s.rs := congrArg (·.rs) (flush_outside s)
theorem flush_rx (s : State) : (flush s).rx = s.rx := congrArg (·.rx) (flush_outside s)
theorem flush_cu (s : State) : (flush s).cu = s.cu := congrArg (·.cu) (flush_outside s)
theorem flush_rmu (s : State) : (flush s).rmu = s.rmu := congrArg (·.rmu) (flush_outside s)
theorem flush_startUp (s : State) : (flush s).startUp = s.startUp := congrArg (·.startUp) (flush_outside s)
theorem flush_head (s : State) : (flush s).mi.head = s.mi.head := congrArg (·.mi.head) (flush_outside s)
theorem flush_queue (s : State) : (flush s).mi.queue = s.mi.queue := congrArg (·.mi.queue) (flush_outside s)
theorem flush_answers (s : State) : (flush s).mi.answers = s.mi.answers := congrArg (·.mi.answers) (flush_outside s)
theorem flush_violations (s : State) : (flush s).mi.violations = s.mi.violations :=
  congrArg (·.mi.violations) (flush_outside s)
theorem flush_violation (s : State) : (flush s).mi.violation = s.mi.violation :=
  congrArg (·.mi.violation) (flush_outside s)
theorem flush_outstanding (s : State) : (flush s).mi.outstanding = s.mi.outstanding :=
  congrArg (·.mi.outstanding) (flush_outside s)

theorem formGroup_out (reqs : List (Nat × Option WLine × OwnTag)) (act : JoinAct) (s : State) :
    (formGroup reqs act s).out = s.out := by
  unfold formGroup joinGroup
  dsimp only
  split
  · split <;> rfl
  · rfl

theorem flush_out (s : State) : (flush s).out = s.out := by
  unfold flush
  split
  · dsimp only
    split
    · rfl
    · rw [formGroup_out]
  · rfl

/-! ## Heads and answers (R78 to R80, R92) -/

/-- Giving answers touches only the answers owed and the pins. -/
theorem deliver_outside (s : State) :
    (deliver s).outside = { s with mi := { s.mi with answers := (ripe s.mi.answers).2 } }.outside := rfl

/-- The own writes pending do not depend on the requests and answers of the processor. -/
theorem heldOn_congr {s t : State} (p : Part) (own : t.mi.own = s.mi.own) (waiting : t.mi.waiting = s.mi.waiting)
    (outstanding : t.mi.outstanding = s.mi.outstanding) : heldOn t p = heldOn s p := by
  unfold heldOn State.pendingWrites
  rw [own, waiting, outstanding]

/-- A hold names a pending own write to a line of the part. -/
theorem mem_heldOn {s : State} {p : Part} {i : Nat} :
    i ∈ heldOn s p ↔ ∃ w ∈ s.pendingWrites, w.1 = i ∧ p.req.first ≤ w.2 ∧ w.2 < p.req.first + p.req.count := by
  simp only [heldOn, MemReq.touches, List.mem_map, List.mem_filter, decide_eq_true_eq]
  exact ⟨fun ⟨w, ⟨pending, lines⟩, id⟩ => ⟨w, pending, id, lines⟩, fun ⟨w, pending, id, lines⟩ => ⟨w, ⟨pending, lines⟩, id⟩⟩

/-- Before ready a read within one page is one plain part, to be forwarded (R80). -/
theorem treatRequest_plainRead {s : State} {line n : Nat} (starting : s.isReady = false) (page : n ≤ 64 - line % 64) :
    treatRequest s (.read line n) = [(.forward ⟨.read line n, none⟩, none)] := by
  have whole : split (.read line n) = [.read line n] := if_pos page
  have plain : classify s (.read line n) = none := by rw [classify, starting]; rfl
  rw [treatRequest, if_neg (by exact Bool.false_ne_true), whole]
  simp only [List.map_cons, List.map_nil, treatPart, plain]
  rfl

/-- The oldest request becomes the head where there is none. -/
theorem requestHead_takes {s : State} {r : MemReq} {rest : List MemReq} (none : s.mi.head = none)
    (queue : s.mi.queue = r :: rest) : requestHead s = becomeHead r rest s := by
  unfold requestHead
  rw [none, queue]

/-- The first of the numbers below `n` that passes a test. -/
theorem find?_finRange {n : Nat} {p : Fin n → Bool} {i : Fin n} (passes : p i = true) (first : ∀ j < i, p j = false) :
    (List.finRange n).find? p = some i := by
  rw [List.find?_eq_some_iff_getElem]
  refine ⟨passes, i.val, by simp, by simp, fun j hj => ?_⟩
  simp [first ⟨j, hj.trans i.isLt⟩ hj]

/-- The entry of a page is the lowest-numbered enabled one that holds it (R80). -/
theorem entryOf_eq_some {s : State} {page : Nat} {i : EntryNo} (enabled : s.mi.windows[i].enabled = true)
    (low : s.mi.windows[i].base ≤ page) (high : page ≤ s.mi.windows[i].limit)
    (first : ∀ j : EntryNo, j < i → s.mi.windows[j].enabled = true →
      page < s.mi.windows[j].base ∨ s.mi.windows[j].limit < page) : entryOf s page = some i := by
  refine find?_finRange ?_ fun j before => ?_
  · rw [enabled, Bool.true_and]
    exact decide_eq_true ⟨low, high⟩
  · rw [Bool.and_eq_false_iff]
    cases on : s.mi.windows[j].enabled with
    | false => exact .inl rfl
    | true =>
      have out := first j before on
      exact .inr (decide_eq_false (by omega))

/-- A one-line write to a page whose entry is a GUARD one with write-block set is answered ERROR, and violates (R84). -/
theorem treatRequest_guardedWrite {s : State} {line : Nat} {w : WLine} {i : EntryNo} (ready : s.isReady = true)
    (enables : noneEnabled w = false) (entry : entryOf s (line / 64) = some i) (kind : s.mi.windows[i].kind = .guard)
    (block : s.mi.windows[i].writeBlock = true) :
    treatRequest s (.write line [w]) = [(.answer false [], some ⟨line, true, i, .blocked⟩)] := by
  have kept : (MemReq.write line [w]).allClear = false := by simp [MemReq.allClear, enables]
  have whole : split (.write line [w]) = [.write line [w]] := by
    refine if_pos ?_
    have : line % 64 < 64 := Nat.mod_lt _ (by decide)
    exact Nat.one_le_iff_ne_zero.mpr (by dsimp only [MemReq.first]; omega)
  have classified : classify s (.write line [w]) = some i := by rw [classify, ready]; exact entry
  rw [treatRequest, kept, if_neg Bool.false_ne_true, whole]
  simp only [List.map_cons, List.map_nil, treatPart, classified, Option.map_some, treat]
  rw [kind]
  simp only [block, if_true]

/-! ## Cause-line reads (R164) -/

/-- The number whose bits say which bytes of a list are not 0. -/
def presentBits : List Byte → Nat
  | [] => 0
  | b :: bs => (if b ≠ 0 then 1 else 0) + 2 * presentBits bs

theorem presentBits_sum (l : List Byte) (k : Nat) :
    ((l.zipIdx k).map (fun b => if b.1 ≠ 0 then 2 ^ b.2 else 0)).sum = 2 ^ k * presentBits l := by
  induction l generalizing k with
  | nil => simp [presentBits]
  | cons b bs ih =>
    rw [List.zipIdx_cons, List.map_cons, List.sum_cons, ih (k + 1), presentBits]
    split <;> ring

theorem presentBits_testBit (l : List Byte) (i : Nat) : (presentBits l).testBit i = (l.getD i 0 != 0) := by
  induction l generalizing i with
  | nil => simp [presentBits]
  | cons b bs ih =>
    cases i with
    | zero =>
      rw [presentBits, Nat.testBit_zero, List.getD_cons_zero]
      split
      next nonzero => simpa using nonzero
      next zero => simpa using zero
    | succ i =>
      rw [presentBits, Nat.testBit_succ, List.getD_cons_succ, ← ih i]
      congr 1
      split <;> omega

/-- A cause line shows the causes whose bytes are not 0. -/
theorem causesOf_getLsbD (line : List Byte) {i : Nat} (h : i < 9) :
    (causesOf line).getLsbD i = (line.getD i 0 != 0) := by
  have sum := presentBits_sum (line.take 9) 0
  rw [pow_zero, one_mul] at sum
  rw [causesOf, sum, BitVec.getLsbD_ofNat, presentBits_testBit]
  simp [h, List.getD_eq_getElem?_getD]

/-- Of the causes set, those shown and not raised anew are cleared. -/
theorem cleared_getLsbD (causes seen : BitVec 9) (line : List Byte) {i : Nat} (h : i < 9) :
    (causes &&& ~~~(causesOf line &&& ~~~seen)).getLsbD i =
      (causes.getLsbD i && (line.getD i 0 == 0 || seen.getLsbD i)) := by
  simp only [BitVec.getLsbD_and, BitVec.getLsbD_not, h, decide_true, Bool.true_and, causesOf_getLsbD line h]
  have shown : (line.getD i 0 == 0) = !(line.getD i 0 != 0) := (Bool.not_not _).symm
  rw [shown]
  cases causes.getLsbD i <;> cases seen.getLsbD i <;> cases (line.getD i 0 != 0) <;> rfl

theorem setCauses_causes (c : CommandUnit) (v : BitVec 9) : (c.setCauses v).causes = v := by
  unfold CommandUnit.setCauses
  split
  · next same => exact same.symm
  · rfl

/-- A new cause set changes nothing else of CMD but the changes owed. -/
theorem setCauses_keeps (c : CommandUnit) (v : BitVec 9) : (c.setCauses v).reRaise = c.reRaise ∧
    (c.setCauses v).enables = c.enables ∧ (c.setCauses v).blocks = c.blocks := by
  unfold CommandUnit.setCauses
  split <;> exact ⟨rfl, rfl, rfl⟩

/-- The answer to a cause-line read: the record opened for it is discarded, and at OK the causes it showed are cleared
(R164). -/
theorem forwardedAnswered_cause {s : State} {n : Nat} {ok : Bool} {data : List (List Byte)} {rest : List Outstanding}
    {seen : BitVec 9} {more : List (BitVec 9)} (open' : s.cmd.reRaise = seen :: more) :
    (forwardedAnswered n true ok data rest s).cmd.reRaise = more ∧
    (forwardedAnswered n true ok data rest s).cmd.causes =
      (if ok then s.cmd.causes &&& ~~~(causesOf (data.headD []) &&& ~~~seen) else s.cmd.causes) ∧
    (forwardedAnswered n true ok data rest s).cmd.enables = s.cmd.enables ∧
    (forwardedAnswered n true ok data rest s).cmd.blocks = s.cmd.blocks ∧
    (forwardedAnswered n true ok data rest s).outside = { s with mi := { s.mi with
      outstanding := rest, answers := (forwardedAnswered n true ok data rest s).mi.answers } }.outside := by
  simp only [forwardedAnswered, if_true, causeRead, open']
  cases ok
  · exact ⟨rfl, rfl, rfl, rfl, rfl⟩
  · simp only [if_true]
    obtain ⟨records, enables, blocks⟩ := setCauses_keeps { s.cmd with reRaise := more }
      (s.cmd.causes &&& ~~~(causesOf (data.headD []) &&& ~~~seen))
    exact ⟨records, setCauses_causes _ _, enables, blocks, rfl⟩

theorem exec_forwardedResponse {s : State} {n : Nat} {cause ok : Bool} {data : List (List Byte)}
    {rest : List Outstanding} (oldest : s.mi.outstanding = .forwarded n cause :: rest)
    (formed : (ok && decide (0 < n) && !dataOk n data) = false) :
    exec (.forwardedResponse ok data) s = run (forwardedAnswered n cause ok data rest) s := by
  change execForwardedResponse ok data s = _
  rw [execForwardedResponse, oldest]
  dsimp only
  rw [formed, if_neg Bool.false_ne_true]

/-! ## Groups that wait (R90) -/

/-- A group without a write of a mirror line's leaves the stale lines as they are. -/
theorem freshen_other {c : CommandUnit} {g : Group}
    (h : ∀ r ∈ g.reqs, r.tag ≠ .summary ∧ r.tag ≠ .hopsLow ∧ r.tag ≠ .hopsHigh) : c.freshen g = c := by
  have lacks : ∀ t, (∀ r ∈ g.reqs, r.tag ≠ t) → g.has t = false := by
    intro t other
    simpa [Group.has] using other
  simp [CommandUnit.freshen, lacks .summary fun r m => (h r m).1, lacks .hopsLow fun r m => (h r m).2.1,
    lacks .hopsHigh fun r m => (h r m).2.2]

theorem map_fillMirror_other {s : State} {reqs : List OwnReq}
    (h : ∀ r ∈ reqs, r.tag ≠ .summary ∧ r.tag ≠ .hopsLow ∧ r.tag ≠ .hopsHigh) : reqs.map (fillMirror s) = reqs := by
  refine (List.map_congr_left fun r m => fillMirror_other s r ?_).trans (List.map_id _)
  obtain ⟨one, two, three⟩ := h r m
  obtain ⟨id, line, write, tag⟩ := r
  cases tag <;> first | rfl | contradiction

/-- A state stays one that owes no write as a group without a mirror line's write leaves those that wait. -/
theorem State.Settled.without {s : State} (h : s.Settled) {g : Group} {rest : List Group} (waiting : s.mi.waiting = g :: rest)
    (other : ∀ r ∈ g.reqs, r.tag ≠ .summary ∧ r.tag ≠ .hopsLow ∧ r.tag ≠ .hopsHigh) {t : State} (cmd : t.cmd = s.cmd)
    (left : t.mi.waiting = rest) : t.Settled := by
  obtain ⟨changes, lines⟩ := settled_iff.mp h
  have lacks : ∀ m : Mirror, g.has m.tag = false := by
    intro m
    rw [Group.has, List.any_eq_false]
    intro r mem
    obtain ⟨one, two, three⟩ := other r mem
    cases m <;> simpa [Mirror.tag]
  refine settled_iff.mpr ⟨by rw [cmd]; exact changes, fun m stale => ?_⟩
  rw [cmd] at stale ⊢
  obtain ⟨on, waits⟩ := lines m stale
  rw [waiting, List.any_cons, lacks m, Bool.false_or] at waits
  exact ⟨on, by rw [left]; exact waits⟩

/-- A group that sets nothing joins with nothing after it. -/
theorem afterJoin_same {before s : State} (h : s.isReady = before.isReady) : afterJoin before s = s := by
  unfold afterJoin
  rw [h]
  cases before.isReady <;> rfl

end Sys2Proof.Machine

open Sys2Proof Sys2Proof.Machine

/-- Settles O31: a well-formed request passes the three tests of REQUEST, and each other form fails one of them. -/
theorem requestIsQueued : Obligations.RequestIsQueued := by
  refine fun s r => ⟨fun formed released settled => ?_, fun bad => ?_, fun count lines out => ?_⟩
  · obtain ⟨⟨count, space⟩, lines⟩ : (r.countOk = true ∧ r.inSpace = true) ∧ r.linesOk = true := by
      simpa [MemReq.wellFormed] using formed
    have runs : exec (.request r) s = run (takeRequest r) s := by
      change execRequest r s = _
      simp [execRequest, count, space, lines]
    rw [runs]
    exact run_settled settled (if_neg released) rfl rfl
  · change execRequest r s = _
    rcases bad with bad | bad <;> simp [execRequest, bad]
  · change execRequest r s = _
    simp [execRequest, count, lines, out]

/-- Settles O37: the one part owed takes memory's answer, and so the request's response is given. -/
theorem readIsAnswered : Obligations.ReadIsAnswered := by
  intro s ok line rest settled oldest owed long
  have whole : dataOk 1 [line] = true := by simp [dataOk, long]
  rw [exec_forwardedResponse oldest (by rw [whole]; simp)]
  refine run_settled settled ?_ rfl rfl
  have answers : fillAnswer (.known ok [line]) [[.waiting]] = [[.known ok [line]]] := rfl
  have gives : ripe [[PartAnswer.known ok [line]]] = ([.response ok [line]], []) := by
    simp [ripe, Machine.answered, responseOf]
  simp only [forwardedAnswered, whole, if_true, Bool.false_eq_true, if_false, State.quiet_mi, owed, answers, deliver, gives]
  rfl

/-- Settles O38: the answer discards the read's record and at OK clears what it showed; CMD's writes change neither. -/
theorem causeReadClears : Obligations.CauseReadClears := by
  intro s line seen more rest oldest opened long
  have clears := fun ok data => forwardedAnswered_cause (s := s.quiet) (seen := seen) (more := more) (n := 1) (ok := ok) (data := data)
    (rest := rest) opened
  refine ⟨⟨_, exec_forwardedResponse oldest (by simp [dataOk, long]), ?_⟩,
    ⟨_, exec_forwardedResponse oldest (by simp), ?_⟩⟩
  · obtain ⟨records, causes, enables, blocks, frame⟩ := clears true [line]
    rw [flush_reRaise, flush_causes, flush_enables, flush_blocks, flush_outside, flush_answers]
    refine ⟨records, fun i h => ?_, enables, blocks, frame⟩
    refine (congrArg (·.getLsbD i) causes).trans ?_
    exact cleared_getLsbD s.cmd.causes seen line h
  · obtain ⟨records, causes, enables, blocks, frame⟩ := clears false []
    rw [flush_reRaise, flush_causes, flush_enables, flush_blocks, flush_outside, flush_answers]
    exact ⟨records, causes, enables, blocks, frame⟩

/-- Settles O39: the oldest group joins where it fits; it writes no mirror line, so nothing else changes. -/
theorem groupJoinsWhole : Obligations.GroupJoinsWhole := by
  intro s g rest waiting nothing other settled
  refine ⟨fun fits => ?joins, fun full => ?waits⟩
  case joins =>
    have event : ownGroupJoin s.quiet =
        { s with out := [], mi := { s.mi with own := s.mi.own ++ g.reqs, waiting := rest } } := by
      have room : s.quiet.hasRoom g = true := decide_eq_true fits
      unfold ownGroupJoin
      rw [State.quiet_mi, waiting]
      dsimp only
      rw [room, if_pos rfl, joinGroup, nothing]
      dsimp only
      refine (afterJoin_same rfl).trans ?_
      rw [pushGroup, freshen_other other, map_fillMirror_other other]
      rfl
    change Host.Outcome.next (flush (ownGroupJoin s.quiet)) = _
    rw [event, flush_settled (settled.without waiting other (t := { s with
      out := [], mi := { s.mi with own := s.mi.own ++ g.reqs, waiting := rest } }) rfl rfl)]
  case waits =>
    refine run_settled settled ?_ rfl rfl
    have room : s.quiet.hasRoom g = false := decide_eq_false (Nat.not_le.mpr full)
    unfold ownGroupJoin
    rw [State.quiet_mi, waiting]
    dsimp only
    rw [room, if_neg Bool.false_ne_true]
    rfl

/-- Settles O32: the read is one plain part, and the head is held on the own writes pending to its lines. -/
theorem plainRequestIsHeld : Obligations.PlainRequestIsHeld := by
  intro s line n rest starting none settled queue page
  have held : ∀ i, i ∈ heldOn s ⟨.read line n, Option.none⟩ ↔
      ∃ w ∈ s.pendingWrites, w.1 = i ∧ line ≤ w.2 ∧ w.2 < line + n := fun i => mem_heldOn
  have event : requestHead s.quiet = deliver (setHead [⟨.read line n, Option.none⟩] { s.quiet with
      mi := { s.mi with queue := rest, answers := s.mi.answers ++ [[.waiting]] } }) := by
    rw [requestHead_takes (s := s.quiet) none queue, becomeHead, treatRequest_plainRead (s := s.quiet) starting page]
    exact congrArg (fun u => deliver (setHead [⟨.read line n, Option.none⟩] u)) (flush_settled (settled.congr rfl rfl))
  exact ⟨_, heldOn s ⟨.read line n, Option.none⟩, run_settled settled event rfl rfl, rfl,
    fun w pending lines => (held w.1).mpr ⟨w, pending, rfl, lines⟩, fun i mem => (held i).mp mem, rfl, rfl, rfl, rfl⟩

/-- Settles O33: the write is one part, dropped by its entry; the violation is recorded and GUARD raised. -/
theorem guardedWriteIsDropped : Obligations.GuardedWriteIsDropped := by
  intro s line w rest i ready none owed queue enables enabled kind block low high first
  obtain ⟨u, violated⟩ : ∃ u, u = violate ⟨line, true, i, .blocked⟩
    { s.quiet with mi := { s.mi with queue := rest, answers := [[.known false []]] } } := ⟨_, rfl⟩
  have event : requestHead s.quiet = deliver (setHead [] (flush u)) := by
    have answers : s.mi.answers ++ [[PartAnswer.known false []]] = [[.known false []]] := by rw [owed]; rfl
    rw [requestHead_takes (s := s.quiet) none queue, becomeHead, treatRequest_guardedWrite (s := s.quiet) ready enables
      (entryOf_eq_some enabled low high first) kind block, violated, ← answers]
    rfl
  have comes : deliver (setHead [] (flush u)) = { flush u with
      out := [.response false []], mi := { (flush u).mi with head := Option.none, answers := [] } } := by
    have gives : ripe (flush u).mi.answers = ([.response false []], []) := by rw [flush_answers, violated]; rfl
    have silent : (flush u).out = [] := by rw [flush_out, violated]; rfl
    change { flush u with
      out := (flush u).out ++ (ripe (flush u).mi.answers).1
      mi := { (flush u).mi with head := Option.none, answers := (ripe (flush u).mi.answers).2 } } = _
    rw [gives, silent]
    rfl
  have runs : exec .requestHead s = .next { flush u with
      out := [.response false []], mi := { (flush u).mi with head := Option.none, answers := [] } } := by
    change Host.Outcome.next (flush (requestHead s.quiet)) = _
    rw [event, comes]
    exact congrArg Host.Outcome.next (flush_settled ((flush_settles u).congr rfl rfl))
  have frame : (flush u).outside = u.outside := flush_outside u
  have cause : (flush u).hasCause .guard := flush_hasCause (by rw [violated]; exact raise_hasCause _ _)
  have queued : (flush u).mi.queue = rest := (flush_queue u).trans (by rw [violated]; rfl)
  have count : (flush u).mi.violations = s.mi.violations + 1 := (flush_violations u).trans (by rw [violated]; rfl)
  have kept : (flush u).mi.violation = s.mi.violation.or (some ⟨line, true, i, .blocked⟩) :=
    (flush_violation u).trans (by rw [violated]; rfl)
  have outstanding : (flush u).mi.outstanding = s.mi.outstanding := (flush_outstanding u).trans (by rw [violated]; rfl)
  have windows : (flush u).mi.windows = s.mi.windows := (flush_mi_windows u).trans (by rw [violated]; rfl)
  refine ⟨_, runs, rfl, rfl, rfl, queued, count, kept, cause, outstanding, windows, ?_⟩
  have same : ({ s.mi with head := Option.none, answers := [] } : Interposer) = s.mi := by rw [← none, ← owed]
  refine (congrArg (fun v : State => { v with mi := { v.mi with head := Option.none, answers := [] } }) frame).trans ?_
  dsimp only
  rw [count, kept, ← same, violated]
  rfl

/-- Settles O34: of the two that present, the one without the last grant is granted. -/
theorem arbiterAlternates : Obligations.ArbiterAlternates := by
  intro s q r own settled head queue
  have presents : s.mi.presented = some (⟨q, none⟩, []) := by rw [Interposer.presented, head]
  refine ⟨fun last => run_settled settled ?_ rfl rfl, fun last => ⟨outstandingOf ⟨q, none⟩, run_settled settled ?_ rfl rfl⟩⟩
  · have event : memoryGrant s.quiet = grantOwn r own s.quiet := by
      unfold memoryGrant
      rw [State.quiet_mi, presents, queue]
      exact if_pos last
    rw [event]
    rfl
  · have event : memoryGrant s.quiet = grantForwarded ⟨q, none⟩ [] s.quiet := by
      unfold memoryGrant
      rw [State.quiet_mi, presents, queue]
      exact if_neg (by rw [last]; exact Bool.false_ne_true)
    have plain : grantPart ⟨q, none⟩ s.quiet = (s.quiet, q) := by cases q <;> rfl
    have opens : openRecord ⟨q, none⟩ s.quiet = s.quiet := by cases q <;> rfl
    rw [event, grantForwarded, plain]
    dsimp only
    rw [opens]
    exact congrArg (setHead []) (flush_settled (s := { s.quiet.emit (.memory q) with mi := { s.mi with
      outstanding := s.mi.outstanding ++ [outstandingOf ⟨q, none⟩], lastForwarded := true } }) (settled.congr rfl rfl))

/-- Settles O58: by the definition of the reset; what is put out cuts the lines in use. -/
theorem resetInputResets : Obligations.ResetInputResets := by
  refine fun s => ⟨resetInput s, rfl, rfl, fun o cut => ?_⟩
  obtain ⟨k, busy, rfl⟩ := List.mem_map.mp cut
  exact ⟨k, rfl, Option.isSome_iff_ne_none.mp (List.mem_filter.mp busy).2⟩
end

section
/-! Commands that complete as soon as they are applied: what their application leaves at CMD, and from that their taking
and their end (R159, R161). From these the statements BadCodeEndsAtOnce, TimeIsSet, TimingIsSet, NotifyIsSet,
ReadsReturnSnapshots, ExtremesAreCleared and SiteIsResynced. -/

namespace Sys2Proof.Machine

-- One proof at a time: each would otherwise hold a thread of its own.
set_option Elab.async false

/-! ## What states equal outside CMD and the queue agree on -/

section
variable {s t : State} (h : t.outside = s.outside)
include h

theorem outside_freeCount_eq : t.freeCount = s.freeCount := congrArg (·.freeCount) h
theorem outside_startUp_eq : t.startUp = s.startUp := congrArg (·.startUp) h
theorem outside_ownSite_eq : t.ownSite = s.ownSite := congrArg (·.ownSite) h
theorem outside_clock_eq : t.clock = s.clock := congrArg (·.clock) h
theorem outside_linkInput_eq : t.linkInput = s.linkInput := congrArg (·.linkInput) h
theorem outside_link_eq : t.link = s.link := congrArg (·.link) h
theorem outside_tu_eq : t.tu = s.tu := congrArg (·.tu) h
theorem outside_hops_eq : t.hops = s.hops := congrArg (·.hops) h
theorem outside_ports_eq : t.ports = s.ports := congrArg (·.ports) h
theorem outside_paths_eq : t.paths = s.paths := congrArg (·.paths) h
theorem outside_rs_eq : t.rs = s.rs := congrArg (·.rs) h
theorem outside_tx_eq : t.tx = s.tx := congrArg (·.tx) h
theorem outside_rx_eq : t.rx = s.rx := congrArg (·.rx) h
theorem outside_cu_eq : t.cu = s.cu := congrArg (·.cu) h
theorem outside_rmu_eq : t.rmu = s.rmu := congrArg (·.rmu) h
theorem outside_windows_eq : t.mi.windows = s.mi.windows := congrArg (·.mi.windows) h
theorem outside_violation_eq : t.mi.violation = s.mi.violation := congrArg (·.mi.violation) h

/-- With another record at the Time Unit. -/
theorem outside_tu (x : TimeUnit) : { t with tu := x }.outside = { s with tu := x }.outside :=
  congrArg (fun v : State => { v with tu := x }) h

end

/-! ## The state of a command's taking -/

@[simp] theorem State.taken_tu (s : State) (b : BlockNo) (rest : List BlockNo) : (s.taken b rest).tu = s.tu := rfl
@[simp] theorem State.taken_hops (s : State) (b : BlockNo) (rest : List BlockNo) : (s.taken b rest).hops = s.hops := rfl
@[simp] theorem State.taken_ports (s : State) (b : BlockNo) (rest : List BlockNo) : (s.taken b rest).ports = s.ports := rfl
@[simp] theorem State.taken_paths (s : State) (b : BlockNo) (rest : List BlockNo) : (s.taken b rest).paths = s.paths := rfl
@[simp] theorem State.taken_rs (s : State) (b : BlockNo) (rest : List BlockNo) : (s.taken b rest).rs = s.rs := rfl
@[simp] theorem State.taken_tx (s : State) (b : BlockNo) (rest : List BlockNo) : (s.taken b rest).tx = s.tx := rfl
@[simp] theorem State.taken_rx (s : State) (b : BlockNo) (rest : List BlockNo) : (s.taken b rest).rx = s.rx := rfl
@[simp] theorem State.taken_cu (s : State) (b : BlockNo) (rest : List BlockNo) : (s.taken b rest).cu = s.cu := rfl
@[simp] theorem State.taken_mi (s : State) (b : BlockNo) (rest : List BlockNo) : (s.taken b rest).mi = s.mi := rfl
@[simp] theorem State.taken_rmu (s : State) (b : BlockNo) (rest : List BlockNo) : (s.taken b rest).rmu = s.rmu := rfl
@[simp] theorem State.taken_link (s : State) (b : BlockNo) (rest : List BlockNo) : (s.taken b rest).link = s.link := rfl
@[simp] theorem State.taken_linkInput (s : State) (b : BlockNo) (rest : List BlockNo) : (s.taken b rest).linkInput = s.linkInput := rfl
@[simp] theorem State.taken_ownSite (s : State) (b : BlockNo) (rest : List BlockNo) : (s.taken b rest).ownSite = s.ownSite := rfl
@[simp] theorem State.taken_now (s : State) (b : BlockNo) (rest : List BlockNo) : (s.taken b rest).now = s.now := rfl
@[simp] theorem State.taken_startUp (s : State) (b : BlockNo) (rest : List BlockNo) : (s.taken b rest).startUp = s.startUp := rfl

/-! ## What applying a command leaves at CMD -/

/-- What an operation leaves at CMD that a command's end needs: the blocks, the commands pending and carried out, the
enable set, a save, the run number, the control page, the causes set and the own requests formed. -/
structure Commands (s t : State) : Prop where
  blocks : t.cmd.blocks = s.cmd.blocks
  pending : t.cmd.pending = s.cmd.pending
  exec : t.cmd.exec = s.cmd.exec
  enables : t.cmd.enables = s.cmd.enables
  save : t.cmd.save = s.cmd.save
  runNo : t.cmd.runNo = s.cmd.runNo
  page : t.mi.windows[14].base = s.mi.windows[14].base
  causes : ∀ c, s.hasCause c → t.hasCause c
  owes : ∀ l w g, s.owes l w g → t.owes l w g

namespace Commands

theorem refl (s : State) : Commands s s := ⟨rfl, rfl, rfl, rfl, rfl, rfl, rfl, fun _ => id, fun _ _ _ => id⟩

theorem trans {s t u : State} (h : Commands s t) (k : Commands t u) : Commands s u where
  blocks := k.blocks.trans h.blocks
  pending := k.pending.trans h.pending
  exec := k.exec.trans h.exec
  enables := k.enables.trans h.enables
  save := k.save.trans h.save
  runNo := k.runNo.trans h.runNo
  page := k.page.trans h.page
  causes := fun c e => k.causes c (h.causes c e)
  owes := fun l w g e => k.owes l w g (h.owes l w g e)

/-- An operation outside CMD, the own-request queue and the window table. -/
theorem of_cmd {s t : State} (cmd : t.cmd = s.cmd := by rfl) (own : t.mi.own = s.mi.own := by rfl)
    (waiting : t.mi.waiting = s.mi.waiting := by rfl)
    (page : t.mi.windows[14].base = s.mi.windows[14].base := by rfl) : Commands s t where
  blocks := by rw [cmd]
  pending := by rw [cmd]
  exec := by rw [cmd]
  enables := by rw [cmd]
  save := by rw [cmd]
  runNo := by rw [cmd]
  page := page
  causes := by intro c; unfold State.hasCause; rw [cmd]; exact id
  owes := by intro l w g; unfold State.owes; rw [own, waiting]; exact id

theorem overAll {α : Type} (l : List α) (f : α → State → State) (h : ∀ a s, Commands s (f a s)) (s : State) :
    Commands s (overAll l f s) :=
  overAll_induct (Commands s) l f (fun a _ u hu => hu.trans (h a u)) s (refl s)

end Commands

theorem raise_commands (c : Cause) (s : State) : Commands s (raise c s) := by
  obtain ⟨blocks, enables, pending, exec, runNo, save, -⟩ := raise_cmd c s
  exact ⟨blocks, pending, exec, enables, save, runNo, rfl, fun _ => raise_keeps, fun _ _ _ => id⟩

theorem markStale_commands (m : Mirror) (s : State) : Commands s (markStale m s) := by
  cases m <;> exact ⟨rfl, rfl, rfl, rfl, rfl, rfl, rfl, fun _ => id, fun _ _ _ => id⟩

theorem formGroup_commands (reqs : List (Nat × Option WLine × OwnTag)) (s : State) :
    Commands s (formGroup reqs .nothing s) := by
  have kept := formGroup_cmd reqs s
  refine ⟨fresh_blocks kept, fresh_pending kept, fresh_exec kept, fresh_enables kept, fresh_save kept, fresh_runNo kept,
    congrArg (·.mi.windows[14].base) (formGroup_outside reqs .nothing s (by decide)), fun c h => ?_,
    fun _ _ _ => formGroup_keeps_owes⟩
  unfold State.hasCause at h ⊢
  rwa [fresh_causes kept]

theorem changeTime_commands (f : TimeUnit → TimeUnit) (s : State) : Commands s (changeTime f s) := by
  unfold changeTime noteTimeState
  split
  · exact .of_cmd
  · exact (Commands.of_cmd).trans
      ((markStale_commands _ _).trans (raise_commands _ _))

theorem stepTime_commands (amount : Int) (s : State) : Commands s (stepTime amount s) :=
  (Commands.of_cmd).trans (raise_commands _ _)

/-! ## Taken and ended -/

section
variable {s u : State} {b : BlockNo} {rest : List BlockNo} {code : Nat} {p : List Byte}
  {apply : List Byte → State → Applied} {results : List (Nat × List Byte)}

/-- A command that is applied, ends and is written, on a state whose CMD is still that of its taking. -/
theorem Commands.taken_done (h : s.Takes b rest code p) (kept : Commands (s.taken b rest) u) (e : ErrorCode) :
    s.Done (flush (complete b e 0 results u)) b rest e results :=
  complete_done e results kept.blocks kept.pending (kept.exec.trans h.free) kept.enables kept.save kept.runNo kept.page
    kept.owes

/-- What is owed as a command ends stays owed as its end is written. -/
theorem ended_owes {e : ErrorCode} {l : Nat} {w : Option WLine} {g : OwnTag} (h : u.owes l w g) :
    (flush (complete b e 0 results u)).owes l w g := flush_keeps_owes (complete_keeps_owes h)

/-- Where applying a command raised no cause, its end raises none but COMMAND_DONE. -/
theorem ended_raisedNothing {e : ErrorCode} (same : u.cmd.causes = s.cmd.causes) :
    s.raisedNothing (flush (complete b e 0 results u)) := by
  have raised := flush_complete_raisedNothing b e 0 results u
  unfold State.raisedNothing at raised ⊢
  rwa [same] at raised

/-- A command that is applied without an error: it is Done, and nothing changes outside CMD and the queue but what
applying it changed. -/
theorem immediate_done (h : s.Takes b rest code p) (does : apply p (s.taken b rest) = (u, .none, results))
    (kept : Commands (s.taken b rest) u) :
    run (immediate code apply) s = .next (flush (complete b .none 0 results u)) ∧
    s.Done (flush (complete b .none 0 results u)) b rest .none results ∧
    (flush (complete b .none 0 results u)).outside = u.outside := by
  refine ⟨?_, kept.taken_done h .none, flush_complete_outside _ _ _ _ _⟩
  rw [immediate_takes h apply, does]

end

/-! ## A completion that joins at once (R161) -/

/-- Where CMD owes no write and the own-request queue has room, COMMAND_DONE is raised with a completion exactly when
the block asks to be notified. -/
theorem complete_raises {u : State} (b : BlockNo) (e : ErrorCode) (n : Nat) (results : List (Nat × List Byte))
    (settled : u.Settled) (none : u.mi.waiting = []) (room : u.mi.own.length < 32) :
    (complete b e n results u).cmd.causes =
      if notifies u.cmd.blocks[b].copy then u.cmd.causes ||| Cause.commandDone.bit else u.cmd.causes := by
  have joins : ∀ g : Group, g.reqs.length = 1 → (u.mi.waiting.isEmpty && u.hasRoom g) = true := by
    intro g one
    rw [none, State.hasRoom, one]
    exact Bool.and_eq_true_iff.mpr ⟨rfl, decide_eq_true (show u.mi.own.length + 1 ≤ 32 from room)⟩
  unfold complete
  dsimp only
  rw [flush_settled settled]
  unfold formGroup
  dsimp only
  rw [if_pos (by exact joins _ rfl)]
  split
  · exact (raise_cmd .commandDone _).2.2.2.2.2.2
  · rfl

/-- A command's taking leaves no write owed where none was. -/
theorem State.Settled.taken {s : State} (h : s.Settled) (b : BlockNo) (rest : List BlockNo) : (s.taken b rest).Settled :=
  ⟨h.changes, h.summary, h.low, h.high⟩

/-! ## The interrupt output (R165) -/

/-- The output is asserted exactly when the two sets share one of the nine causes. -/
theorem interrupt_iff {s : State} : s.interrupt = true ↔
    ∃ i : Nat, i < 9 ∧ s.cmd.causes.getLsbD i = true ∧ s.cmd.enables.getLsbD i = true := by
  have shares : s.interrupt = true ↔ s.cmd.causes &&& s.cmd.enables ≠ 0 := by simp [State.interrupt]
  rw [shares]
  constructor
  · intro nonzero
    by_contra none
    refine nonzero (BitVec.eq_of_getLsbD_eq fun i small => ?_)
    rw [BitVec.getLsbD_and, Bool.eq_false_iff.mpr fun both => none ⟨i, small, Bool.and_eq_true_iff.mp both⟩]
    simp
  · rintro ⟨i, small, cause, enable⟩ zero
    have bit := congrArg (·.getLsbD i) zero
    simp [cause, enable] at bit

/-! ## Station time and the holdover limit set (R11, R14) -/

theorem clampNat_eq (lo hi v : Nat) : clampNat lo hi v = min hi (max lo v) := rfl

/-- A holdover limit set changes the Time Unit alone, outside CMD. -/
theorem setHoldoverLimit_outside (n : Nat) (s : State) :
    (setHoldoverLimit n s).outside = { s with tu := (setHoldoverLimit n s).tu }.outside := by
  unfold setHoldoverLimit
  dsimp only
  split
  · split
    · rw [changeTime_outside, changeTime_tu]
    · rfl
  · rfl

theorem setHoldoverLimit_commands (n : Nat) (s : State) : Commands s (setHoldoverLimit n s) := by
  unfold setHoldoverLimit
  dsimp only
  split
  · split
    · exact (Commands.of_cmd).trans
        (changeTime_commands _ _)
    · exact .of_cmd
  · exact .of_cmd

/-- Out of HOLDOVER a limit set is the limit and no more. -/
theorem setHoldoverLimit_other {n : Nat} {s : State} (h : s.tu.state ≠ .holdover) :
    (setHoldoverLimit n s).tu = { s.tu with limit := n } := by
  unfold setHoldoverLimit
  dsimp only
  split
  · next holdover _ => exact absurd holdover h
  · rfl

/-- In HOLDOVER the expiry moves with the limit, or, once passed, is carried out. -/
theorem setHoldoverLimit_holdover {n start : Nat} {s : State} (h : s.tu.state = .holdover)
    (from' : s.tu.holdoverStart = some start) :
    setHoldoverLimit n s =
      if start + n * 1000000 < s.now then changeTime TimeUnit.endHoldover { s with tu := { s.tu with limit := n } }
      else { s with tu := { s.tu with limit := n, holdoverDue := some (start + n * 1000000) } } := by
  unfold setHoldoverLimit
  dsimp only
  rw [h, from']
  rfl

theorem setHoldoverLimit_limit (n : Nat) (s : State) : (setHoldoverLimit n s).tu.limit = n := by
  unfold setHoldoverLimit
  dsimp only
  split
  · split
    · rw [changeTime_tu]
      unfold TimeUnit.endHoldover
      split <;> rfl
    · rfl
  · rfl

/-! ## Hole timeouts set (R141) -/

/-- What an operation on one window of a site's leaves: all but CMD's causes, the own requests, the site's ring and that
window; and of the window its timeout. -/
structure Expires (site : Site) (cls : MsgClass) (s t : State) : Prop where
  commands : Commands s t
  outside : t.outside = { s with rmu := t.rmu }.outside
  others : ∀ r : Site, r ≠ site → t.rmu[r] = s.rmu[r]
  other : ∀ c, c ≠ cls → t.rmu[site].window c = s.rmu[site].window c
  timeout : (t.rmu[site].window cls).timeout = (s.rmu[site].window cls).timeout

namespace Expires

variable {site : Site} {cls : MsgClass}

theorem refl (s : State) : Expires site cls s s := ⟨.refl s, rfl, fun _ _ => rfl, fun _ _ => rfl, rfl⟩

theorem trans {s t u : State} (h : Expires site cls s t) (k : Expires site cls t u) : Expires site cls s u where
  commands := h.commands.trans k.commands
  outside := k.outside.trans (congrArg (fun v : State => { v with rmu := u.rmu }) h.outside)
  others := fun r apart => (k.others r apart).trans (h.others r apart)
  other := fun c apart => (k.other c apart).trans (h.other c apart)
  timeout := k.timeout.trans h.timeout

/-- A ring's records leave the windows. -/
theorem of_records {s t : State} (h : Records site s t) (kept : Commands s t) : Expires site cls s t where
  commands := kept
  outside := h.outside
  others := h.others
  other := by intro c _; cases c; exacts [h.urgent, h.bulk]
  timeout := by cases cls; exacts [congrArg (·.timeout) h.urgent, congrArg (·.timeout) h.bulk]

end Expires

theorem setWindow_window (cls : MsgClass) (f : RxWindow → RxWindow) (x : RxSite) :
    (x.setWindow cls f).window cls = f (x.window cls) := by cases cls <;> rfl

theorem setWindow_other {cls c : MsgClass} (f : RxWindow → RxWindow) (x : RxSite) (h : c ≠ cls) :
    (x.setWindow cls f).window c = x.window c := by cases cls <;> cases c <;> first | rfl | contradiction

/-- One window changed, and its timeout kept. -/
theorem updWindow_expires (site : Site) (cls : MsgClass) (f : RxWindow → RxWindow) (s : State)
    (kept : ∀ w, (f w).timeout = w.timeout) : Expires site cls s (s.updWindow site cls f) where
  commands := .of_cmd
  outside := rfl
  others := fun _ apart => updAt_other _ _ _ _ apart
  other := fun c apart => by
    have at' : (s.updWindow site cls f).rmu[site] = s.rmu[site].setWindow cls f := updAt_self _ _ _
    rw [at', setWindow_other _ _ apart]
  timeout := by
    have at' : (s.updWindow site cls f).rmu[site] = s.rmu[site].setWindow cls f := updAt_self _ _ _
    rw [at', setWindow_window, kept]

theorem writeSlot_commands (site : Site) (a b : List Byte) (s : State) : Commands s (writeSlot site a b s) := by
  unfold writeSlot
  dsimp only
  split
  · exact (Commands.of_cmd).trans (formGroup_commands _ _)
  · exact .refl s

theorem putRecord_commands (site : Site) (rec : RingRecord) (s : State) : Commands s (putRecord site rec s) := by
  unfold putRecord
  split
  · exact (writeSlot_commands _ _ _ _).trans (raise_commands _ _)
  · exact (Commands.of_cmd).trans
      (raise_commands _ _)

theorem reportRuns_expires (site : Site) (cls c : MsgClass) (cause : GapCause) (runs : List Run) (s : State) :
    Expires site cls s (reportRuns site c cause runs s) :=
  .of_records (reportRuns_records site c cause runs s) (.overAll _ _ (fun _ u => putRecord_commands site _ u) s)

theorem holeExpiry_expires (site : Site) (cls : MsgClass) (s : State) : Expires site cls s (holeExpiry site cls s) := by
  unfold holeExpiry
  dsimp only
  split
  · refine (updWindow_expires site cls _ s ?_).trans (reportRuns_expires _ _ _ _ _ _)
    exact fun _ => rfl
  · exact .refl s

theorem expireHoles_expires (n : Nat) (site : Site) (cls : MsgClass) (s : State) :
    Expires site cls s (expireHoles n site cls s) := by
  induction n generalizing s with
  | zero => exact .refl s
  | succ n ih =>
    unfold expireHoles
    split
    · exact (holeExpiry_expires site cls s).trans (ih _)
    · exact .refl s

/-- A hole timeout set: the window's timeout is the value clamped, and the other window, the other sites and all outside
RMU and CMD stand. -/
theorem setHoleTimeout_sets (site : Site) (cls : MsgClass) (us : Nat) (s : State) :
    Commands s (setHoleTimeout site cls us s) ∧
    (setHoleTimeout site cls us s).outside = { s with rmu := (setHoleTimeout site cls us s).rmu }.outside ∧
    (∀ r : Site, r ≠ site → (setHoleTimeout site cls us s).rmu[r] = s.rmu[r]) ∧
    (∀ c, c ≠ cls → (setHoleTimeout site cls us s).rmu[site].window c = s.rmu[site].window c) ∧
    ((setHoleTimeout site cls us s).rmu[site].window cls).timeout = min 100000 (max 100 us) := by
  have set' := updAt_self s.rmu site (RxSite.setWindow cls (fun w => ({ w with timeout := clampNat 100 100000 us }).retime))
  obtain ⟨commands, outside, others, other, timeout⟩ := expireHoles_expires 256 site cls
    (s.updWindow site cls (fun w => ({ w with timeout := clampNat 100 100000 us }).retime))
  refine ⟨(Commands.of_cmd).trans commands, outside, fun r apart => (others r apart).trans ?_,
    fun c apart => (other c apart).trans ?_, timeout.trans ?_⟩
  · exact updAt_other _ _ _ _ apart
  · exact (congrArg (fun x : RxSite => x.window c) set').trans (setWindow_other _ _ apart)
  · exact (congrArg (fun x : RxSite => (x.window cls).timeout) set').trans
      (congrArg (·.timeout) (setWindow_window cls _ _))

/-- Hole timeouts set for several sites, none twice: each has its two timeouts, and every other site stands. -/
theorem setHoleTimeouts_sets (l : List (Site × Nat)) (once : (l.map (·.1)).Nodup) (p : List Byte) (s : State) :
    let t := overAll l (fun x s => setHoleTimeout x.1 .bulk (field p (4 + 6 * x.2 + 3) 3)
      (setHoleTimeout x.1 .urgent (field p (4 + 6 * x.2) 3) s)) s
    Commands s t ∧ t.outside = { s with rmu := t.rmu }.outside ∧
    (∀ r : Site, r ∉ l.map (·.1) → t.rmu[r] = s.rmu[r]) ∧
    ∀ x ∈ l, t.rmu[x.1].urgent.timeout = min 100000 (max 100 (field p (4 + 6 * x.2) 3)) ∧
      t.rmu[x.1].bulk.timeout = min 100000 (max 100 (field p (4 + 6 * x.2 + 3) 3)) := by
  induction l generalizing s with
  | nil => exact ⟨.refl s, rfl, fun _ _ => rfl, nofun⟩
  | cons a l ih =>
    rw [List.map_cons, List.nodup_cons] at once
    obtain ⟨commands₁, outside₁, others₁, -, urgent⟩ := setHoleTimeout_sets a.1 .urgent (field p (4 + 6 * a.2) 3) s
    obtain ⟨commands₂, outside₂, others₂, other₂, bulk⟩ := setHoleTimeout_sets a.1 .bulk (field p (4 + 6 * a.2 + 3) 3)
      (setHoleTimeout a.1 .urgent (field p (4 + 6 * a.2) 3) s)
    obtain ⟨commands, outside, others, timeouts⟩ := ih once.2 (setHoleTimeout a.1 .bulk (field p (4 + 6 * a.2 + 3) 3)
      (setHoleTimeout a.1 .urgent (field p (4 + 6 * a.2) 3) s))
    refine ⟨commands₁.trans (commands₂.trans commands), ?_, fun r apart => ?_, fun x mem => ?_⟩
    · exact outside.trans ((outside_rmu outside₂ _).trans (outside_rmu outside₁ _))
    · rw [List.map_cons, List.mem_cons, not_or] at apart
      exact (others r apart.2).trans ((others₂ r apart.1).trans (others₁ r apart.1))
    · rcases List.mem_cons.mp mem with rfl | later
      · have kept := others x.1 once.1
        have urgentKept := other₂ .urgent nofun
        exact ⟨(congrArg (·.urgent.timeout) kept).trans ((congrArg (·.timeout) urgentKept).trans urgent),
          (congrArg (·.bulk.timeout) kept).trans bulk⟩
      · exact timeouts x later

/-! ## RESYNC_SITE (R155) -/

/-- A site with the windows a selector names emptied, and their classes' pending records removed (R155). -/
def RxSite.resynced (selector : Nat) (x : RxSite) : RxSite where
  urgent := if selector = 2 then x.urgent
    else { epoch := 0, prevEpoch := 0, top := none, map := [], holeDue := none, timeout := x.urgent.timeout }
  bulk := if selector = 1 then x.bulk
    else { epoch := 0, prevEpoch := 0, top := none, map := [], holeDue := none, timeout := x.bulk.timeout }
  ring := { x.ring with pending := x.ring.pending.filter (fun r =>
    match r.cls with
    | .urgent => selector == 2
    | .bulk => selector == 1) }

theorem resyncWindow_urgent (site : Site) (s : State) :
    (resyncWindow site .urgent s).rmu[site] = s.rmu[site].resynced 1 := by
  refine (updAt_self _ _ _).trans ?_
  have kept : (fun r : RingRecord => r.cls != .urgent) = fun r => match r.cls with
      | .urgent => 1 == 2
      | .bulk => 1 == 1 := by
    funext r
    cases r.cls <;> rfl
  dsimp only [RxSite.resynced]
  rw [← kept]
  rfl

theorem resyncWindow_bulk (site : Site) (s : State) :
    (resyncWindow site .bulk s).rmu[site] = s.rmu[site].resynced 2 := by
  refine (updAt_self _ _ _).trans ?_
  have kept : (fun r : RingRecord => r.cls != .bulk) = fun r => match r.cls with
      | .urgent => 2 == 2
      | .bulk => 2 == 1 := by
    funext r
    cases r.cls <;> rfl
  dsimp only [RxSite.resynced]
  rw [← kept]
  rfl

theorem resyncWindow_both (site : Site) (s : State) :
    (resyncWindow site .bulk (resyncWindow site .urgent s)).rmu[site] = s.rmu[site].resynced 3 := by
  rw [resyncWindow_bulk, resyncWindow_urgent]
  have kept : ∀ l : List RingRecord, (l.filter (fun r => match r.cls with
      | .urgent => 1 == 2
      | .bulk => 1 == 1)).filter (fun r => match r.cls with
      | .urgent => 2 == 2
      | .bulk => 2 == 1) = l.filter (fun r => match r.cls with
      | .urgent => 3 == 2
      | .bulk => 3 == 1) := by
    intro l
    rw [List.filter_filter]
    refine List.filter_congr fun r _ => ?_
    cases r.cls <;> rfl
  dsimp only [RxSite.resynced]
  rw [kept]
  rfl

end Sys2Proof.Machine

open Sys2Proof Sys2Proof.Machine

/-- Settles O41: the command is taken and refused at once; its completion raises what the notify flag asks. -/
theorem badCodeEndsAtOnce : Obligations.BadCodeEndsAtOnce := by
  intro s b rest code p takes bad
  have asked : (code == 0 || decide (commandCount < code)) = true := by
    rcases bad with zero | above
    · rw [zero]; rfl
    · rw [decide_eq_true (show commandCount < code from above), Bool.or_true]
  refine ⟨_, command_takes takes _ asked _, complete_refuses takes .badCommand, fun settled none room => ?_⟩
  have raises := complete_raises (u := s.taken b rest) b .badCommand 0 [] (settled.taken b rest) none room
  have copy : (s.taken b rest).cmd.blocks[b].copy = s.cmd.blocks[b].copy :=
    congrArg (·.copy) (updAt_self s.cmd.blocks b (fun x => { x with state := .executing }))
  rw [copy] at raises
  refine ⟨fun flag => ?_, fun flag => ?_⟩
  · unfold State.hasCause
    rw [flush_causes, raises, notifies, flag, if_pos rfl, BitVec.getLsbD_or]
    exact Bool.or_true _
  · rw [flush_causes, raises, notifies, flag, if_neg Bool.false_ne_true]
    rfl

/-- Settles O49: station time is stepped onto V, and the result is what it read before. -/
theorem timeIsSet : Obligations.TimeIsSet := by
  intro s b rest p takes
  have amount : (field p 0 8 : Int) - (s.tu.station.toNat : Int) = -((s.tu.station.toNat : Int) - (field p 0 8 : Int)) := by
    omega
  have onto : s.tu.station + BitVec.ofInt 64 ((field p 0 8 : Int) - (s.tu.station.toNat : Int)) =
      BitVec.ofNat 64 (field p 0 8) := by
    rw [amount]
    exact station_step_onto_second _ _
  obtain ⟨u, stepped⟩ : ∃ u, u = changeTime TimeUnit.commanded
    (stepTime ((field p 0 8 : Int) - (s.tu.station.toNat : Int)) (s.taken b rest)) := ⟨_, rfl⟩
  have does : setTime p (s.taken b rest) =
      (u, .none, [(16, p.take 8 ++ layout 40 [(0, leBytes 8 s.tu.station.toNat)])]) := by rw [stepped]; rfl
  have kept : Commands (s.taken b rest) u := by
    rw [stepped]; exact (stepTime_commands _ _).trans (changeTime_commands _ _)
  obtain ⟨runs, done, outside⟩ := immediate_done takes does kept
  have tu : u.tu = (s.tu.stepBy ((field p 0 8 : Int) - (s.tu.station.toNat : Int))).commanded := by
    rw [stepped, changeTime_tu, stepTime_tu]; rfl
  have paths : u.paths = s.paths.map (fun x => { x with outstanding := [] }) := by
    rw [stepped, changeTime_paths, stepTime_paths]; rfl
  have tx : u.tx = s.tx.map (fun x => { x with probeBack := none }) := by
    rw [stepped, changeTime_tx, stepTime_tx]; rfl
  have frame : u.outside = { s with tu := u.tu, paths := u.paths, tx := u.tx }.outside := by
    rw [tu, paths, tx, stepped, changeTime_outside, stepTime_tu]
    exact outside_tu (stepTime_outside _ (s.taken b rest)) _
  have cause : u.hasCause .timeChange := by rw [stepped]; exact changeTime_keeps (stepTime_raises _ _)
  have endTu := outside_tu_eq outside
  have endPaths := outside_paths_eq outside
  have endTx := outside_tx_eq outside
  refine ⟨_, runs, done, endTu.trans (tu.trans ?_),
    raisedNothing_hasCause (flush_complete_raisedNothing _ _ _ _ u) cause, fun q => ?_, fun k => ?_, ?_⟩
  · rw [TimeUnit.stepBy, onto]
    unfold TimeUnit.commanded
    dsimp only
    split
    · rfl
    · rfl
  · exact (congrArg (·[q]) (endPaths.trans paths)).trans (by simp)
  · exact (congrArg (·[k]) (endTx.trans tx)).trans (by simp)
  · refine outside.trans (frame.trans ?_)
    rw [endTu, endPaths, endTx]

/-- Settles O50: the limit is set, then each remote site's two timeouts; each clause reads one of the two. -/
theorem timingIsSet : Obligations.TimingIsSet := by
  intro s b rest p takes
  obtain ⟨h, limited⟩ : ∃ h, h = setHoldoverLimit (min 3600 (max 1 (field p 0 2))) (s.taken b rest) := ⟨_, rfl⟩
  have commands₁ : Commands (s.taken b rest) h := limited ▸ setHoldoverLimit_commands _ _
  have outside₁ : h.outside = { s with tu := h.tu }.outside := by rw [limited]; exact setHoldoverLimit_outside _ _
  have site : h.ownSite = s.ownSite := congrArg (·.ownSite) outside₁
  have rmu₁ : h.rmu = s.rmu := congrArg (·.rmu) outside₁
  obtain ⟨u, timed⟩ : ∃ u, u = setHoleTimeouts p h := ⟨_, rfl⟩
  have once : (h.remotes.zipIdx.map (·.1)).Nodup := by
    rw [List.zipIdx_map_fst]
    exact (List.nodup_finRange 8).filter _
  obtain ⟨commands₂, outside₂, others, timeouts⟩ := setHoleTimeouts_sets h.remotes.zipIdx once p h
  change Commands h (setHoleTimeouts p h) at commands₂
  change (setHoleTimeouts p h).outside = { h with rmu := (setHoleTimeouts p h).rmu }.outside at outside₂
  rw [← timed] at commands₂ outside₂
  have does : setTiming p (s.taken b rest) = (u, .none, []) := by rw [timed, limited]; rfl
  obtain ⟨runs, done, outside⟩ := immediate_done takes does (commands₁.trans commands₂)
  have tu : (flush (complete b .none 0 [] u)).tu = h.tu := (outside_tu_eq outside).trans (congrArg (·.tu) outside₂)
  have rmu : (flush (complete b .none 0 [] u)).rmu = u.rmu := outside_rmu_eq outside
  have own : s.ownSite ∉ h.remotes.zipIdx.map (·.1) := by
    rw [List.zipIdx_map_fst, State.remotes, site]
    simp
  refine ⟨_, runs, done, ?_⟩
  rw [tu, rmu]
  refine ⟨by rw [limited, setHoldoverLimit_limit], fun i r at' => ?_, ?_, fun away => ?_, fun start holdover from' => ?_, ?_⟩
  · have mem : (r, i) ∈ h.remotes.zipIdx := by
      rw [List.mem_zipIdx_iff_getElem?, State.remotes, site]
      exact at'
    rw [timed]
    exact timeouts (r, i) mem
  · rw [timed]
    exact (others s.ownSite own).trans (congrArg (·[s.ownSite]) rmu₁)
  · rw [limited, setHoldoverLimit_limit]
    exact setHoldoverLimit_other (s := s.taken b rest) away
  · have comes := setHoldoverLimit_holdover (n := min 3600 (max 1 (field p 0 2))) (s := s.taken b rest) holdover from'
    have limit : h.tu.limit = min 3600 (max 1 (field p 0 2)) := by rw [limited, setHoldoverLimit_limit]
    rw [limit]
    rw [State.taken_now] at comes
    refine ⟨fun later => ?_, fun passed => ?_⟩
    · rw [limited, comes, if_neg (Nat.not_lt.mpr later)]
      rfl
    · rw [if_pos passed] at comes
      have ends := endHoldover_holdover
        (t := { s.tu with limit := min 3600 (max 1 (field p 0 2)) }) holdover
      have record : h.tu = { s.tu with
          limit := min 3600 (max 1 (field p 0 2)), state := .free, holdoverStart := none, holdoverDue := none } := by
        rw [limited, comes, changeTime_tu]
        exact ends
      have cause : h.hasCause .timeChange := by
        rw [limited, comes]
        refine changeTime_raises ?_
        change (TimeUnit.endHoldover { s.tu with limit := _ }).state ≠ s.tu.state
        rw [ends, holdover]
        exact nofun
      refine ⟨by rw [record], by rw [record], by rw [record], ?_⟩
      exact raisedNothing_hasCause (flush_complete_raisedNothing _ _ _ _ u) (commands₂.causes _ cause)
  · exact outside.trans (outside₂.trans (outside_rmu outside₁ _))

/-- Settles O51: the enable set is replaced, and the command ends with it. -/
theorem notifyIsSet : Obligations.NotifyIsSet := by
  intro s b rest p takes
  obtain ⟨u, replaced⟩ : ∃ u : State, u = { s.taken b rest with cmd := { (s.taken b rest).cmd with
    enables := BitVec.ofNat 9 (field p 0 2) } } := ⟨_, rfl⟩
  have runs : exec .setNotify s = .next (flush (complete b .none 0 [] u)) :=
    immediate_applies (apply := setNotify) takes (by rw [replaced]; rfl)
  obtain ⟨-, enables, pending, free, runNo, save, -⟩ := complete_cmd b .none 0 [] u
  obtain ⟨⟨closing, error, count, others, write, kept⟩, -⟩ := complete_done
    (s := { s with cmd := { s.cmd with enables := BitVec.ofNat 9 (field p 0 2) } }) (u := u) (b := b) (rest := rest)
    .none [] (by rw [replaced]; rfl) (by rw [replaced]; rfl) (by rw [replaced]; exact takes.free) (by rw [replaced])
    (by rw [replaced]; rfl) (by rw [replaced]; rfl) (by rw [replaced]; rfl) (by rw [replaced]; exact fun _ _ _ => id)
  refine ⟨_, runs, ⟨closing, error, count, others, write, kept⟩, ?_, ?_, ended_raisedNothing (by rw [replaced]; rfl), ?_, ?_,
    fun i small => ?_, interrupt_iff, ?_⟩
  · rw [flush_pending, pending, replaced]; rfl
  · rw [flush_exec, free, replaced]; exact takes.free
  · rw [flush_save, save, replaced]; rfl
  · rw [flush_runNo, runNo, replaced]; rfl
  · rw [flush_enables, enables, replaced, BitVec.getLsbD_ofNat, decide_eq_true small, Bool.true_and]
  · rw [flush_complete_outside, replaced]; rfl

/-- Settles O52: each command's results are the snapshot of the state as it was taken, which CMD's part of it does not
show. -/
theorem readsReturnSnapshots : Obligations.ReadsReturnSnapshots := by
  refine fun s b rest p => ⟨fun q takes named => ?path, fun takes => ?hop, fun r takes named remote => ?route,
    fun k takes named => ?port, fun takes => ?time, fun takes => ?guard⟩
  case path =>
    have does : readPath p (s.taken b rest) = withResults p (pathSnapshot s (min 2 (byteAt p 1)) s.paths[q])
        (spendFree (s.taken b rest)) := by
      rw [readPath, indexOf_eq_some.mpr named]; rfl
    obtain ⟨runs, done, outside⟩ := immediate_done takes does .of_cmd
    exact ⟨_, runs, done, outside.trans (by rw [outside_freeCount_eq outside]; rfl)⟩
  case hop =>
    obtain ⟨runs, done, outside⟩ := immediate_done (apply := readHop) takes rfl .of_cmd
    exact ⟨_, runs, done, outside.trans (by rw [outside_freeCount_eq outside]; rfl)⟩
  case route =>
    have does : readRoute p (s.taken b rest) = withResults p (routeSnapshot s (min 2 (byteAt p 1)) s.rs.routes[r])
        (spendFree (s.taken b rest)) := by
      rw [readRoute, remoteSite_eq_some (s := s.taken b rest) |>.mpr ⟨named, remote⟩]; rfl
    obtain ⟨runs, done, outside⟩ := immediate_done takes does .of_cmd
    exact ⟨_, runs, done, outside.trans (by rw [outside_freeCount_eq outside]; rfl)⟩
  case port =>
    have does : readPort p (s.taken b rest) = withResults p (portSnapshot s (min 3 (byteAt p 1)) k)
        (spendFree (s.taken b rest)) := by
      rw [readPort, indexOf_eq_some.mpr named]; rfl
    obtain ⟨runs, done, outside⟩ := immediate_done takes does .of_cmd
    exact ⟨_, runs, done, outside.trans (by rw [outside_freeCount_eq outside]; rfl)⟩
  case time =>
    obtain ⟨runs, done, outside⟩ := immediate_done (apply := readTime) takes rfl .of_cmd
    exact ⟨_, runs, done, outside⟩
  case guard =>
    obtain ⟨runs, done, outside⟩ := immediate_done (apply := readGuard) takes rfl .of_cmd
    exact ⟨_, runs, done, outside_violation_eq outside,
      outside.trans (by rw [outside_freeCount_eq outside]; rfl)⟩

/-- Settles O53: only the hops of the range change, and of them the extremes. -/
theorem extremesAreCleared : Obligations.ExtremesAreCleared := by
  intro s b rest p takes
  obtain ⟨runs, done, outside⟩ := immediate_done (apply := fun p s =>
    applied (clearExtremes (min 95 (byteAt p 0)) (min 95 (byteAt p 1)) s)) takes rfl .of_cmd
  have hops := outside_hops_eq outside
  refine ⟨_, runs, done, ended_raisedNothing rfl, fun h => (congrArg (·[h]) hops).trans ?_,
    outside.trans (by rw [hops]; rfl)⟩
  exact Vector.getElem_mapFinIdx ..

/-- Settles O54: a bad site or selector is refused, and each selector names its windows. -/
theorem siteIsResynced : Obligations.SiteIsResynced := by
  refine fun s b rest p takes => ⟨fun bad => immediate_refuses (apply := resyncSite) takes ?refused,
    fun r named remote low high => ?resynced⟩
  case refused =>
    unfold resyncSite
    split
    · rfl
    · next r found =>
      obtain ⟨named, remote⟩ := remoteSite_eq_some.mp found
      have foreign : r.val ≠ s.ownSite.val := fun same => remote (Fin.ext same)
      have known : r.val < 8 := r.isLt
      rw [if_neg (by omega), if_neg (by omega), if_neg (by omega)]
  case resynced =>
    have found : remoteSite (s.taken b rest) (byteAt p 0) = some r := remoteSite_eq_some.mpr ⟨named, remote⟩
    obtain ⟨u, does, at', others, frame⟩ : ∃ u, resyncSite p (s.taken b rest) = applied u ∧
        u.rmu[r] = s.rmu[r].resynced (byteAt p 1) ∧ (∀ x : Site, x ≠ r → u.rmu[x] = s.rmu[x]) ∧
        Commands (s.taken b rest) u ∧ u.cmd.causes = s.cmd.causes ∧ u.outside = { s with rmu := u.rmu }.outside := by
      rw [resyncSite, found]
      dsimp only
      obtain one | two | three : byteAt p 1 = 1 ∨ byteAt p 1 = 2 ∨ byteAt p 1 = 3 := by omega
      · rw [if_pos one, one]
        exact ⟨_, rfl, resyncWindow_urgent r (s.taken b rest), fun _ apart => updAt_other _ _ _ _ apart, .of_cmd, rfl, rfl⟩
      · rw [if_neg (by omega), if_pos two, two]
        exact ⟨_, rfl, resyncWindow_bulk r (s.taken b rest), fun _ apart => updAt_other _ _ _ _ apart, .of_cmd, rfl, rfl⟩
      · rw [if_neg (by omega), if_neg (by omega), if_pos three, three]
        exact ⟨_, rfl, resyncWindow_both r (s.taken b rest), fun _ apart => (updAt_other _ _ _ _ apart).trans
          (updAt_other _ _ _ _ apart), .of_cmd, rfl, rfl⟩
    obtain ⟨kept, causes, frame⟩ := frame
    obtain ⟨runs, done, outside⟩ := immediate_done takes does kept
    have rmu := outside_rmu_eq outside
    refine ⟨_, runs, done, ended_raisedNothing causes, ?_, ?_, ?_, fun x apart => ?_, outside.trans ?_⟩
    · rw [rmu, at']; rfl
    · rw [rmu, at']; rfl
    · rw [rmu, at']; rfl
    · rw [rmu]; exact others x apart
    · rw [rmu]; exact frame
end

section
/-! SUPPORT. What the port transmitters do when a frame starts or is reported, said once for each operation. -/

namespace Sys2Proof.Machine

-- One proof at a time: each would otherwise hold a thread of its own.
set_option Elab.async false

/-! ## The reports of a record (R105 to R107) -/

/-- The state outside CMD, the own-request queue, the pins and the Capture Unit. -/
def State.outsideCapture (s : State) : State := { s.outside with cu := CaptureUnit.reset }

section
variable {s t : State} (h : t.outsideCapture = s.outsideCapture)
include h

theorem outsideCapture_outside : t.outside = { s with cu := t.cu }.outside :=
  congrArg (fun x : State => { x with cu := t.cu }) h

theorem outsideCapture_tx : t.tx = s.tx := congrArg (·.tx) h
theorem outsideCapture_paths : t.paths = s.paths := congrArg (·.paths) h
theorem outsideCapture_rs : t.rs = s.rs := congrArg (·.rs) h

end

theorem outsideCapture_of_outside {s t : State} (h : t.outside = s.outside) : t.outsideCapture = s.outsideCapture :=
  congrArg (fun x : State => { x with cu := CaptureUnit.reset }) h

@[simp] theorem updRecord_outsideCapture (hdr : Nat) (f : Record → Record) (s : State) :
    (s.updRecord hdr f).outsideCapture = s.outsideCapture := rfl

@[simp] theorem formGroup_outsideCapture (reqs : List (Nat × Option WLine × OwnTag)) (s : State) :
    (formGroup reqs .nothing s).outsideCapture = s.outsideCapture :=
  outsideCapture_of_outside (formGroup_outside reqs .nothing s (by decide))

@[simp] theorem closeIfSettled_outsideCapture (hdr : Nat) (s : State) :
    (closeIfSettled hdr s).outsideCapture = s.outsideCapture := by
  unfold closeIfSettled closeRecord
  split
  · split
    · exact formGroup_outsideCapture _ _
    · rfl
  · rfl

@[simp] theorem reportDest_outsideCapture (hdr : Nat) (site : Site) (f : Dest → Dest) (s : State) :
    (reportDest hdr site f s).outsideCapture = s.outsideCapture := by
  unfold reportDest
  split
  · split
    · rfl
    · exact closeIfSettled_outsideCapture _ _
  · rfl

@[simp] theorem reportStart_outsideCapture (m : Msg) (stamp : Stamp) (s : State) :
    (reportStart m stamp s).outsideCapture = s.outsideCapture := by
  unfold reportStart
  split
  · split
    · rfl
    · exact formGroup_outsideCapture _ _
  · rfl

@[simp] theorem testStarted_outside (k : PortNo) (run : Byte) (i : Nat) (s : State) :
    (testStarted k run i s).outside = s.outside := by
  unfold testStarted
  split
  · dsimp only
    split <;> rfl
  · rfl

/-- A record, whether or not its egress time has been written. -/
def Record.bare (r : Record) : Record := { r with egress := false }

/-- The open records, whether or not their egress times have been written. -/
def State.bareRecords (s : State) : List Record := s.cu.records.map Record.bare

theorem bareRecords_of_cu {s t : State} (h : t.cu = s.cu) : t.bareRecords = s.bareRecords := by
  unfold State.bareRecords
  rw [h]

theorem recordOf_bareRecords {s t : State} (h : t.bareRecords = s.bareRecords) {hdr : Nat} {r : Record}
    (open_ : s.recordOf hdr = some r) : ∃ r', t.recordOf hdr = some r' ∧ r'.bare = r.bare := by
  have bare : ∀ u : State, (u.recordOf hdr).map Record.bare = u.bareRecords.find? (fun r => r.hdr == hdr) := by
    intro u
    unfold State.recordOf State.bareRecords
    rw [List.find?_map]
    rfl
  have same := (bare t).trans (h ▸ (bare s).symm)
  rw [open_, Option.map_some, Option.map_eq_some_iff] at same
  exact same

@[simp] theorem reportStart_bareRecords (m : Msg) (stamp : Stamp) (s : State) :
    (reportStart m stamp s).bareRecords = s.bareRecords := by
  unfold reportStart
  split
  · split
    · rfl
    · unfold State.bareRecords
      rw [formGroup_cu]
      simp only [State.updRecord, List.map_map]
      refine List.map_congr_left fun r _ => ?_
      simp only [Function.comp_apply]
      split <;> rfl
  · rfl

@[simp] theorem testStarted_cu (k : PortNo) (run : Byte) (i : Nat) (s : State) : (testStarted k run i s).cu = s.cu :=
  outside_cu_eq (testStarted_outside k run i s)

/-! ## A start (R117, R121) -/

/-- The state outside CMD, the own-request queue, the pins, the Capture Unit, the transmitters and the paths. -/
def State.outsideLine (s : State) : State :=
  { s.outsideCapture with tx := Vector.replicate 6 Transmitter.reset, paths := Vector.replicate 16 PathRec.reset }

section
variable {s t : State} (h : t.outsideLine = s.outsideLine)
include h

theorem outsideLine_outside : t.outside = { s with tx := t.tx, cu := t.cu, paths := t.paths }.outside :=
  congrArg (fun x : State => { x with tx := t.tx, cu := t.cu, paths := t.paths }) h

theorem outsideLine_rs : t.rs = s.rs := congrArg (·.rs) h

end

theorem outsideLine_of_capture {s t : State} (h : t.outsideCapture = s.outsideCapture) :
    t.outsideLine = s.outsideLine :=
  congrArg (fun x : State =>
    { x with tx := Vector.replicate 6 Transmitter.reset, paths := Vector.replicate 16 PathRec.reset }) h

/-- A port's transmitter as an item starts on its line. -/
def Transmitter.started (item : LineItem) (stamp : Stamp) (t : Transmitter) : Transmitter :=
  { t with
    line := some (item, stamp)
    holdoffDue := none
    state := match item with | .frag .. => .bulk | _ => .urgent
    counters := match item with
      | .frag .. => { t.counters with fragments := t.counters.fragments + 1 }
      | _ => t.counters }

/-- The start reaches the pins and the transmitter; what it reports follows. -/
def begun (k : PortNo) (item : LineItem) (s : State) : State :=
  (s.emit (.frame k (item.frame s).encode)).updTx k (Transmitter.started item s.tu.station)

theorem startItem_probe (k : PortNo) (p : PathNo) (id : Byte) (s : State) : startItem k (.probe p id) s =
    (begun k (.probe p id) s).updPath p (PathRec.probeStarted id s.tu.station s.now) := rfl

theorem startItem_probeBack (k : PortNo) (dst : Site) (id : Byte) (t2 : Stamp) (s : State) :
    startItem k (.probeBack dst id t2) s = begun k (.probeBack dst id t2) s := rfl

/-- An item that is no probe reports to the Capture Unit and the loopback test alone. -/
theorem startItem_reports {k : PortNo} {item : LineItem} (other : ∀ p id, item ≠ .probe p id) (s : State) :
    (startItem k item s).outsideCapture = (begun k item s).outsideCapture ∧
    (startItem k item s).bareRecords = (begun k item s).bareRecords := by
  cases item with
  | probeBack dst id t2 => exact ⟨rfl, rfl⟩
  | probe p id => exact absurd rfl (other p id)
  | msg m => exact ⟨reportStart_outsideCapture _ _ (begun k (.msg m) s), reportStart_bareRecords _ _ (begun k (.msg m) s)⟩
  | test run i =>
    exact ⟨outsideCapture_of_outside (testStarted_outside _ _ _ (begun k (.test run i) s)),
      bareRecords_of_cu (testStarted_cu _ _ _ (begun k (.test run i) s))⟩
  | frag f id i abandoned =>
    exact ⟨overAll_keeps State.outsideCapture _ _ (fun m u => reportStart_outsideCapture m _ u) (begun k (.frag f id i abandoned) s),
      overAll_keeps State.bareRecords _ _ (fun m u => reportStart_bareRecords m _ u) (begun k (.frag f id i abandoned) s)⟩

@[simp] theorem startItem_tx (k : PortNo) (item : LineItem) (s : State) :
    (startItem k item s).tx = updAt s.tx k (Transmitter.started item s.tu.station) := by
  by_cases h : ∃ p id, item = .probe p id
  · obtain ⟨p, id, rfl⟩ := h
    rfl
  · exact outsideCapture_tx (startItem_reports (fun p id e => h ⟨p, id, e⟩) s).1

@[simp] theorem startItem_outsideLine (k : PortNo) (item : LineItem) (s : State) :
    (startItem k item s).outsideLine = s.outsideLine := by
  by_cases h : ∃ p id, item = .probe p id
  · obtain ⟨p, id, rfl⟩ := h
    rfl
  · exact (outsideLine_of_capture (startItem_reports (fun p id e => h ⟨p, id, e⟩) s).1).trans rfl

@[simp] theorem startItem_bareRecords (k : PortNo) (item : LineItem) (s : State) :
    (startItem k item s).bareRecords = s.bareRecords := by
  by_cases h : ∃ p id, item = .probe p id
  · obtain ⟨p, id, rfl⟩ := h
    rfl
  · exact (startItem_reports (fun p id e => h ⟨p, id, e⟩) s).2

theorem startItem_paths {k : PortNo} {item : LineItem} (other : ∀ p id, item ≠ .probe p id) (s : State) :
    (startItem k item s).paths = s.paths := (outsideCapture_paths (startItem_reports other s).1).trans rfl

theorem updAt_updAt {α : Type} {n : Nat} (v : Vector α n) (i : Fin n) (f g : α → α) :
    updAt (updAt v i f) i g = updAt v i (g ∘ f) := by
  refine Vector.ext fun j hj => ?_
  have get := fun (w : Vector α n) (f : α → α) => updAt_get w i ⟨j, hj⟩ f
  dsimp only at get
  rw [get, get, get, updAt_self]
  split <;> rfl

theorem updTx_updTx (k : PortNo) (f g : Transmitter → Transmitter) (s : State) :
    (s.updTx k f).updTx k g = s.updTx k (g ∘ f) := by
  unfold State.updTx
  rw [← updAt_updAt]

/-! ## The choice of what to send (R116, R119) -/

theorem lineFree_iff {k : PortNo} {s : State} : lineFree k s = true ↔ s.link[k] = true ∧ s.tx[k].line = none := by
  simp [lineFree]

/-- The frame of the urgent queue as an item on the line. -/
def UFrame.item : UFrame → LineItem
  | .msg m => .msg m
  | .test run i => .test run i

section
variable {k : PortNo} {s : State} (free : lineFree k s = true)
include free

theorem lineChoice_probeBack {b : ProbeBack} (waits : s.tx[k].probeBack = some b) : lineChoice k s =
    startItem k (.probeBack b.dst b.id b.t2) (s.updTx k (fun t => { t with probeBack := none })) := by
  unfold lineChoice
  simp only [free, Bool.not_true, Bool.false_eq_true, if_false, waits]

theorem lineChoice_probe {p : PathNo} {id : Byte} (back : s.tx[k].probeBack = none)
    (waits : s.tx[k].probe = some (p, id)) :
    lineChoice k s = startItem k (.probe p id) (s.updTx k (fun t => { t with probe := none })) := by
  unfold lineChoice
  simp only [free, Bool.not_true, Bool.false_eq_true, if_false, back, waits]

theorem lineChoice_urgent {u : UFrame} {rest : List UFrame} (back : s.tx[k].probeBack = none)
    (probe : s.tx[k].probe = none) (waits : s.tx[k].urgent = u :: rest) :
    lineChoice k s = startItem k u.item (s.updTx k (fun t => { t with urgent := rest })) := by
  unfold lineChoice
  simp only [free, Bool.not_true, Bool.false_eq_true, if_false, back, probe, waits]
  cases u <;> rfl

theorem lineChoice_idle (none_ : ¬ s.tx[k].hasWaiting) (bulk : s.tx[k].bulk = []) (ctx : s.tx[k].ctx = none) :
    lineChoice k s = s.updTx k (fun t => { t with state := .idle, holdoffDue := none }) := by
  rw [← Transmitter.waits_iff] at none_
  simp only [Transmitter.waits, Bool.or_eq_true, not_or, Bool.not_eq_true, Option.isSome_eq_false_iff,
    Option.isNone_iff_eq_none, Bool.not_eq_false', List.isEmpty_iff] at none_
  obtain ⟨⟨back, probe⟩, urgent⟩ := none_
  unfold lineChoice
  simp only [free, Bool.not_true, Bool.false_eq_true, if_false, back, probe, urgent, ctx, bulk]

end

theorem startFragment_eq (k : PortNo) (c : BulkContext) (s : State) : startFragment k c s =
    startItem k (.frag c.frame c.id c.next false)
      (s.updTx k (fun t => { t with ctx := some { c with next := c.next + 1, since := none } })) := rfl

theorem startBulk_eq (k : PortNo) (f : BulkFrame) (s : State) : startBulk k f s =
    startItem k (.frag f s.tx[k].bulkId 0 false) (s.updTx k (fun t =>
      { t with bulk := t.bulk.drop 1, bulkId := t.bulkId + 1, ctx := some ⟨f, s.tx[k].bulkId, 1, 0, none⟩ })) :=
  (startFragment_eq k _ _).trans (congrArg (startItem k _) (updTx_updTx k _ _ s))

/-- A transmitter's codes, of the holdoff and of the suspend ceiling. -/
def Transmitter.codes (t : Transmitter) : Nat × Nat := (t.holdoffCode, t.ceilingCode)

/-- All that the choice can do: nothing, a change of the transmitter alone, or a start, a probe's only where it waited;
no probe comes to wait, and the transmitter's codes and counters stand but for a start's count. -/
theorem lineChoice_cases (k : PortNo) (s : State) :
    lineChoice k s = s ∨ ∃ f : Transmitter → Transmitter,
      (lineChoice k s = s.updTx k f ∨ ∃ item, lineChoice k s = startItem k item (s.updTx k f) ∧
        ∀ p id, item = .probe p id → s.tx[k].probe = some (p, id)) ∧
      ∀ t, ((f t).probe = t.probe ∨ (f t).probe = none) ∧ (f t).codes = t.codes ∧ (f t).counters = t.counters := by
  unfold lineChoice
  split
  · exact .inl rfl
  · dsimp only
    split
    · exact .inr ⟨_, .inr ⟨_, rfl, fun _ _ e => nomatch e⟩, fun _ => ⟨.inl rfl, rfl, rfl⟩⟩
    · next p id _ probe =>
      refine .inr ⟨_, .inr ⟨_, rfl, fun q i e => ?_⟩, fun _ => ⟨.inr rfl, rfl, rfl⟩⟩
      cases e
      exact probe
    · exact .inr ⟨_, .inr ⟨_, rfl, fun _ _ e => nomatch e⟩, fun _ => ⟨.inl rfl, rfl, rfl⟩⟩
    · exact .inr ⟨_, .inr ⟨_, rfl, fun _ _ e => nomatch e⟩, fun _ => ⟨.inl rfl, rfl, rfl⟩⟩
    · split
      · split
        · unfold holdoffOrResume
          split
          · exact .inr ⟨_, .inr ⟨_, startFragment_eq k _ s, fun _ _ e => nomatch e⟩, fun _ => ⟨.inl rfl, rfl, rfl⟩⟩
          · split
            · exact .inl rfl
            · exact .inr ⟨_, .inl rfl, fun _ => ⟨.inl rfl, rfl, rfl⟩⟩
        · exact .inr ⟨_, .inr ⟨_, startFragment_eq k _ s, fun _ _ e => nomatch e⟩, fun _ => ⟨.inl rfl, rfl, rfl⟩⟩
      · exact .inr ⟨_, .inr ⟨_, startBulk_eq k _ s, fun _ _ e => nomatch e⟩, fun _ => ⟨.inl rfl, rfl, rfl⟩⟩
      · exact .inr ⟨_, .inl rfl, fun _ => ⟨.inl rfl, rfl, rfl⟩⟩

/-- A path's record apart from its outstanding probes and its counters. -/
def PathRec.bare (x : PathRec) : PathRec := { x with outstanding := [], counters := ⟨0, 0, 0, 0, 0, 0, 0, 0, 0⟩ }

theorem bare_state {x y : PathRec} (h : x.bare = y.bare) : x.state = y.state := congrArg (·.state) h
theorem bare_port {x y : PathRec} (h : x.bare = y.bare) : x.port = y.port := congrArg (·.port) h
theorem bare_fast {x y : PathRec} (h : x.bare = y.bare) : x.fast = y.fast := congrArg (·.fast) h
theorem bare_drop {x y : PathRec} (h : x.bare = y.bare) : x.drop = y.drop := congrArg (·.drop) h

theorem updPath_bare {p : PathNo} {f : PathRec → PathRec} (each : ∀ x, (f x).bare = x.bare) (s : State) (q : PathNo) :
    (s.updPath p f).paths[q].bare = s.paths[q].bare := by
  rw [State.updPath_paths, Fin.getElem_fin, updAt_get]
  split
  · next h => rw [each, h]; rfl
  · rfl

@[simp] theorem lineChoice_outsideLine (k : PortNo) (s : State) : (lineChoice k s).outsideLine = s.outsideLine := by
  rcases lineChoice_cases k s with h | ⟨f, h | ⟨item, h, -⟩, -⟩ <;> rw [h]
  · rfl
  · exact startItem_outsideLine k item _

@[simp] theorem lineChoice_bareRecords (k : PortNo) (s : State) : (lineChoice k s).bareRecords = s.bareRecords := by
  rcases lineChoice_cases k s with h | ⟨f, h | ⟨item, h, -⟩, -⟩ <;> rw [h]
  · rfl
  · exact startItem_bareRecords k item _

theorem lineChoice_tx {k j : PortNo} (other : j ≠ k) (s : State) : (lineChoice k s).tx[j] = s.tx[j] := by
  rcases lineChoice_cases k s with h | ⟨f, h | ⟨item, h, -⟩, -⟩ <;> rw [h]
  · exact updAt_other _ _ _ _ other
  · rw [startItem_tx]
    exact (updAt_other _ _ _ _ other).trans (updAt_other _ _ _ _ other)

theorem lineChoice_probe_waits (k : PortNo) (s : State) :
    (lineChoice k s).tx[k].probe = s.tx[k].probe ∨ (lineChoice k s).tx[k].probe = none := by
  rcases lineChoice_cases k s with h | ⟨f, h | ⟨item, h, -⟩, keeps⟩ <;> rw [h]
  · exact .inl rfl
  · rw [State.updTx_tx, Fin.getElem_fin, updAt_self]
    exact (keeps _).1
  · rw [startItem_tx, State.updTx_tx, Fin.getElem_fin, updAt_self, updAt_self]
    exact (keeps _).1

/-- The codes of every transmitter. -/
def State.codes (s : State) : Vector (Nat × Nat) 6 := s.tx.map Transmitter.codes

theorem updTx_codes {k : PortNo} {f : Transmitter → Transmitter} (each : ∀ t, (f t).codes = t.codes) (s : State) :
    (s.updTx k f).codes = s.codes := by
  unfold State.codes
  refine Vector.ext fun j hj => ?_
  rw [Vector.getElem_map, Vector.getElem_map]
  have get := updAt_get s.tx k ⟨j, hj⟩ f
  dsimp only at get
  rw [State.updTx_tx, get]
  split
  · next h =>
    rw [each]
    subst h
    rfl
  · rfl

theorem codes_of_tx {s t : State} (h : t.tx = s.tx) : t.codes = s.codes := by
  unfold State.codes
  rw [h]

theorem startItem_codes (k : PortNo) (item : LineItem) (s : State) : (startItem k item s).codes = s.codes := by
  refine (codes_of_tx (s := s.updTx k (Transmitter.started item s.tu.station)) (startItem_tx k item s)).trans ?_
  exact updTx_codes (f := Transmitter.started item s.tu.station) (fun _ => rfl) s

@[simp] theorem lineChoice_codes (k : PortNo) (s : State) : (lineChoice k s).codes = s.codes := by
  rcases lineChoice_cases k s with h | ⟨f, h | ⟨item, h, -⟩, keeps⟩ <;> rw [h]
  · exact updTx_codes (fun t => (keeps t).2.1) s
  · rw [startItem_codes]
    exact updTx_codes (fun t => (keeps t).2.1) s

/-- The choice of what to send counts no frame as sent. -/
theorem lineChoice_counters (k : PortNo) (s : State) :
    (lineChoice k s).tx[k].counters.urgentSent = s.tx[k].counters.urgentSent ∧
    (lineChoice k s).tx[k].counters.bulkSent = s.tx[k].counters.bulkSent := by
  have started : ∀ (item : LineItem) (stamp : Stamp) (t : Transmitter),
      (t.started item stamp).counters.urgentSent = t.counters.urgentSent ∧
      (t.started item stamp).counters.bulkSent = t.counters.bulkSent := by
    intro item stamp t
    cases item <;> exact ⟨rfl, rfl⟩
  rcases lineChoice_cases k s with h | ⟨f, h | ⟨item, h, -⟩, keeps⟩ <;> rw [h]
  · exact ⟨rfl, rfl⟩
  · rw [State.updTx_tx, Fin.getElem_fin, updAt_self, (keeps _).2.2]
    exact ⟨rfl, rfl⟩
  · rw [startItem_tx, State.updTx_tx, Fin.getElem_fin, updAt_self, updAt_self]
    obtain ⟨urgent, bulk⟩ := started item s.tu.station (f s.tx[(k : Nat)])
    rw [(keeps _).2.2] at urgent bulk
    exact ⟨urgent, bulk⟩

/-- A path is touched only by the start of a probe of its own that waited. -/
theorem lineChoice_path {k : PortNo} {q : PathNo} {s : State} (other : ∀ id, s.tx[k].probe ≠ some (q, id)) :
    (lineChoice k s).paths[q] = s.paths[q] := by
  rcases lineChoice_cases k s with h | ⟨f, h | ⟨item, h, waits⟩, -⟩ <;> rw [h]
  · rfl
  · by_cases probe : ∃ p id, item = .probe p id
    · obtain ⟨p, id, rfl⟩ := probe
      rw [startItem_probe]
      refine updAt_other _ _ _ _ fun e => other id ?_
      rw [waits p id rfl, e]
    · rw [startItem_paths fun p id e => probe ⟨p, id, e⟩]
      rfl

theorem probeStarted_bare (id : Byte) (t1 : Stamp) (now : Nat) (x : PathRec) : (x.probeStarted id t1 now).bare = x.bare :=
  rfl

theorem lineChoice_paths (k : PortNo) (q : PathNo) (s : State) : (lineChoice k s).paths[q].bare = s.paths[q].bare := by
  rcases lineChoice_cases k s with h | ⟨f, h | ⟨item, h, -⟩, -⟩ <;> rw [h]
  · rfl
  · by_cases probe : ∃ p id, item = .probe p id
    · obtain ⟨p, id, rfl⟩ := probe
      rw [startItem_probe]
      exact updPath_bare (probeStarted_bare _ _ _) _ q
    · rw [startItem_paths fun p id e => probe ⟨p, id, e⟩]
      rfl

/-! ## A probe placed (R48) -/

/-- The paths after a probe has been placed and before the line is chosen for. -/
def probesPlaced (p : PathNo) (waiting : Option PathNo) (paths : Vector PathRec 16) : Vector PathRec 16 :=
  let given := updAt paths p (fun x => { x with nextId := x.nextId + 1 })
  match waiting with
  | some q => updAt given q (fun x => { x with counters := { x.counters with replaced := x.counters.replaced + 1 } })
  | none => given

theorem placeProbe_eq (p : PathNo) (s : State) : placeProbe p s = lineChoice s.paths[p].port
    ({ s with paths := probesPlaced p (s.tx[s.paths[p].port].probe.map Prod.fst) s.paths }.updTx s.paths[p].port
      (fun t => { t with probe := some (p, s.paths[p].nextId) })) := by
  unfold placeProbe
  dsimp only
  rw [State.updPath_tx]
  cases s.tx[s.paths[p].port].probe with
  | none => rfl
  | some w => rfl

theorem probesPlaced_get (p q : PathNo) (waiting : Option PathNo) (paths : Vector PathRec 16) :
    (probesPlaced p waiting paths)[q] = { paths[q] with
      nextId := if q = p then paths[q].nextId + 1 else paths[q].nextId
      counters := { paths[q].counters with
        replaced := paths[q].counters.replaced + if waiting = some q then 1 else 0 } } := by
  have given : (updAt paths p (fun x => { x with nextId := x.nextId + 1 }))[(q : Nat)] =
      { paths[q] with nextId := if q = p then paths[q].nextId + 1 else paths[q].nextId } := by
    rw [updAt_get]
    by_cases h : q = p
    · subst h
      simp
    · simp [h]
  unfold probesPlaced
  cases waiting with
  | none => simpa using given
  | some w =>
    simp only [Option.some.injEq, Fin.getElem_fin]
    rw [updAt_get]
    by_cases h : q = w
    · subst h
      rw [if_pos rfl, given]
      simp
    · rw [if_neg h, given, if_neg (Ne.symm h)]
      simp

end Sys2Proof.Machine
end

section
/-! SUPPORT. The statements about a holdoff's end, the probe timers and the hops. -/

namespace Sys2Proof.Machine

-- One proof at a time: each would otherwise hold a thread of its own.
set_option Elab.async false

theorem updTx_self (k : PortNo) (f : Transmitter → Transmitter) (s : State) : (s.updTx k f).tx[k] = f s.tx[k] :=
  updAt_self _ _ _

theorem updTx_other {k j : PortNo} (h : j ≠ k) (f : Transmitter → Transmitter) (s : State) :
    (s.updTx k f).tx[j] = s.tx[j] := updAt_other _ _ _ _ h

theorem updPath_self (p : PathNo) (f : PathRec → PathRec) (s : State) : (s.updPath p f).paths[p] = f s.paths[p] :=
  updAt_self _ _ _

theorem updPath_other {p q : PathNo} (h : q ≠ p) (f : PathRec → PathRec) (s : State) :
    (s.updPath p f).paths[q] = s.paths[q] := updAt_other _ _ _ _ h

theorem updPath_congr {p : PathNo} {f g : PathRec → PathRec} {s : State} (same : f s.paths[p] = g s.paths[p]) :
    s.updPath p f = s.updPath p g := by
  unfold State.updPath
  rw [updAt_congr same]

/-- The transmitter once an item, taken from where it waited, has started. -/
theorem startItem_self (k : PortNo) (item : LineItem) (f : Transmitter → Transmitter) (s : State) :
    (startItem k item (s.updTx k f)).tx[k] = (f s.tx[k]).started item s.tu.station := by
  rw [startItem_tx, State.updTx_tx, updAt_updAt]
  exact updAt_self _ _ _

/-! ## The next fragment -/

theorem startFragment_tx (k : PortNo) (c : BulkContext) (s : State) : (startFragment k c s).tx = updAt s.tx k (fun t =>
    { t with
      line := some (.frag c.frame c.id c.next false, s.tu.station), state := .bulk, holdoffDue := none
      ctx := some { c with next := c.next + 1, since := none }
      counters := { t.counters with fragments := t.counters.fragments + 1 } }) := by
  rw [startFragment_eq, startItem_tx]
  exact updAt_updAt _ _ _ _

theorem startFragment_outsideCapture (k : PortNo) (c : BulkContext) (s : State) :
    (startFragment k c s).outsideCapture = { s with tx := (startFragment k c s).tx }.outsideCapture := by
  have h := (startItem_reports (k := k) (item := .frag c.frame c.id c.next false) (fun _ _ e => nomatch e)
    (s.updTx k (fun t => { t with ctx := some { c with next := c.next + 1, since := none } }))).1
  refine (congrArg State.outsideCapture (startFragment_eq k c s)).trans (h.trans ?_)
  rw [startFragment_eq, startItem_tx]
  rfl

/-! ## A probe timer's expiry (R47 to R49) -/

/-- What placing a probe does, the port's line busy, free behind a PROBE-BACK, or free for the probe. -/
structure PlacesProbe (p : PathNo) (k : PortNo) (placed : Vector PathRec 16) (s t : State) : Prop where
  busy : lineFree k s = false → t.paths[p] = placed[p] ∧ t.tx[k] = { s.tx[k] with probe := some (p, s.paths[p].nextId) }
  behind : lineFree k s = true → s.tx[k].probeBack ≠ none →
    t.paths[p] = placed[p] ∧ t.tx[k].probe = some (p, s.paths[p].nextId)
  free : lineFree k s = true → s.tx[k].probeBack = none →
    t.paths[p] = placed[p].withProbe s.paths[p].nextId s.tu.station s.now ∧
    t.tx[k] = { s.tx[k] with
      probe := none, line := some (.probe p s.paths[p].nextId, s.tu.station), state := .urgent, holdoffDue := none }
  paths : ∀ q : PathNo, q ≠ p → t.paths[q] = placed[q]
  ports : ∀ j : PortNo, j ≠ k → t.tx[j] = s.tx[j]
  outside : t.outside = { s with tx := t.tx, paths := t.paths }.outside

theorem placeProbe_places {p : PathNo} {k : PortNo} {s : State} (port : s.paths[p].port = k) :
    PlacesProbe p k (probesPlaced p (s.tx[k].probe.map Prod.fst) s.paths) s (placeProbe p s) := by
  obtain ⟨v, hv⟩ : ∃ v, v = { s with paths := probesPlaced p (s.tx[k].probe.map Prod.fst) s.paths }.updTx k
    (fun t => { t with probe := some (p, s.paths[p].nextId) }) := ⟨_, rfl⟩
  have eq : placeProbe p s = lineChoice k v := by
    subst port
    rw [placeProbe_eq, hv]
  have tx : v.tx[k] = { s.tx[k] with probe := some (p, s.paths[p].nextId) } := by
    rw [hv]
    exact updTx_self _ _ _
  have txOther : ∀ j : PortNo, j ≠ k → v.tx[j] = s.tx[j] := by
    intro j other
    rw [hv]
    exact updTx_other other _ _
  have paths : v.paths = probesPlaced p (s.tx[k].probe.map Prod.fst) s.paths := by rw [hv]; rfl
  have outside : v.outside = { s with tx := v.tx, paths := v.paths }.outside := by rw [hv]; rfl
  have station : v.tu = s.tu ∧ v.now = s.now := by rw [hv]; exact ⟨rfl, rfl⟩
  have line : lineFree k v = lineFree k s := by
    unfold lineFree
    rw [tx, show v.link = s.link by rw [hv]; rfl]
  rw [eq, ← paths]
  by_cases free : lineFree k v = true
  · have idle : lineFree k s ≠ false := by
      rw [← line, free]
      exact nofun
    cases back : s.tx[k].probeBack with
    | some b =>
      have chosen := lineChoice_probeBack free (show v.tx[k].probeBack = some b by rw [tx]; exact back)
      have sent := startItem_self k (.probeBack b.dst b.id b.t2) (fun t => { t with probeBack := none }) v
      rw [tx] at sent
      rw [startItem_probeBack] at chosen
      exact {
        busy := fun e => absurd e idle
        behind := fun _ _ => by
          rw [chosen]
          exact ⟨rfl, congrArg Transmitter.probe sent⟩
        free := fun _ e => nomatch e.symm.trans back
        paths := fun q _ => by rw [chosen]; rfl
        ports := fun j other => (lineChoice_tx other v).trans (txOther j other)
        outside := by rw [chosen, hv]; rfl }
    | none =>
      have chosen := lineChoice_probe free (show v.tx[k].probeBack = none by rw [tx]; exact back)
        (show v.tx[k].probe = some (p, s.paths[p].nextId) by rw [tx])
      have sent := startItem_self k (.probe p s.paths[p].nextId) (fun t => { t with probe := none }) v
      rw [tx, station.1] at sent
      rw [startItem_probe] at chosen
      exact {
        busy := fun e => absurd e idle
        behind := fun _ e => absurd back e
        free := fun _ _ => by
          rw [chosen]
          constructor
          · rw [updPath_self, PathRec.probeStarted_eq, hv]
            rfl
          · exact sent
        paths := fun q other => by rw [chosen, updPath_other other]; rfl
        ports := fun j other => (lineChoice_tx other v).trans (txOther j other)
        outside := by rw [chosen, hv]; rfl }
  · have busy := Bool.not_eq_true _ ▸ free
    have chosen : lineChoice k v = v := lineChoice_busy busy
    have idle : ¬ lineFree k s = true := by rw [← line]; exact free
    rw [chosen]
    exact {
      busy := fun _ => ⟨rfl, tx⟩
      behind := fun e => absurd e idle
      free := fun e => absurd e idle
      paths := fun _ _ => rfl
      ports := txOther
      outside := outside }

/-! ## A change of one hop (R34, R35) -/

section
variable {s t : State} (h : Sends s t)
include h

theorem Sends.hops : t.hops = s.hops := congrArg (·.hops) h.outside
theorem Sends.ports : t.ports = s.ports := congrArg (·.ports) h.outside
theorem Sends.link : t.link = s.link := congrArg (·.link) h.outside
theorem Sends.tu : t.tu = s.tu := congrArg (·.tu) h.outside
theorem Sends.clock : t.clock = s.clock := congrArg (·.clock) h.outside
theorem Sends.now : t.now = s.now := congrArg (·.now) h.outside
theorem Sends.rx : t.rx = s.rx := congrArg (·.rx) h.outside
theorem Sends.rmu : t.rmu = s.rmu := congrArg (·.rmu) h.outside
theorem Sends.ownSite : t.ownSite = s.ownSite := congrArg (·.ownSite) h.outside
theorem Sends.startUp : t.startUp = s.startUp := congrArg (·.startUp) h.outside
theorem Sends.linkInput : t.linkInput = s.linkInput := congrArg (·.linkInput) h.outside

end

theorem noteHop_sends (before : HopState) (h : HopNo) (s : State) : Sends s (noteHop before h s) := by
  unfold noteHop
  split
  · exact .refl s
  · exact (markStale_sends _ s).trans (raise_sends _ _)

/-- The hop's record is changed; what follows is handed to CMD and to the paths. -/
theorem changeHop_sends (h : HopNo) (f : HopRec → HopRec) (s : State) : Sends (s.updHop h f) (changeHop h f s) := by
  unfold changeHop
  dsimp only
  split
  · exact noteHop_sends _ h _
  · exact (noteHop_sends _ h _).trans (hopNotice_sends h _)

theorem changeHop_raises {h : HopNo} {f : HopRec → HopRec} {s : State}
    (changes : (f s.hops[h]).state ≠ s.hops[h].state) : (changeHop h f s).hasCause .hopChange := by
  have noted : (noteHop s.hops[h].state h (s.updHop h f)).hasCause .hopChange := by
    unfold noteHop
    rw [if_neg]
    · exact raise_hasCause _ _
    · rw [State.updHop_hops, Fin.getElem_fin, updAt_self]
      exact changes
  unfold changeHop
  dsimp only
  split
  · exact noted
  · exact (hopNotice_sends h _).causes _ noted

end Sys2Proof.Machine

open Sys2Proof Sys2Proof.Machine

/-- Settles O24: the bulk frame in the context resumes, and its next fragment starts. -/
theorem holdoffEndsInResume : Obligations.HoldoffEndsInResume := by
  intro s k c d t0 ready link line due past ctx since
  have free : lineFree k s.quiet = true := lineFree_iff.mpr ⟨link, line⟩
  have expired : dueBy s.quiet.nowNs s.quiet.tx[k].holdoffDue = true := dueBy_iff.mpr ⟨d, due, past⟩
  have fires : holdoffExpiry k s.quiet = resume k c s.quiet := by
    unfold holdoffExpiry
    rw [show s.quiet.isReady = true from ready, expired, free, show s.quiet.tx[k].ctx = some c from ctx]
    rfl
  have tx := (flush_tx (resume k c s.quiet)).trans (startFragment_tx k _ s.quiet)
  refine ⟨flush (resume k c s.quiet), (run_eq _ s).trans (by rw [fires]), ?_, ?_, ?_⟩
  · rw [tx]
    refine (updAt_self _ _ _).trans ?_
    rw [since]
    rfl
  · intro j other
    rw [tx]
    exact updAt_other _ _ _ _ other
  · have capture := (outsideCapture_of_outside (flush_outside (resume k c s.quiet))).trans
      (startFragment_outsideCapture k _ s.quiet)
    rw [show (startFragment k _ s.quiet).tx = (flush (resume k c s.quiet)).tx from (flush_tx _).symm] at capture
    exact outsideCapture_outside capture

/-- Settles O17: the probe is placed on the path with its timer restarted; a lost probe is a change of its path alone. -/
theorem probeTimers : Obligations.ProbeTimers := by
  intro s p k ready port
  refine ⟨fun d due past => ?_, fun settled o rest outstanding expired => ?_⟩
  · obtain ⟨u, hu⟩ : ∃ u, u = s.quiet.updPath p (fun x => { x with probeDue := some (s.now + x.interval) }) := ⟨_, rfl⟩
    have fires : exec (.probeTimerExpiry p) s = .next (flush (placeProbe p u)) := by
      rw [hu]
      exact (run_eq _ s).trans (congrArg (fun u => Host.Outcome.next (flush u)) (if_pos
        (Bool.and_eq_true_iff.mpr ⟨ready, dueBy_iff.mpr ⟨d, due, past⟩⟩)))
    have self : u.paths[p] = { s.paths[p] with probeDue := some (s.now + s.paths[p].interval) } := by
      rw [hu]
      exact updPath_self _ _ _
    have others : ∀ q : PathNo, q ≠ p → u.paths[q] = s.paths[q] := by
      intro q other
      rw [hu]
      exact updPath_other other _ _
    have tx : u.tx = s.tx := by rw [hu]; rfl
    have free : lineFree k u = lineFree k s := by rw [hu]; rfl
    have nextId : u.paths[p].nextId = s.paths[p].nextId := by rw [self]
    obtain ⟨busy, behind, starts, paths, ports, outside⟩ := placeProbe_places (k := k) (s := u) (by rw [self]; exact port)
    obtain ⟨replaced, hr⟩ : ∃ f : PathNo → BitVec 32, ∀ q, f q =
      s.paths[q].counters.replaced + if (s.tx[k].probe.map Prod.fst) = some q then 1 else 0 := ⟨_, fun _ => rfl⟩
    refine ⟨flush (placeProbe p u), replaced, fires, hr, ?_, ?_, ?_, ?_⟩
    · intro placed hp
      have eq : (probesPlaced p (s.tx[k].probe.map Prod.fst) u.paths)[p] = placed := by
        rw [probesPlaced_get, self, hp, hr]
        simp [PathRec.interval]
      rw [flush_paths, flush_tx]
      rw [free, tx, eq, nextId] at busy behind starts
      refine ⟨busy, behind, fun f b => ?_⟩
      have := starts f b
      rw [hu] at this ⊢
      exact this
    · intro q other
      rw [flush_paths, paths q other, tx, probesPlaced_get, others q other, hr]
      simp [other]
    · intro j other
      rw [flush_tx, ports j other, tx]
    · rw [flush_outside, outside, flush_paths, flush_tx, hu]
      rfl
  · refine run_settled settled ?_ rfl rfl
    have life : s.quiet.paths[p].oldestExpired s.quiet.now = true := by
      unfold PathRec.oldestExpired
      rw [show s.quiet.paths[p].outstanding = o :: rest from outstanding]
      exact decide_eq_true expired
    refine (if_pos (Bool.and_eq_true_iff.mpr ⟨ready, life⟩)).trans ?_
    have lost : s.paths[p].loseOldest = { s.paths[p] with
        outstanding := rest, counters := { s.paths[p].counters with lost := s.paths[p].counters.lost + 1 } } := by
      unfold PathRec.loseOldest
      rw [outstanding]
      rfl
    refine updPath_congr (s := s.quiet) ?_
    exact lost

/-- Settles O14: the hop that is silent is changed, and the Path Monitor is given notice of it. -/
theorem silentHopGoesDown : Obligations.SilentHopGoesDown := by
  intro s h d ready due past active
  have fires : exec (.reportTimerExpiry h) s = .next (flush (changeHop h HopRec.silent s.quiet)) :=
    (run_eq _ s).trans (congrArg (fun u => Host.Outcome.next (flush u)) (if_pos
      (Bool.and_eq_true_iff.mpr ⟨ready, dueBy_iff.mpr ⟨d, due, past⟩⟩)))
  have sends := (changeHop_sends h HopRec.silent s.quiet).trans (flush_sends _)
  have hops := sends.hops
  have silent : s.hops[h].silent = { s.hops[h] with state := .down, step := 0, count := 0, reportDue := none } :=
    if_pos active
  refine ⟨_, fires, ?_, ?_, ?_, ?_⟩
  · rw [hops]
    exact (updAt_self _ _ _).trans silent
  · intro g other
    rw [hops]
    exact updAt_other _ _ _ _ other
  · refine flush_hasCause (changeHop_raises ?_)
    rw [State.quiet_hops, silent]
    rcases active with e | e <;> rw [e] <;> exact nofun
  · rw [sends.outside, hops]
    rfl

/-- Settles O16: the branches of the hop state machine, a report's record leaving state, count and thresholds as they
were. -/
theorem hopStateFollowsReports : Obligations.HopStateFollowsReports := by
  intro h now timeout level step stepped above debounce
  obtain ⟨x, hx⟩ : ∃ x, x = h.record now timeout level step false := ⟨_, rfl⟩
  have kept : x.state = h.state ∧ x.count = h.count ∧ x.fade = h.fade ∧ x.down = h.down ∧ x.hyst = h.hyst ∧
      x.debounce = h.debounce := by
    rw [hx]
    by_cases extremes : h.extremes = true <;> simp [HopRec.record, HopRec.takeLevel, extremes]
  obtain ⟨state, count, fade, down, hyst, deb⟩ := kept
  have holds : x.meetsDown level step false = false := by
    have : ¬ level < x.down := by omega
    simp [HopRec.meetsDown, this]
    omega
  have report : h.report now timeout level step false = x.judge level step false := by rw [hx]; rfl
  rw [report, ← state, ← count, ← fade, ← down, ← hyst, ← deb]
  unfold HopRec.judge
  simp only [holds, Bool.false_eq_true, if_false]
  refine ⟨fun st => ?_, fun st lv => ?_, fun st lv c => ?_, fun st lv c => ?_, fun st lv => ?_, fun st lv c => ?_,
    fun st lv c => ?_, fun st lv => ?_, fun st lv => ?_⟩
  · simp [st]
  · simp [st, show ¬ level < x.fade by omega]
  · simp [st, lv, show ¬ x.debounce ≤ x.count + 1 by omega]
  · simp [st, lv, c]
  · simp [st, show ¬ x.fade + x.hyst ≤ level by omega]
  · simp [st, lv, show ¬ x.debounce ≤ x.count + 1 by omega]
  · simp [st, lv, c]
  · simp [st, lv]
  · simp [st, show ¬ x.down + x.hyst ≤ level by omega]

end

section
/-! SUPPORT. What a good frame brings, by its kind, and the statements about reports, probes and their answers. -/

namespace Sys2Proof.Machine

-- One proof at a time: each would otherwise hold a thread of its own.
set_option Elab.async false

/-! ## A good frame is dispatched (R129, R130) -/

/-- The state once a good frame has been received whole: the reception is over, and one good frame is counted. -/
def State.received (k : PortNo) (s : State) : State :=
  s.updRx k (fun r => { r with reception := none, counters := { r.counters with good := r.counters.good + 1 } })

theorem updRx_updRx (k : PortNo) (f g : Receiver → Receiver) (s : State) :
    (s.updRx k f).updRx k g = s.updRx k (g ∘ f) := by
  unfold State.updRx
  rw [← updAt_updAt]

theorem updRx_self (k : PortNo) (f : Receiver → Receiver) (s : State) : (s.updRx k f).rx[k] = f s.rx[k] :=
  updAt_self _ _ _

theorem updRx_other {k j : PortNo} (h : j ≠ k) (f : Receiver → Receiver) (s : State) :
    (s.updRx k f).rx[j] = s.rx[j] := updAt_other _ _ _ _ h

theorem frameArrival_good {k : PortNo} {s : State} {stamp : Stamp} {here : Bool} {f : Frame} (ready : s.isReady = true)
    (link : s.link[k] = true) (reception : s.rx[k].reception = some (stamp, here)) (wf : f.wellFormed s.ownSite) :
    frameArrival k f.encode s = dispatchFrame k stamp here f (s.received k) := by
  unfold frameArrival
  rw [reception]
  dsimp only
  refine (if_pos (Bool.and_eq_true_iff.mpr ⟨ready, link⟩)).trans ?_
  unfold frameJudged
  rw [show judge (s.updRx k _).ownSite f.encode = .good f from judge_encode wf]
  dsimp only [countRx]
  rw [updRx_updRx]
  rfl

theorem exec_frameArrival {k : PortNo} {s : State} {stamp : Stamp} {here : Bool} {f : Frame} (ready : s.isReady = true)
    (link : s.link[k] = true) (reception : s.rx[k].reception = some (stamp, here)) (wf : f.wellFormed s.ownSite) :
    exec (.frameArrival k f.encode) s = .next (flush (dispatchFrame k stamp here f (s.quiet.received k))) :=
  (run_eq _ s).trans (congrArg (fun u => Host.Outcome.next (flush u))
    (frameArrival_good (s := s.quiet) ready link reception wf))

theorem siteByte_toNat (r : Site) : (siteByte r).toNat = r.val := by
  unfold siteByte
  rw [BitVec.toNat_ofNat]
  omega

/-- A frame between the part's site and another is one a receiver may take, if its body is. -/
theorem wellFormed_between {own src : Site} {body : FrameBody} (wf : body.wellFormed) (other : src ≠ own) :
    Frame.wellFormed own ⟨siteByte src, siteByte own, body⟩ := by
  refine ⟨wf, fun _ => ?_⟩
  have differ : src.val ≠ own.val := fun e => other (Fin.ext e)
  rw [siteByte_toNat, siteByte_toNat]
  exact ⟨rfl, by omega, differ⟩

theorem ofNat_siteByte (r : Site) : (Fin.ofNat 8 (siteByte r).toNat : Site) = r := by
  rw [siteByte_toNat]
  exact Fin.ext (Nat.mod_eq_of_lt r.isLt)

/-! ## Being heard (R46, R131) -/

theorem heardNotice_path (k : PortNo) (src : Nat) (s : State) (q : PathNo) : (heardNotice k src s).paths[q] =
    if s.paths[q].active ∧ s.paths[q].port = k ∧ s.paths[q].site.val = src then s.paths[q].heard s.now
    else s.paths[q] := by
  simp only [heardNotice, Fin.getElem_fin, Vector.getElem_map]

/-- A heard notice moves silence timers alone. -/
theorem heardNotice_keeps (k : PortNo) (src : Nat) (s : State) (q : PathNo) : (heardNotice k src s).paths[q] =
    { s.paths[q] with silenceDue := (heardNotice k src s).paths[q].silenceDue } := by
  rw [heardNotice_path]
  split <;> rfl

theorem heardNotice_outside (k : PortNo) (src : Nat) (s : State) : (heardNotice k src s).outside =
    { s with paths := (heardNotice k src s).paths }.outside := rfl

theorem active_iff {x : PathRec} : x.active = true ↔ x.state = .probing ∨ x.state = .up := by
  simp [PathRec.active]

/-- The path of a frame: one that is not OFF, with the port and the source (R131). -/
theorem pathOfFrame_some {s : State} {k : PortNo} {p : PathNo} (on : s.paths[p].state ≠ .off) (port : s.paths[p].port = k) :
    ∃ q, pathOfFrame s k s.paths[p].site.val = some q ∧ s.paths[q].state ≠ .off ∧ s.paths[q].port = k ∧
      s.paths[q].site = s.paths[p].site := by
  cases h : pathOfFrame s k s.paths[p].site.val with
  | none =>
    have := List.find?_eq_none.mp h p (List.mem_finRange p)
    simp only [Bool.and_eq_true, bne_iff_ne, ne_eq, beq_iff_eq, and_true, not_and] at this
    exact absurd port (this on)
  | some q =>
    have := List.find?_some h
    simp only [Bool.and_eq_true, bne_iff_ne, ne_eq, beq_iff_eq] at this
    exact ⟨q, rfl, this.1.1, this.1.2, Fin.ext this.2⟩

/-! ## A report taken (R24 to R26) -/

/-- The hop state machine changes the state and the count alone. -/
theorem judge_keeps (level : Int) (step : Nat) (lost : Bool) (h : HopRec) : h.judge level step lost =
    { h with state := (h.judge level step lost).state, count := (h.judge level step lost).count } := by
  obtain ⟨j, hj⟩ : ∃ j, j = h.judge level step lost := ⟨_, rfl⟩
  rw [← hj]
  unfold HopRec.judge at hj
  split at hj
  · rw [hj]
  · split at hj
    · rw [hj]
    · split at hj
      · split at hj <;> rw [hj]
      · rw [hj]
    · split at hj
      · split at hj <;> rw [hj]
      · rw [hj]
    · split at hj <;> rw [hj]

theorem record_eq (now ms : Nat) (level : Int) (step : Nat) (lost : Bool) (h : HopRec) :
    (h.record now ms level step lost).lastReport = some now ∧
    (h.record now ms level step lost).reportDue = some (now + ms * 1000) ∧
    (h.record now ms level step lost).step = (if lost then 0 else step) ∧
    (h.record now ms level step lost).last = (if lost then h.last else some level) ∧
    (h.record now ms level step lost).down = h.down := by
  cases lost
  · by_cases extremes : h.extremes = true <;> simp [HopRec.record, HopRec.takeLevel, extremes]
  · simp [HopRec.record]

/-- What a report leaves in a hop's record, whatever the state machine makes of it. -/
theorem report_eq (now ms : Nat) (level : Int) (step : Nat) (lost : Bool) (h : HopRec) :
    (h.report now ms level step lost).lastReport = some now ∧
    (h.report now ms level step lost).reportDue = some (now + ms * 1000) ∧
    (h.report now ms level step lost).step = (if lost then 0 else step) ∧
    (h.report now ms level step lost).last = (if lost then h.last else some level) := by
  obtain ⟨report, due, steps, last, -⟩ := record_eq now ms level step lost h
  unfold HopRec.report
  rw [judge_keeps]
  exact ⟨report, due, steps, last⟩

theorem report_down {now ms : Nat} {level : Int} {step : Nat} {lost : Bool} {h : HopRec}
    (meets : lost = true ∨ step = 0 ∨ level < h.down) :
    (h.report now ms level step lost).state = .down ∧ (h.report now ms level step lost).count = 0 := by
  have down := (record_eq now ms level step lost h).2.2.2.2
  have judged : (h.record now ms level step lost).meetsDown level step lost = true := by
    simpa [HopRec.meetsDown, down, or_assoc] using meets
  unfold HopRec.report HopRec.judge
  rw [if_pos judged]
  exact ⟨rfl, rfl⟩

theorem clampInt_eq {lo hi v : Int} (range : lo ≤ hi) : clampInt lo hi v = max lo (min hi v) := by
  unfold clampInt
  omega

/-- An entry that names a hop of the chain is a report for it. -/
theorem hopEntry_report {k : PortNo} {e : HopEntry} {s : State} {h : HopNo} (first : 1 ≤ e.position)
    (named : s.ports[k].chain[e.position - 1]? = some h) : hopEntry k e s =
    changeHop h (HopRec.report s.now s.ports[k].timeoutMs (max (-1000) (min (-200) e.level)) (min 7 e.step) e.lost) s := by
  unfold hopEntry
  rw [if_neg (by omega), named, clampInt_eq (by decide)]

/-! ## A path's change of state handed on (R44, R65) -/

/-- The state outside CMD, the own-request queue, the pins and the route records. -/
def State.outsideRoutes (s : State) : State :=
  { s.outside with rs := { s.rs with routes := Vector.replicate 8 RouteRec.reset } }

section
variable {s t : State} (h : t.outsideRoutes = s.outsideRoutes)
include h

theorem outsideRoutes_outside : t.outside = { s with rs := t.rs }.outside :=
  congrArg (fun x : State => { x with rs := t.rs }) h

theorem outsideRoutes_paths : t.paths = s.paths := congrArg (·.paths) h
theorem outsideRoutes_tx : t.tx = s.tx := congrArg (·.tx) h
theorem outsideRoutes_cu : t.cu = s.cu := congrArg (·.cu) h
theorem outsideRoutes_batches : t.rs.batches = s.rs.batches := congrArg (·.rs.batches) h

end

theorem outsideRoutes_of_outside {s t : State} (h : t.outside = s.outside) : t.outsideRoutes = s.outsideRoutes :=
  congrArg (fun x : State => { x with rs := { x.rs with routes := Vector.replicate 8 RouteRec.reset } }) h

theorem evalRoutesOf_outsideRoutes (p : PathNo) (s : State) : (evalRoutesOf p s).outsideRoutes = s.outsideRoutes := by
  refine overAll_keeps State.outsideRoutes _ _ (fun site u => ?_) s
  split
  · exact (outsideRoutes_of_outside (evalRoute_outside site u)).trans rfl
  · rfl

/-- A change other than a departure from UP reaches CMD and the routes alone. -/
theorem notifyPath_outsideRoutes (p : PathNo) (s : State) : (notifyPath false p s).outsideRoutes = s.outsideRoutes :=
  (evalRoutesOf_outsideRoutes p _).trans
    (outsideRoutes_of_outside ((raise_outside _ _).trans (markStale_outside _ s)))

theorem cutProbeTimer_keeps (now : Nat) (x : PathRec) :
    cutProbeTimer now x = { x with probeDue := (cutProbeTimer now x).probeDue } := by
  unfold cutProbeTimer
  split
  · split <;> rfl
  · rfl

/-! ## The first sample (R51 to R55) -/

/-- A valid sample of which one end is not traceable is halved (R52). -/
theorem sampleOf_half {t1 t2 t3 t4 : Stamp} {rtt : Int} (trip : rtt = ((t4 - t1) - (t3 - t2)).toInt) (nonneg : 0 ≤ rtt)
    (short : rtt ≤ 200000000) : sampleOf t1 t2 t3 t4 false = some (rtt, .half, rtt / 2) := by
  unfold sampleOf maxDelay
  rw [← trip, if_neg (by omega), if_neg Bool.false_ne_true, Int.fdiv_eq_ediv_of_nonneg _ (by decide)]

/-- A path's record as its first sample, a halved one, takes it UP. -/
def PathRec.firstUp (now : Nat) (rtt : Int) (x : PathRec) : PathRec :=
  cutProbeTimer now { x with
    outstanding := [], est := (rtt / 2).toNat, rttEst := rtt.toNat, run := 0, seeded := true, method := some .half,
    counters := { x.counters with samples := x.counters.samples + 1 }, state := .up }

theorem takeSample_first {x : PathRec} {rtt : Int} (unseeded : x.seeded = false) (nonneg : 0 ≤ rtt)
    (short : rtt ≤ 200000000) : x.takeSample rtt .half (rtt / 2) = { x with
      est := (rtt / 2).toNat, rttEst := rtt.toNat, run := 0, seeded := true, method := some .half,
      counters := { x.counters with samples := x.counters.samples + 1 } } := by
  rw [takeSample_seeds (.inl unseeded), PathRec.seed, clampDelay_of_mem (by omega) (by omega),
    clampDelay_of_mem nonneg short, if_neg (by rw [unseeded]; exact Bool.false_ne_true)]

theorem updPath_updPath (p : PathNo) (f g : PathRec → PathRec) (s : State) :
    (s.updPath p f).updPath p g = s.updPath p (g ∘ f) := by
  unfold State.updPath
  rw [← updAt_updAt]

/-- A PROBE-BACK that answers the only outstanding probe of a PROBING path not yet seeded. -/
theorem probeBackArrived_first {k : PortNo} {src : Nat} {t2 t3 t4 : Stamp} {s : State} {p : PathNo} {o : Probe} {rtt : Int}
    (path : pathOfFrame s k src = some p) (only : s.paths[p].outstanding = [o]) (probing : s.paths[p].state = .probing)
    (unseeded : s.paths[p].seeded = false) (trip : rtt = ((t4 - o.t1) - (t3 - t2)).toInt) (nonneg : 0 ≤ rtt)
    (short : rtt ≤ 200000000) : probeBackArrived k src o.id true t2 t3 t4 false s =
      notifyPath false p (s.updPath p (PathRec.firstUp s.now rtt)) := by
  obtain ⟨u, hu⟩ : ∃ u, u = (s.updPath p (fun x => { x with outstanding := x.outstanding.erase o })).updPath p
    (PathRec.takeSample rtt .half (rtt / 2)) := ⟨_, rfl⟩
  have sampled := takeSample_first (x := { s.paths[p] with outstanding := s.paths[p].outstanding.erase o }) unseeded nonneg
    short
  have taken : u.paths[p] = { s.paths[p] with
      outstanding := [], est := (rtt / 2).toNat, rttEst := rtt.toNat, run := 0, seeded := true, method := some .half
      counters := { s.paths[p].counters with samples := s.paths[p].counters.samples + 1 } } := by
    rw [hu, updPath_self, updPath_self, sampled, only, List.erase_cons_head]
  have arrived : probeBackArrived k src o.id true t2 t3 t4 false s = enterUp p u := by
    unfold probeBackArrived
    rw [path]
    dsimp only
    rw [only, List.find?_cons_of_pos (by simp), Bool.and_false]
    dsimp only
    rw [sampleOf_half trip nonneg short]
    dsimp only
    rw [← hu]
    exact if_pos (by rw [taken]; exact probing)
  rw [arrived]
  unfold enterUp
  refine congrArg (notifyPath false p) ?_
  rw [hu, updPath_updPath, updPath_updPath]
  refine updPath_congr ?_
  refine (congrArg (fun x => cutProbeTimer s.now { x with state := .up }) sampled).trans ?_
  rw [only, List.erase_cons_head]
  rfl

end Sys2Proof.Machine

open Sys2Proof Sys2Proof.Machine

/-- Settles O28: the answer is placed in the slot and, the line being busy, waits there. -/
theorem probeIsAnswered : Obligations.ProbeIsAnswered := by
  intro s k p stamp here id settled ready link line reception port on other
  have wf : Frame.wellFormed s.ownSite ⟨siteByte s.paths[p].site, siteByte s.ownSite, .probe id⟩ :=
    wellFormed_between trivial other
  obtain ⟨u, hu⟩ : ∃ u, u = heardNotice k s.paths[p].site.val (s.quiet.received k) := ⟨_, rfl⟩
  obtain ⟨v, hv⟩ : ∃ v, v = (countRx k (fun c => { c with answered := c.answered + 1 }) u).updTx k
    (fun t => { t with probeBack := some ⟨s.paths[p].site, id, stamp⟩ }) := ⟨_, rfl⟩
  have busy : lineFree k v = false := by
    have : v.tx[k].line = s.tx[k].line := by
      rw [hv, updTx_self, hu]
      rfl
    rw [← Bool.not_eq_true, lineFree_iff, this]
    exact fun e => line e.2
  have answers : frameArrival k (Frame.encode ⟨siteByte s.paths[p].site, siteByte s.ownSite, .probe id⟩) s.quiet = v := by
    refine (frameArrival_good (s := s.quiet) ready link reception wf).trans ?_
    unfold dispatchFrame
    dsimp only
    rw [ofNat_siteByte, ← hu]
    have p_u := heardNotice_keeps k s.paths[p].site.val (s.quiet.received k) p
    rw [← hu] at p_u
    obtain ⟨q, hq, -⟩ := pathOfFrame_some (s := u) (k := k) (p := p) (by rw [p_u]; exact on) (by rw [p_u]; exact port)
    rw [show u.paths[p].site = s.paths[p].site by rw [p_u]; rfl] at hq
    unfold probeArrived
    rw [hq]
    unfold placeProbeBack
    dsimp only
    rw [← hv]
    exact lineChoice_busy busy
  have rx : v.rx = updAt s.rx k (fun r => { r with
      reception := none
      counters := { r.counters with good := r.counters.good + 1, answered := r.counters.answered + 1 } }) := by
    rw [hv, hu]
    simp only [countRx, State.updTx_rx, State.updRx_rx, heardNotice, State.received, updAt_updAt]
    rfl
  have tx : v.tx = updAt s.tx k (fun t => { t with probeBack := some ⟨s.paths[p].site, id, stamp⟩ }) := by
    rw [hv, hu]
    rfl
  have cmd : v.cmd = s.cmd ∧ v.mi.waiting = s.mi.waiting := by
    rw [hv, hu]
    exact ⟨rfl, rfl⟩
  refine ⟨v, run_settled settled answers cmd.1 cmd.2, ?_, ?_, fun active => ?_, fun j other => ?_, cmd.1, ?_⟩
  · rw [tx]
    exact updAt_self _ _ _
  · rw [rx]
    exact updAt_self _ _ _
  · have heard := heardNotice_path k s.paths[p].site.val (s.quiet.received k) p
    rw [if_pos ⟨active_iff.mpr active, port, rfl⟩, ← hu] at heard
    rw [show v.paths[p] = u.paths[p] by rw [hv]; rfl, heard]
    rfl
  · rw [tx, rx]
    exact ⟨updAt_other _ _ _ _ other, updAt_other _ _ _ _ other⟩
  · rw [hv, hu]
    rfl

/-- Settles O15: the entry is a report for the hop at its position, whatever the Path Monitor then makes of the change. -/
theorem hopReportIsTaken : Obligations.HopReportIsTaken := by
  intro s k stamp here src dst e h ready link reception radio first position low high step named
  have wf : Frame.wellFormed s.ownSite ⟨src, dst, .hopstat [e]⟩ := by
    refine ⟨⟨by simp, ?_⟩, nofun⟩
    rintro x hx
    rw [List.mem_singleton.mp hx]
    exact ⟨position, low, high, step⟩
  obtain ⟨u, hu⟩ : ∃ u, u = portHeard k (s.quiet.received k) := ⟨_, rfl⟩
  obtain ⟨f, hf⟩ : ∃ f, f = HopRec.report s.now s.ports[k].timeoutMs (max (-1000) (min (-200) e.level)) (min 7 e.step) e.lost :=
    ⟨_, rfl⟩
  have dispatched : dispatchFrame k stamp here ⟨src, dst, .hopstat [e]⟩ (s.quiet.received k) = changeHop h f u := by
    have entry : hopEntry k e u = changeHop h f u := by
      rw [hf, hu]
      exact hopEntry_report (s := portHeard k (s.quiet.received k)) first named
    unfold dispatchFrame hopstatArrived
    dsimp only
    rw [show (s.quiet.received k).ports[k].kind = .radio from radio, ← hu]
    exact entry
  have sends := (changeHop_sends h f u).trans (flush_sends _)
  have hops : (flush (changeHop h f u)).hops = updAt s.hops h f := by
    rw [sends.hops, hu]
    rfl
  have rx : (flush (changeHop h f u)).rx = (s.received k).rx := by
    rw [sends.rx, hu]
    rfl
  have self : (flush (changeHop h f u)).hops[h] = f s.hops[h] := by
    rw [hops]
    exact updAt_self _ _ _
  obtain ⟨last, due, steps, level⟩ := report_eq s.now s.ports[k].timeoutMs (max (-1000) (min (-200) e.level)) (min 7 e.step)
    e.lost s.hops[h]
  refine ⟨_, (exec_frameArrival ready link reception wf).trans (by rw [dispatched]), ?_, ?_, ?_, ?_, ?_, ?_, ?_, ?_⟩
  · rw [self, hf, last]
  · rw [self, hf, due]
  · rw [self, hf, steps]
  · rw [self, hf, level]
  · intro meets
    rw [self, hf]
    exact report_down (meets.imp_right (Or.imp_left (by rintro zero; rw [zero]; rfl)))
  · intro g other
    rw [hops]
    exact updAt_other _ _ _ _ other
  · rw [rx]
    exact congrArg Receiver.counters (updRx_self k _ s)
  · rw [sends.outside, hops, rx, hu]
    rfl

/-- Settles O19: the answer matches the one outstanding probe, and its sample seeds the estimator and takes the path UP. -/
theorem firstSampleTakesPathUp : Obligations.FirstSampleTakesPathUp := by
  intro s k p stamp t2 t3 o rtt ready link reception port other probing unseeded unique only trip nonneg short
  have wf : Frame.wellFormed s.ownSite ⟨siteByte s.paths[p].site, siteByte s.ownSite, .probeBack o.id true t2 t3⟩ :=
    wellFormed_between trivial other
  obtain ⟨u, hu⟩ : ∃ u, u = heardNotice k s.paths[p].site.val (s.quiet.received k) := ⟨_, rfl⟩
  have keeps : ∀ q : PathNo, u.paths[q] = { s.paths[q] with silenceDue := u.paths[q].silenceDue } := by
    intro q
    rw [hu]
    exact heardNotice_keeps k s.paths[p].site.val (s.quiet.received k) q
  have heard : u.paths[p] = { s.paths[p] with silenceDue := some (s.now + 2 ^ s.paths[p].silence) } := by
    rw [hu, heardNotice_path]
    exact if_pos ⟨active_iff.mpr (.inl probing), port, rfl⟩
  have path : pathOfFrame u k s.paths[p].site.val = some p := by
    obtain ⟨q, found, on, qport, qsite⟩ := pathOfFrame_some (s := u) (k := k) (p := p)
      (by rw [heard]; exact fun e => nomatch e.symm.trans probing) (by rw [heard]; exact port)
    rw [keeps q] at on qport qsite
    rw [heard] at found qsite
    rw [show q = p from of_not_not fun h => (unique q h on).elim (· qport) (· qsite)] at found
    exact found
  obtain ⟨v, hv⟩ : ∃ v, v = notifyPath false p (u.updPath p (PathRec.firstUp u.now rtt)) := ⟨_, rfl⟩
  have dispatched : dispatchFrame k stamp false ⟨siteByte s.paths[p].site, siteByte s.ownSite, .probeBack o.id true t2 t3⟩
      (s.quiet.received k) = v := by
    unfold dispatchFrame
    dsimp only
    rw [ofNat_siteByte, ← hu, hv]
    exact probeBackArrived_first path (by rw [heard]; exact only) (by rw [heard]; exact probing)
      (by rw [heard]; exact unseeded) trip nonneg short
  have paths : (flush v).paths[p] = PathRec.firstUp u.now rtt u.paths[p] := by
    rw [flush_paths, hv, outsideRoutes_paths (notifyPath_outsideRoutes p _)]
    exact updPath_self _ _ _
  rw [heard, PathRec.firstUp, cutProbeTimer_keeps] at paths
  have sends := ((updPath_sends p (PathRec.firstUp u.now rtt) u).trans (notifyPath_sends false p _)).trans (flush_sends _)
  rw [← hv] at sends
  refine ⟨flush v, (exec_frameArrival ready link reception wf).trans (by rw [dispatched]), ?_⟩
  rw [paths]
  refine ⟨rfl, rfl, rfl, rfl, rfl, rfl, rfl, rfl, rfl, ?_, ?_⟩
  · rw [hv]
    exact flush_hasCause (notifyPath_raises false p _)
  · rw [sends.outside, sends.rx, hu]
    rfl

end

section
/-! SUPPORT. What a path's changes of state do to the paths and the lines, and the statements about paths and links. -/

namespace Sys2Proof.Machine

-- One proof at a time: each would otherwise hold a thread of its own.
set_option Elab.async false

/-! ## Displacement (R123) -/

/-- A transmitter's counters once messages have been displaced. -/
def Transmitter.countDisplaced (removed : List Msg) (t : Transmitter) : Transmitter :=
  { t with counters := { t.counters with
      displaced := t.counters.displaced + BitVec.ofNat 32 (removed.filter (fun m => !m.dual)).length
      dropped := t.counters.dropped + BitVec.ofNat 32 (removed.filter (·.dual)).length } }

theorem displace_eq (k : PortNo) (removed : List Msg) (s : State) : ∃ u : State,
    u.outsideCapture = (s.updTx k (Transmitter.countDisplaced removed)).outsideCapture ∧
    displace k removed s = if (removed.filter (fun m => !m.dual)).isEmpty then u else
      { u with rs := { u.rs with batches := u.rs.batches ++ [⟨k, batchOrder (removed.filter (fun m => !m.dual))⟩] } } :=
  ⟨_, overAll_keeps State.outsideCapture _ reportDropped (fun _ _ => reportDest_outsideCapture _ _ _ _)
    (s.updTx k (Transmitter.countDisplaced removed)), rfl⟩

theorem displace_paths (k : PortNo) (removed : List Msg) (s : State) : (displace k removed s).paths = s.paths := by
  obtain ⟨u, capture, eq⟩ := displace_eq k removed s
  have paths := outsideCapture_paths capture
  rw [eq]
  split <;> exact paths

theorem displace_tx (k : PortNo) (removed : List Msg) (s : State) :
    (displace k removed s).tx = updAt s.tx k (Transmitter.countDisplaced removed) := by
  obtain ⟨u, capture, eq⟩ := displace_eq k removed s
  have tx := outsideCapture_tx capture
  rw [eq]
  split <;> exact tx

theorem displace_batches (k : PortNo) (removed : List Msg) (s : State) : (displace k removed s).rs.batches =
    s.rs.batches ++ if removed.filter (fun m => !m.dual) = [] then []
      else [⟨k, batchOrder (removed.filter (fun m => !m.dual))⟩] := by
  obtain ⟨u, capture, eq⟩ := displace_eq k removed s
  have rs := outsideCapture_rs capture
  have batches : u.rs.batches = s.rs.batches := congrArg RouteSelector.batches rs
  rw [eq]
  by_cases none : removed.filter (fun m => !m.dual) = []
  · rw [if_pos (List.isEmpty_iff.mpr none), if_pos none, List.append_nil, batches]
  · rw [if_neg (by rwa [List.isEmpty_iff]), if_neg none, batches]

/-! ## A departure (R123) -/

theorem without_probe (p : PathNo) (t : Transmitter) : (t.without p).probe = t.probe := by
  unfold Transmitter.without
  dsimp only
  split <;> rfl

/-- What is on the line stays on it, its frame abandoned or not. -/
theorem without_line (p : PathNo) (t : Transmitter) : (t.without p).line = none ↔ t.line = none := by
  unfold Transmitter.without
  dsimp only
  split
  · unfold abandonLine
    split <;> simp_all
  · exact Iff.rfl

/-- A departure, up to the choice of what to send. -/
def departed (p : PathNo) (s : State) : State :=
  displace s.paths[p].port (s.tx[s.paths[p].port].messagesOf p) (s.updTx s.paths[p].port (Transmitter.without p))

theorem departPath_eq (p : PathNo) (s : State) : departPath p s = lineChoice s.paths[p].port (departed p s) := rfl

theorem departed_tx (p : PathNo) (s : State) : (departed p s).tx = updAt s.tx s.paths[p].port
    (Transmitter.countDisplaced (s.tx[s.paths[p].port].messagesOf p) ∘ Transmitter.without p) := by
  unfold departed
  rw [displace_tx, State.updTx_tx, updAt_updAt]

theorem departed_paths (p : PathNo) (s : State) : (departed p s).paths = s.paths := displace_paths _ _ _

theorem departPath_paths (p q : PathNo) (s : State) : (departPath p s).paths[q].bare = s.paths[q].bare := by
  rw [departPath_eq, lineChoice_paths, departed_paths]

/-- A path no probe of which waits keeps its record as it departs. -/
theorem departPath_self {p : PathNo} {s : State} (none : ∀ id, s.tx[s.paths[p].port].probe ≠ some (p, id)) :
    (departPath p s).paths[p] = s.paths[p] := by
  rw [departPath_eq, lineChoice_path, departed_paths]
  intro id
  rw [departed_tx, Fin.getElem_fin, updAt_self]
  exact fun e => none id ((without_probe p _).symm.trans e)

/-- A line that is not free stays so. -/
theorem departPath_busy {p : PathNo} {s : State} (busy : s.tx[s.paths[p].port].line ≠ none) :
    (departPath p s).tx[s.paths[p].port].line ≠ none := by
  have kept : (departed p s).tx[s.paths[p].port].line ≠ none := by
    rw [departed_tx, Fin.getElem_fin, updAt_self]
    exact fun e => busy ((without_line p _).mp e)
  rw [departPath_eq, lineChoice_busy (by rw [← Bool.not_eq_true, lineFree_iff]; exact fun e => kept e.2)]
  exact kept

theorem departPath_probe {p : PathNo} {s : State} {w : PathNo × Byte} (other : s.tx[s.paths[p].port].probe ≠ some w) :
    (departPath p s).tx[s.paths[p].port].probe ≠ some w := by
  have kept : (departed p s).tx[s.paths[p].port].probe = s.tx[s.paths[p].port].probe := by
    rw [departed_tx, Fin.getElem_fin, updAt_self]
    exact without_probe p _
  rw [departPath_eq]
  rcases lineChoice_probe_waits s.paths[p].port (departed p s) with h | h <;> rw [h]
  · rw [kept]
    exact other
  · exact nofun

/-! ## A change of state handed on (R44) -/

theorem notifyPath_true (p : PathNo) (s : State) : notifyPath true p s = departPath p (notifyPath false p s) := by
  unfold notifyPath
  dsimp only
  rw [if_pos rfl, if_neg Bool.false_ne_true]

theorem notifyPath_up (p : PathNo) (s : State) : ∃ u : State, u.outsideRoutes = s.outsideRoutes ∧
    notifyPath true p s = departPath p u ∧ notifyPath false p s = u :=
  ⟨notifyPath false p s, notifyPath_outsideRoutes p s, notifyPath_true p s, rfl⟩

theorem notifyPath_paths (wasUp : Bool) (p q : PathNo) (s : State) :
    (notifyPath wasUp p s).paths[q].bare = s.paths[q].bare := by
  obtain ⟨u, routes, up, down⟩ := notifyPath_up p s
  cases wasUp
  · rw [down, outsideRoutes_paths routes]
  · rw [up, departPath_paths, outsideRoutes_paths routes]

theorem notifyPath_self {wasUp : Bool} {p : PathNo} {s : State}
    (none : ∀ id, s.tx[s.paths[p].port].probe ≠ some (p, id)) : (notifyPath wasUp p s).paths[p] = s.paths[p] := by
  obtain ⟨u, routes, up, down⟩ := notifyPath_up p s
  have paths := outsideRoutes_paths routes
  have tx := outsideRoutes_tx routes
  cases wasUp
  · rw [down, paths]
  · rw [up, departPath_self, paths]
    simp only [paths, tx]
    exact none

theorem notifyPath_busy {wasUp : Bool} {p : PathNo} {s : State} (busy : s.tx[s.paths[p].port].line ≠ none) :
    (notifyPath wasUp p s).tx[s.paths[p].port].line ≠ none := by
  obtain ⟨u, routes, up, down⟩ := notifyPath_up p s
  have paths := outsideRoutes_paths routes
  have tx := outsideRoutes_tx routes
  cases wasUp
  · rw [down, tx]
    exact busy
  · have := departPath_busy (p := p) (s := u) (by simp only [paths, tx]; exact busy)
    rw [up]
    simp only [paths] at this
    exact this

theorem notifyPath_probe {wasUp : Bool} {p : PathNo} {s : State} {w : PathNo × Byte}
    (other : s.tx[s.paths[p].port].probe ≠ some w) : (notifyPath wasUp p s).tx[s.paths[p].port].probe ≠ some w := by
  obtain ⟨u, routes, up, down⟩ := notifyPath_up p s
  have paths := outsideRoutes_paths routes
  have tx := outsideRoutes_tx routes
  cases wasUp
  · rw [down, tx]
    exact other
  · have := departPath_probe (p := p) (s := u) (w := w) (by simp only [paths, tx]; exact other)
    rw [up]
    simp only [paths] at this
    exact this

/-! ## Entering PROBING (R42) -/

theorem passable_congr {s t : State} {p : PathNo} (sends : Sends s t) (port : t.paths[p].port = s.paths[p].port)
    (drop : t.paths[p].drop = s.paths[p].drop) : passable t p = passable s p := by
  unfold passable pathHops
  simp only [sends.link, sends.ports, sends.hops, port, drop]

/-- A path whose silence timer has been started as it enters PROBING. -/
def State.silenced (p : PathNo) (s : State) : State :=
  s.updPath p (fun x => { x with state := .probing, silenceDue := some (s.now + 2 ^ x.silence) })

theorem enterProbing_outsideRoutes (p : PathNo) (s : State) : (enterProbing p s).outsideRoutes =
    ((placeProbe p (s.silenced p)).updPath p (fun x =>
      { x with probeDue := some ((placeProbe p (s.silenced p)).now + x.fast) })).outsideRoutes :=
  notifyPath_outsideRoutes p _

theorem enterProbing_others {p q : PathNo} (other : q ≠ p) (s : State) :
    (enterProbing p s).paths[q].bare = s.paths[q].bare := by
  have places := placeProbe_places (p := p) (s := s.silenced p) rfl
  rw [outsideRoutes_paths (enterProbing_outsideRoutes p s), updPath_other other, places.paths q other, probesPlaced_get,
    if_neg other, State.silenced, updPath_other other]
  rfl

theorem evalDown_others {p q : PathNo} (other : q ≠ p) (s : State) :
    (evalDown p s).paths[q].bare = s.paths[q].bare := by
  unfold evalDown
  split
  · exact enterProbing_others other s
  · rfl

theorem placeProbe_self (p : PathNo) (s : State) : (placeProbe p s).paths[p].bare =
    { s.paths[p] with nextId := s.paths[p].nextId + 1 }.bare := by
  obtain ⟨busy, behind, free, -, -, -⟩ := placeProbe_places (p := p) (s := s) rfl
  have placed : (probesPlaced p (s.tx[s.paths[p].port].probe.map Prod.fst) s.paths)[p].bare =
      { s.paths[p] with nextId := s.paths[p].nextId + 1 }.bare := by
    rw [probesPlaced_get, if_pos rfl]
    rfl
  by_cases line : lineFree s.paths[p].port s = true
  · by_cases back : s.tx[s.paths[p].port].probeBack = none
    · rw [(free line back).1]
      exact placed
    · rw [(behind line back).1]
      exact placed
  · rw [(busy (Bool.not_eq_true _ ▸ line)).1]
    exact placed

theorem enterProbing_self (p : PathNo) (s : State) : (enterProbing p s).paths[p].bare =
    { s.paths[p] with
      state := .probing, nextId := s.paths[p].nextId + 1
      silenceDue := some (s.now + 2 ^ s.paths[p].silence), probeDue := some (s.now + s.paths[p].fast) }.bare := by
  have placed := placeProbe_self p (s.silenced p)
  have now : (placeProbe p (s.silenced p)).now = s.now := (placeProbe_sends p _).now
  have silenced : (s.silenced p).paths[p] = { s.paths[p] with
      state := .probing, silenceDue := some (s.now + 2 ^ s.paths[p].silence) } := updPath_self _ _ _
  rw [outsideRoutes_paths (enterProbing_outsideRoutes p s), updPath_self, now]
  obtain ⟨x, hx⟩ : ∃ x, x = (placeProbe p (s.silenced p)).paths[p] := ⟨_, rfl⟩
  obtain ⟨y, hy⟩ : ∃ y, y = (s.silenced p).paths[p] := ⟨_, rfl⟩
  rw [← hx, ← hy] at placed
  rw [← hy] at silenced
  rw [← hx]
  refine (congrArg (fun d => { x with probeDue := some (s.now + d) }.bare) (bare_fast placed)).trans ?_
  have due := congrArg (fun z : PathRec => { z with probeDue := some (s.now + y.fast) }) placed
  rw [silenced] at due ⊢
  exact due

theorem evalDown_state (p : PathNo) (s : State) : (evalDown p s).paths[p].state =
    if s.paths[p].state = .down ∧ passable s p then .probing else s.paths[p].state := by
  unfold evalDown
  split
  · exact congrArg PathRec.state (enterProbing_self p s)
  · rfl

/-! ## Every path in turn (R45) -/

/-- Where each path's turn leaves the others but for their probes and counters, a path not in the list keeps its record,
and one in it has the record its own turn gives. -/
theorem overAll_pathwise {f : PathNo → State → State} (sends : ∀ p u, Sends u (f p u))
    (others : ∀ p q u, q ≠ p → (f p u).paths[q].bare = u.paths[q].bare) {l : List PathNo} (nodup : l.Nodup) (s : State) :
    (∀ q ∉ l, (overAll l f s).paths[q].bare = s.paths[q].bare) ∧
    ∀ q ∈ l, ∃ u, Sends s u ∧ u.paths[q].bare = s.paths[q].bare ∧
      (overAll l f s).paths[q].bare = (f q u).paths[q].bare := by
  induction l generalizing s with
  | nil => exact ⟨fun _ _ => rfl, nofun⟩
  | cons p l ih =>
    obtain ⟨fresh, nodup⟩ := List.nodup_cons.mp nodup
    obtain ⟨out, into⟩ := ih nodup (f p s)
    refine ⟨fun q h => ?_, fun q h => ?_⟩
    · obtain ⟨differ, h⟩ := not_or.mp (List.mem_cons.not.mp h)
      exact (out q h).trans (others p q s differ)
    · rcases List.mem_cons.mp h with rfl | h
      · exact ⟨s, .refl s, rfl, out q fresh⟩
      · obtain ⟨u, sent, same, turn⟩ := into q h
        have differ : q ≠ p := fun e => fresh (e ▸ h)
        exact ⟨u, (sends p s).trans sent, same.trans (others p q s differ), turn⟩

theorem evalPort_state (k : PortNo) (s : State) (p : PathNo) : (evalPort k s).paths[p].state =
    if s.paths[p].port = k ∧ s.paths[p].state = .down ∧ passable s p then .probing else s.paths[p].state := by
  obtain ⟨-, into⟩ := overAll_pathwise
    (f := fun (p : PathNo) (s : State) => if s.paths[p].port = k then evalDown p s else s)
    (fun p u => by
      split
      · exact evalDown_sends p u
      · exact .refl u)
    (fun p q u other => by
      split
      · exact evalDown_others other u
      · rfl) (List.nodup_finRange 16) s
  obtain ⟨u, sent, same, turn⟩ := into p (List.mem_finRange p)
  refine (bare_state turn).trans ?_
  rw [← passable_congr sent (bare_port same) (bare_drop same), ← bare_state same, ← bare_port same]
  by_cases port : u.paths[p].port = k
  · rw [if_pos port, evalDown_state]
    exact if_congr (and_iff_right port).symm rfl rfl
  · rw [if_neg port, if_neg fun h => port h.1]

/-! ## The link flag (R45) -/

theorem changeLink_outside (k : PortNo) (up : Bool) (s : State) :
    (changeLink k up s).outside = { s with link := updAt s.link k (fun _ => up) }.outside :=
  (raise_outside _ _).trans (markStale_outside _ _)

/-! ## The transmitters' codes stand -/

theorem displace_codes (k : PortNo) (removed : List Msg) (s : State) : (displace k removed s).codes = s.codes :=
  (codes_of_tx (s := s.updTx k (Transmitter.countDisplaced removed)) (displace_tx k removed s)).trans
    (updTx_codes (f := Transmitter.countDisplaced removed) (fun _ => rfl) s)

theorem without_codes (p : PathNo) (t : Transmitter) : (t.without p).codes = t.codes := by
  unfold Transmitter.without
  dsimp only
  split <;> rfl

theorem departPath_codes (p : PathNo) (s : State) : (departPath p s).codes = s.codes := by
  rw [departPath_eq, lineChoice_codes, departed, displace_codes]
  exact updTx_codes (without_codes p) s

theorem notifyPath_codes (wasUp : Bool) (p : PathNo) (s : State) : (notifyPath wasUp p s).codes = s.codes := by
  obtain ⟨u, routes, up, down⟩ := notifyPath_up p s
  have codes := codes_of_tx (outsideRoutes_tx routes)
  cases wasUp
  · rw [down, codes]
  · rw [up, departPath_codes, codes]

theorem placeProbe_codes (p : PathNo) (s : State) : (placeProbe p s).codes = s.codes := by
  rw [placeProbe_eq, lineChoice_codes]
  exact updTx_codes (f := fun t => { t with probe := some (p, s.paths[p].nextId) }) (fun _ => rfl) _

theorem evalDown_codes (p : PathNo) (s : State) : (evalDown p s).codes = s.codes := by
  unfold evalDown
  split
  · exact (codes_of_tx (outsideRoutes_tx (enterProbing_outsideRoutes p s))).trans (placeProbe_codes p (s.silenced p))
  · rfl

theorem withdrawProbe_codes (p : PathNo) (s : State) : (withdrawProbe p s).codes = s.codes :=
  updTx_codes (fun t => by split <;> rfl) s

theorem pathDown_codes (p : PathNo) (s : State) : (pathDown p s).codes = s.codes := by
  unfold pathDown
  dsimp only
  split
  · rw [evalDown_codes, notifyPath_codes, withdrawProbe_codes]
    rfl
  · rfl

theorem pathNotice_codes (st : HopState) (p : PathNo) (s : State) : (pathNotice st p s).codes = s.codes := by
  unfold pathNotice
  dsimp only
  split
  · rfl
  · exact evalDown_codes p (recompute p s)
  · split
    · exact pathDown_codes p (recompute p s)
    · split <;> rfl

theorem hopNotice_codes (h : HopNo) (s : State) : (hopNotice h s).codes = s.codes := by
  unfold hopNotice
  split
  · refine overAll_keeps State.codes _ _ (fun p u => ?_) s
    split
    · exact pathNotice_codes _ p u
    · rfl
  · rfl

theorem noteHop_tx (before : HopState) (h : HopNo) (s : State) : (noteHop before h s).tx = s.tx := by
  unfold noteHop
  split
  · rfl
  · exact outside_tx_eq ((raise_outside _ _).trans (markStale_outside _ _))

theorem changeHop_codes (h : HopNo) (f : HopRec → HopRec) (s : State) : (changeHop h f s).codes = s.codes := by
  unfold changeHop
  dsimp only
  have noted := codes_of_tx (noteHop_tx s.hops[h].state h (s.updHop h f))
  split
  · exact noted
  · exact (hopNotice_codes h _).trans noted

end Sys2Proof.Machine

open Sys2Proof Sys2Proof.Machine

/-- Settles O25: the flag is up before the port's paths are evaluated, each on its own hops. -/
theorem linkReturns : Obligations.LinkReturns := by
  intro s k ready down
  obtain ⟨u, hu⟩ : ∃ u, u = changeLink k true (setInput k true s.quiet) := ⟨_, rfl⟩
  have outside : u.outside =
      { s with link := updAt s.link k (fun _ => true), linkInput := updAt s.linkInput k (fun _ => true) }.outside := by
    rw [hu, changeLink_outside]
    rfl
  have comes : linkUp k s.quiet = lineChoice k (evalPort k u) := by
    rw [hu]
    exact if_pos (Bool.and_eq_true_iff.mpr ⟨ready, by rw [show (setInput k true s.quiet).link[k] = false from down]; rfl⟩)
  obtain ⟨t, ht⟩ : ∃ t, t = flush (lineChoice k (evalPort k u)) := ⟨_, rfl⟩
  have sends : Sends u t := by
    rw [ht]
    exact ((evalPort_sends k u).trans (lineChoice_sends k _)).trans (flush_sends _)
  have link := sends.link.trans (outside_link_eq outside)
  have input := sends.linkInput.trans (outside_linkInput_eq outside)
  have paths := outside_paths_eq outside
  have state : ∀ p : PathNo, t.paths[p].state =
      if s.paths[p].port = k ∧ s.paths[p].state = .down ∧ passable u p then .probing else s.paths[p].state := by
    intro p
    rw [ht, flush_paths, bare_state (lineChoice_paths k p _), evalPort_state, paths]
  have passes : ∀ p : PathNo, s.paths[p].port = k → passable u p =
      (s.ports[k].chain.take s.paths[p].drop).all (fun h => s.hops[h].state == .clear || s.hops[h].state == .fading) := by
    intro p port
    have up : u.link[k] = true := by
      rw [outside_link_eq outside]
      exact updAt_self _ _ _
    unfold passable pathHops
    simp only [paths, port, up, Bool.true_and, outside_ports_eq outside, outside_hops_eq outside]
  refine ⟨t, (run_eq _ s).trans (by rw [comes, ht]), ?_, ?_, fun j other => ?_, ?_, fun p port from_ => ?_,
    fun p other => ?_, ?_⟩
  · rw [link]
    exact updAt_self _ _ _
  · rw [input]
    exact updAt_self _ _ _
  · rw [link, input]
    exact ⟨updAt_other _ _ _ _ other, updAt_other _ _ _ _ other⟩
  · exact sends.causes _ (by rw [hu]; exact raise_hasCause _ _)
  · rw [state, from_, passes p port]
    exact if_congr ⟨fun h => h.2.2, fun h => ⟨port, rfl, h⟩⟩ rfl rfl
  · rw [state]
    exact if_neg fun h => other.elim (· h.1) (· h.2.1)
  · rw [sends.outside, outsideSending_of_outside outside, link, input]

end

section
/-! SUPPORT. The statements about a silent path, and the commands that set a path and switch it. -/

namespace Sys2Proof.Machine

-- One proof at a time: each would otherwise hold a thread of its own.
set_option Elab.async false

/-- A path's probe that waited has been withdrawn, its record changed before. -/
theorem withdrawProbe_probe (p : PathNo) (s : State) (id : Byte) :
    (withdrawProbe p s).tx[s.paths[p].port].probe ≠ some (p, id) := by
  rw [withdrawProbe, updTx_self]
  split
  · exact nofun
  · next waits =>
    intro e
    rw [e] at waits
    simp at waits

/-- A path that goes DOWN or OFF, up to the evaluation of R42's condition: its record is cleared and every other path
keeps its state. -/
def leaves (st : PathState) (p : PathNo) (s : State) : State :=
  notifyPath (s.paths[p].state == .up) p (withdrawProbe p (s.updPath p (PathRec.quiet st)))

theorem leaves_sends (st : PathState) (p : PathNo) (s : State) : Sends s (leaves st p s) :=
  ((updPath_sends p _ s).trans (withdrawProbe_sends p _)).trans (notifyPath_sends _ p _)

theorem leaves_self (st : PathState) (p : PathNo) (s : State) : (leaves st p s).paths[p] = s.paths[p].quiet st := by
  have quiet : (s.updPath p (PathRec.quiet st)).paths[p] = s.paths[p].quiet st := updPath_self _ _ _
  unfold leaves
  rw [notifyPath_self fun id => withdrawProbe_probe p (s.updPath p (PathRec.quiet st)) id]
  exact quiet

theorem leaves_others {p q : PathNo} (other : q ≠ p) (st : PathState) (s : State) :
    (leaves st p s).paths[q].bare = s.paths[q].bare := by
  unfold leaves
  rw [notifyPath_paths]
  exact congrArg PathRec.bare (updPath_other other (PathRec.quiet st) s)

theorem leaves_busy {st : PathState} {p : PathNo} {s : State} (busy : s.tx[s.paths[p].port].line ≠ none) :
    (leaves st p s).tx[s.paths[p].port].line ≠ none := by
  obtain ⟨u, hu⟩ : ∃ u, u = s.updPath p (PathRec.quiet st) := ⟨_, rfl⟩
  have port : u.paths[p].port = s.paths[p].port := by
    rw [hu, updPath_self]
    rfl
  have line : (withdrawProbe p u).tx[s.paths[p].port].line = s.tx[s.paths[p].port].line := by
    rw [withdrawProbe, State.updTx_tx]
    simp only [port]
    rw [Fin.getElem_fin, updAt_self, hu]
    split <;> rfl
  unfold leaves
  rw [← hu]
  have := notifyPath_busy (wasUp := s.paths[p].state == .up) (p := p) (s := withdrawProbe p u)
    (by simp only [show (withdrawProbe p u).paths[p].port = s.paths[p].port from port]; rw [line]; exact busy)
  simp only [show (withdrawProbe p u).paths[p].port = s.paths[p].port from port] at this
  exact this

theorem leaves_probe (st : PathState) (p : PathNo) (s : State) (id : Byte) :
    (leaves st p s).tx[s.paths[p].port].probe ≠ some (p, id) := by
  obtain ⟨u, hu⟩ : ∃ u, u = s.updPath p (PathRec.quiet st) := ⟨_, rfl⟩
  have port : u.paths[p].port = s.paths[p].port := by
    rw [hu, updPath_self]
    rfl
  have := notifyPath_probe (wasUp := s.paths[p].state == .up) (withdrawProbe_probe p u id)
  unfold leaves
  rw [← hu]
  simp only [show (withdrawProbe p u).paths[p].port = s.paths[p].port from port] at this
  exact this

/-- The first probe of a path that has none outstanding. -/
theorem withProbe_first {id : Byte} {t1 : Stamp} {now : Nat} {x : PathRec} (none : x.outstanding = []) :
    x.withProbe id t1 now = { x with
      outstanding := [⟨id, t1, now⟩], counters := { x.counters with sent := x.counters.sent + 1 } } := by
  simp [PathRec.withProbe, none]

/-- What bars a path from being enabled (R40). -/
theorem enableRefused_iff {p : PathNo} {s : State} : enableRefused p s = true ↔ s.paths[p].configured = false ∨
    s.ports[s.paths[p].port].chain.length < s.paths[p].drop ∨
    (s.paths[p].drop = 0 ∧ s.ports[s.paths[p].port].kind = .radio) ∨
    ∃ q : PathNo, q ≠ p ∧ s.paths[q].state ≠ .off ∧ s.paths[q].port = s.paths[p].port ∧ s.paths[q].site = s.paths[p].site := by
  simp [enableRefused, allPaths, or_assoc, and_assoc]

theorem pathDown_eq {p : PathNo} {s : State} (active : s.paths[p].state = .probing ∨ s.paths[p].state = .up) :
    pathDown p s = evalDown p (leaves .down p s) := by
  unfold pathDown
  exact if_pos (active.imp_right fun e => by rw [e]; rfl)

end Sys2Proof.Machine

open Sys2Proof Sys2Proof.Machine

/-- Settles O46: the path's state changes and is handed on; one that is then DOWN is evaluated. -/
theorem pathIsSwitched : Obligations.PathIsSwitched := by
  intro s b rest p q named
  refine ⟨fun takes off configured fits hops alone => ?_, fun takes on => ?_⟩
  · obtain ⟨v, hv⟩ : ∃ v, v = notifyPath false q ((s.taken b rest).updPath q (fun x => { x with state := .down })) :=
      ⟨_, rfl⟩
    have passes : enableRefused q (s.taken b rest) = false := by
      rw [← Bool.not_eq_true, enableRefused_iff]
      rintro (none | long | ⟨drop, radio⟩ | ⟨x, other, on, port, site⟩)
      · exact absurd (none.symm.trans configured) Bool.false_ne_true
      · exact absurd long (Nat.not_lt.mpr fits)
      · exact hops.elim (· drop) fun fibre => nomatch fibre.symm.trans radio
      · exact (alone x other on).elim (· port) (· site)
    have does : enablePath p (s.taken b rest) = (evalDown q v, .none, []) := by
      unfold enablePath
      rw [indexOf_eq_some.mpr named]
      dsimp only
      rw [if_neg (show ¬ (s.taken b rest).paths[q].state ≠ .off from not_not_intro off),
      if_neg (by rw [passes]; exact Bool.false_ne_true), hv]
      rfl
    have sent : Sends (s.taken b rest) v := by
      rw [hv]
      exact (updPath_sends q _ _).trans (notifyPath_sends _ q _)
    have sends := sent.trans (evalDown_sends q v)
    have paths : v.paths = updAt s.paths q (fun x => { x with state := .down }) := by
      rw [hv]
      exact outsideRoutes_paths (notifyPath_outsideRoutes q _)
    have self : v.paths[q] = { s.paths[q] with state := .down } := by
      rw [paths]
      exact updAt_self _ _ _
    have pass : passable v q = passable s q :=
      passable_congr (s := s.taken b rest) sent (by rw [self]; rfl) (by rw [self]; rfl)
    have ended := flush_complete_outside b .none 0 [] (evalDown q v)
    refine ⟨_, immediate_applies takes does, sends.taken_done takes .none [], ?_, fun blocked => ?_, fun open_ => ?_,
      fun x other => ?_, ?_⟩
    · refine raisedNothing_hasCause (flush_complete_raisedNothing b .none 0 [] _) ((evalDown_sends q v).causes _ ?_)
      rw [hv]
      exact notifyPath_raises false q _
    · rw [outside_paths_eq ended, evalDown, if_neg (by rw [pass, blocked]; exact fun h => nomatch h.2), self]
    · have enters := enterProbing_self q v
      rw [self, show v.now = s.now from sent.now] at enters
      rw [outside_paths_eq ended, evalDown, if_pos ⟨by rw [self], by rw [pass, open_]⟩]
      exact ⟨bare_state enters, congrArg PathRec.silenceDue enters, congrArg PathRec.probeDue enters,
        congrArg PathRec.nextId enters⟩
    · rw [outside_paths_eq ended, bare_state (evalDown_others other v), paths]
      exact congrArg PathRec.state (updAt_other _ _ _ _ other)
    · rw [outsideSending_of_outside ended, sends.outside]
      rfl
  · have does : disablePath p (s.taken b rest) = (leaves .off q (s.taken b rest), .none, []) := by
      unfold disablePath
      rw [indexOf_eq_some.mpr named]
      exact if_neg on
    have sends := leaves_sends .off q (s.taken b rest)
    have ended := flush_complete_outside b .none 0 [] (leaves .off q (s.taken b rest))
    refine ⟨_, immediate_applies takes does, sends.taken_done takes .none [], ?_, ?_, fun x other => ?_, ?_⟩
    · exact raisedNothing_hasCause (flush_complete_raisedNothing b .none 0 [] _) (notifyPath_raises _ q _)
    · rw [outside_paths_eq ended, leaves_self]
      rfl
    · rw [outside_paths_eq ended, bare_state (leaves_others other .off (s.taken b rest))]
      rfl
    · rw [outsideSending_of_outside ended, sends.outside]
      rfl

/-- Settles O18: the path leaves PROBING or UP, and enters PROBING again, its probe placed. -/
theorem silentPathGoesDown : Obligations.SilentPathGoesDown := by
  intro s p d ready due past active pass
  obtain ⟨v, hv⟩ : ∃ v, v = leaves .down p s.quiet := ⟨_, rfl⟩
  have self : v.paths[p] = s.paths[p].quiet .down := by
    rw [hv]
    exact leaves_self .down p s.quiet
  have sent : Sends s.quiet v := by
    rw [hv]
    exact leaves_sends .down p s.quiet
  have open_ : passable v p = true :=
    (passable_congr (s := s.quiet) sent (by rw [self]; rfl) (by rw [self]; rfl)).trans pass
  have comes : pathDown p s.quiet = enterProbing p v := by
    rw [pathDown_eq (s := s.quiet) active, ← hv]
    exact if_pos ⟨by rw [self]; rfl, open_⟩
  have fires : exec (.silenceTimerExpiry p) s = .next (flush (enterProbing p v)) := by
    rw [← comes]
    exact (run_eq _ s).trans (congrArg (fun u => Host.Outcome.next (flush u)) (if_pos
      (Bool.and_eq_true_iff.mpr ⟨ready, dueBy_iff.mpr ⟨d, due, past⟩⟩)))
  have sends := (sent.trans (enterProbing_sends p v)).trans (flush_sends _)
  obtain ⟨w, hw⟩ : ∃ w, w = v.silenced p := ⟨_, rfl⟩
  have self_w : w.paths[p] = { s.paths[p].quiet .down with
      state := .probing, silenceDue := some (s.now + 2 ^ s.paths[p].silence) } := by
    rw [hw, State.silenced, updPath_self, self, show v.now = s.now from sent.now]
    rfl
  have port : w.paths[p].port = s.paths[p].port := by rw [self_w]; rfl
  have nextId : w.paths[p].nextId = s.paths[p].nextId := by rw [self_w]; rfl
  have tx_w : w.tx = v.tx := by rw [hw]; rfl
  have none_ : ∀ id, w.tx[s.paths[p].port].probe ≠ some (p, id) := by
    intro id
    rw [tx_w, hv]
    exact leaves_probe .down p s.quiet id
  have placed : (probesPlaced p (w.tx[s.paths[p].port].probe.map Prod.fst) w.paths)[p] = { s.paths[p].quiet .down with
      state := .probing, nextId := s.paths[p].nextId + 1, silenceDue := some (s.now + 2 ^ s.paths[p].silence) } := by
    have other : w.tx[s.paths[p].port].probe.map Prod.fst ≠ some p := by
      intro e
      obtain ⟨⟨q, id⟩, waits, rfl⟩ := Option.map_eq_some_iff.mp e
      exact none_ id waits
    rw [probesPlaced_get, if_pos rfl, if_neg other, self_w]
    simp [PathRec.quiet]
  obtain ⟨busy, behind, starts, -, -, -⟩ := placeProbe_places port
  rw [placed, nextId] at busy behind starts
  have station : w.tu = s.tu ∧ w.now = s.now := by
    rw [hw]
    exact ⟨sent.tu, sent.now⟩
  rw [station.1, station.2] at starts
  have same := enterProbing_outsideRoutes p v
  rw [← hw] at same
  have tx : (flush (enterProbing p v)).tx = (placeProbe p w).tx := by
    rw [flush_tx, outsideRoutes_tx same]
    rfl
  have path : (flush (enterProbing p v)).paths[p] =
      { (placeProbe p w).paths[p] with probeDue := some (s.now + (placeProbe p w).paths[p].fast) } := by
    rw [flush_paths, outsideRoutes_paths same, updPath_self, (placeProbe_sends p w).now, station.2]
  obtain ⟨a, ha⟩ : ∃ a : PathRec, a = { s.paths[p].quiet .down with
    state := .probing, nextId := s.paths[p].nextId + 1, silenceDue := some (s.now + 2 ^ s.paths[p].silence)
    probeDue := some (s.now + s.paths[p].fast) } := ⟨_, rfl⟩
  obtain ⟨t, ht⟩ : ∃ t, t = flush (enterProbing p v) := ⟨_, rfl⟩
  rw [← ht] at tx path sends fires
  have result : t.tx[s.paths[p].port].probe = some (p, s.paths[p].nextId) ∧ t.paths[p] = a ∨
      s.tx[s.paths[p].port].line = none ∧
      t.tx[s.paths[p].port].line = some (.probe p s.paths[p].nextId, s.tu.station) ∧
      t.paths[p] = { a with
        outstanding := [⟨s.paths[p].nextId, s.tu.station, s.now⟩]
        counters := { s.paths[p].counters with sent := s.paths[p].counters.sent + 1 } } := by
    rw [path, tx]
    by_cases free : lineFree s.paths[p].port w = true
    · by_cases back : w.tx[s.paths[p].port].probeBack = none
      · obtain ⟨record, line⟩ := starts free back
        refine .inr ⟨of_not_not fun e => ?_, ?_, ?_⟩
        · have : v.tx[s.paths[p].port].line ≠ none := by
            rw [hv]
            exact leaves_busy (s := s.quiet) e
          exact this (tx_w ▸ (lineFree_iff.mp free).2)
        · rw [line]
        · rw [record, withProbe_first rfl, ha]
          rfl
      · obtain ⟨record, waits⟩ := behind free back
        exact .inl ⟨waits, by rw [record, ha]; rfl⟩
    · obtain ⟨record, waits⟩ := busy (Bool.not_eq_true _ ▸ free)
      exact .inl ⟨by rw [waits], by rw [record, ha]; rfl⟩
  refine ⟨t, fires, ?_, ?_, ?_, fun q other => ?_, ?_, sends.outside⟩
  · rcases result with ⟨-, record⟩ | ⟨-, -, record⟩ <;> rw [record, ha] <;> rfl
  · refine result.imp ?_ ?_
    · rintro ⟨waits, record⟩
      rw [record, ha]
      exact ⟨waits, rfl, rfl⟩
    · rintro ⟨-, line, record⟩
      rw [record]
      exact ⟨line, rfl, rfl⟩
  · intro line
    rcases result with ⟨-, record⟩ | ⟨free, -, -⟩
    · rw [record, ha]
      rfl
    · exact absurd free line
  · rw [ht, flush_paths, bare_state (enterProbing_others other v), hv]
    exact bare_state (leaves_others other .down s.quiet)
  · rw [ht]
    exact flush_hasCause (notifyPath_raises false p _)

end

section
/-! SUPPORT. The statements about a path set, a port set and a link lost. -/

namespace Sys2Proof.Machine

-- One proof at a time: each would otherwise hold a thread of its own.
set_option Elab.async false

/-- A fold whose every change leaves the state changes nothing. -/
theorem overAll_same {α : Type} {l : List α} {f : α → State → State} {s : State} (same : ∀ a ∈ l, f a s = s) :
    overAll l f s = s := by
  induction l with
  | nil => rfl
  | cons a l ih =>
    have first := same a List.mem_cons_self
    exact (congrArg (overAll l f) first).trans (ih fun x h => same x (List.mem_cons_of_mem a h))

/-! ## SET_PATH (R38, R61) -/

theorem unlistPath_sends (p : PathNo) (s : State) : Sends s (unlistPath p s) := by
  refine .overAll _ _ (fun site u => ?_) s
  split
  · exact (updRoute_sends site _ u).trans (evalRoute_sends site _)
  · exact .refl u

theorem unlistPath_outsideRoutes (p : PathNo) (s : State) : (unlistPath p s).outsideRoutes = s.outsideRoutes := by
  refine overAll_keeps State.outsideRoutes _ _ (fun site u => ?_) s
  split
  · exact (outsideRoutes_of_outside (evalRoute_outside site _)).trans rfl
  · rfl

/-- Where no route to another site lists the path, no route changes (R61). -/
theorem unlistPath_unlisted {p : PathNo} {s : State}
    (unlisted : ∀ x : Site, x ≠ s.paths[p].site → p ∉ s.rs.routes[x].cands) : unlistPath p s = s :=
  overAll_same fun x _ => if_neg fun h => unlisted x h.1 (List.contains_iff_mem.mp h.2)

/-- A path's settings stored, its fading count and rate recomputed. -/
def State.configured (q : PathNo) (p : List Byte) (s : State) : State :=
  recompute q (s.updPath q (PathRec.configure p))

theorem configured_self (q : PathNo) (p : List Byte) (s : State) : (s.configured q p).paths[q] =
    { s.paths[q].configure p with
      fading := fadingCount (s.configured q p) q, rate := pathRate (s.configured q p) q } := by
  have self : (s.configured q p).paths[q] = { s.paths[q].configure p with
      fading := fadingCount (s.updPath q (PathRec.configure p)) q
      rate := pathRate (s.updPath q (PathRec.configure p)) q } := by
    unfold State.configured recompute
    rw [updPath_self, updPath_self]
  have count : fadingCount (s.configured q p) q = fadingCount (s.updPath q (PathRec.configure p)) q := by
    unfold fadingCount pathHops
    simp only [self, updPath_self]
    rfl
  have rate : pathRate (s.configured q p) q = pathRate (s.updPath q (PathRec.configure p)) q := by
    unfold pathRate pathHops
    simp only [self, updPath_self]
    rfl
  rw [count, rate]
  exact self

/-- A path's derived values follow its record, the ports and the hops (R39). -/
theorem derived_congr {s t : State} {q : PathNo} (paths : t.paths = s.paths) (ports : t.ports = s.ports)
    (hops : t.hops = s.hops) : fadingCount t q = fadingCount s q ∧ pathRate t q = pathRate s q := by
  have rate : hopRate t = hopRate s := by
    funext h
    unfold hopRate
    rw [hops, ports]
  unfold fadingCount pathRate pathHops
  simp only [paths, ports, hops, rate, and_self]

/-- The settings of a path to a port and a site, clamped (R38). -/
theorem configure_eq {p : List Byte} {k : PortNo} {r : Site} (port : byteAt p 1 = k.val) (site : byteAt p 2 = r.val)
    (x : PathRec) : x.configure p = { x with
      configured := true, port := k, site := r, drop := byteAt p 3
      normal := min 65535 (max 50 (field p 6 2))
      fast := min (min 65535 (max 50 (field p 6 2))) (max 20 (field p 8 2))
      silence := min 15 (max 4 (byteAt p 4)), shift := min 7 (byteAt p 5)
      outlier := min 10000000 (max 1000 (field p 12 4)), fadeUnit := min 1000000 (field p 16 4)
      seeded := false, est := 0, rttEst := 0, method := none, run := 0, lag := none
      counters := ⟨0, 0, 0, 0, 0, 0, 0, 0, 0⟩ } := by
  have k_eq : Fin.ofNat 6 (byteAt p 1) = k := Fin.ext (by rw [port]; exact Nat.mod_eq_of_lt k.isLt)
  have r_eq : Fin.ofNat 8 (byteAt p 2) = r := Fin.ext (by rw [site]; exact Nat.mod_eq_of_lt r.isLt)
  unfold PathRec.configure
  dsimp only
  rw [k_eq, r_eq]
  rfl

/-- The checks of SET_PATH that a command fails with BAD_PARAM (R38). -/
theorem pathCheck_bad {q : PathNo} {p : List Byte} {s : State} (off : s.paths[q].state = .off)
    (bad : 5 < byteAt p 1 ∨ 7 < byteAt p 2 ∨ byteAt p 2 = s.ownSite.val ∨
      ∃ k : PortNo, byteAt p 1 = k.val ∧ ((byteAt p 3 = 0 ∧ s.ports[k].kind = .radio) ∨
        s.ports[k].chain.length < byteAt p 3)) : pathCheck q p s = .badParam := by
  unfold pathCheck
  rw [if_neg (not_not_intro off)]
  cases port : indexOf 6 (byteAt p 1) with
  | none => rfl
  | some k =>
    have named := indexOf_eq_some.mp port
    dsimp only
    by_cases site : 7 < byteAt p 2 ∨ byteAt p 2 = s.ownSite.val
    · rw [if_pos site]
    · rw [if_neg site]
      rcases bad with big | big | own | ⟨j, hj, fails⟩
      · omega
      · exact absurd (.inl big) site
      · exact absurd (.inr own) site
      · obtain rfl : j = k := Fin.ext (hj.symm.trans named)
        split
        · rfl
        · next fits => rw [if_pos (fails.resolve_left fits)]

theorem pathCheck_good {q : PathNo} {p : List Byte} {s : State} {k : PortNo} {r : Site} (off : s.paths[q].state = .off)
    (port : byteAt p 1 = k.val) (site : byteAt p 2 = r.val) (remote : r ≠ s.ownSite)
    (drop : byteAt p 3 ≠ 0 ∨ s.ports[k].kind = .fibre) (fits : byteAt p 3 ≤ s.ports[k].chain.length) :
    pathCheck q p s = .none := by
  have other : ¬ (7 < byteAt p 2 ∨ byteAt p 2 = s.ownSite.val) := by
    rintro (big | own)
    · omega
    · exact remote (Fin.ext (site.symm.trans own))
  have hops : ¬ (byteAt p 3 = 0 ∧ s.ports[k].kind = .radio) := by
    rintro ⟨zero, radio⟩
    exact drop.elim (· zero) fun fibre => nomatch fibre.symm.trans radio
  unfold pathCheck
  rw [if_neg (not_not_intro off), indexOf_eq_some.mpr port]
  dsimp only
  rw [if_neg other, if_neg hops, if_neg (Nat.not_lt.mpr fits)]

theorem setPath_refuses {q : PathNo} {p : List Byte} {s : State} {e : ErrorCode} (named : byteAt p 0 = q.val)
    (fails : pathCheck q p s = e) (bad : e ≠ .none) : setPath p s = refuse e s := by
  unfold setPath
  rw [indexOf_eq_some.mpr named]
  dsimp only
  rw [fails]
  split
  · exact absurd rfl bad
  · rfl

theorem setPath_sets {q : PathNo} {p : List Byte} {s : State} (named : byteAt p 0 = q.val)
    (passes : pathCheck q p s = .none) : setPath p s = applied (unlistPath q (s.configured q p)) := by
  unfold setPath
  rw [indexOf_eq_some.mpr named]
  dsimp only
  rw [passes]
  rfl

/-! ## Changes of hops and ports (R20, R31) -/

theorem Sends.withHops {s t : State} (h : Sends s t) (hops : Vector HopRec 96) :
    Sends { s with hops := hops } { t with hops := hops } :=
  { h with outside := congrArg (fun x : State => { x with hops := hops }) h.outside }

theorem Sends.withPorts {s t : State} (h : Sends s t) (ports : Vector PortRec 6) :
    Sends { s with ports := ports } { t with ports := ports } :=
  { h with outside := congrArg (fun x : State => { x with ports := ports }) h.outside }

/-- Hops have changed, and what follows from it has been handed on: nothing else but what sending touches. -/
def Rehops (s t : State) : Prop := Sends { s with hops := t.hops } t

namespace Rehops

theorem of_sends {s t : State} (h : Sends s t) : Rehops s t := by
  unfold Rehops
  rw [h.hops]
  exact h

theorem trans {s t u : State} (h : Rehops s t) (k : Rehops t u) : Rehops s u :=
  (Sends.withHops h u.hops).trans k

theorem overAll {α : Type} (l : List α) (f : α → State → State) (h : ∀ a s, Rehops s (f a s)) (s : State) :
    Rehops s (overAll l f s) :=
  overAll_induct (Rehops s) l f (fun a _ u hu => hu.trans (h a u)) s (.of_sends (.refl s))

end Rehops

theorem updHop_rehops (h : HopNo) (f : HopRec → HopRec) (s : State) : Rehops s (s.updHop h f) := Sends.refl _

theorem changeHop_rehops (h : HopNo) (f : HopRec → HopRec) (s : State) : Rehops s (changeHop h f s) :=
  (updHop_rehops h f s).trans (.of_sends (changeHop_sends h f s))

theorem rehop_rehops (place : Option (PortNo × Nat)) (h : HopNo) (s : State) : Rehops s (rehop place h s) :=
  (updHop_rehops h _ s).trans (.of_sends (noteHop_sends _ h _))

theorem rehop_codes (place : Option (PortNo × Nat)) (h : HopNo) (s : State) : (rehop place h s).codes = s.codes :=
  codes_of_tx (noteHop_tx _ h _)

theorem moveReportTimer_rehops (ms : Nat) (h : HopNo) (s : State) : Rehops s (moveReportTimer ms h s) := by
  unfold moveReportTimer
  split
  · dsimp only
    split
    · exact changeHop_rehops h _ s
    · exact updHop_rehops h _ s
  · exact .of_sends (.refl s)

theorem moveReportTimer_codes (ms : Nat) (h : HopNo) (s : State) : (moveReportTimer ms h s).codes = s.codes := by
  unfold moveReportTimer
  split
  · dsimp only
    split
    · exact changeHop_codes h _ s
    · rfl
  · rfl

theorem codes_get (s : State) (j : PortNo) : s.codes[j] = s.tx[j].codes := Vector.getElem_map _ _

theorem recomputePort_codes (k : PortNo) (s : State) : (recomputePort k s).codes = s.codes := by
  refine overAll_keeps State.codes _ _ (fun p u => ?_) s
  split <;> rfl

/-- A command that leaves CMD and the own requests as a state that only sends does is Done. -/
theorem Sends.done_from {s v u : State} {b : BlockNo} {rest : List BlockNo} (sends : Sends v u)
    (cmd : v.cmd = (s.taken b rest).cmd) (mi : v.mi = s.mi) (free : s.cmd.exec = none) (e : ErrorCode)
    (results : List (Nat × List Byte)) : s.Done (flush (complete b e 0 results u)) b rest e results := by
  have windows : u.mi.windows[14].base = v.mi.windows[14].base :=
    congrArg (fun x : State => x.mi.windows[14].base) (a₁ := u.outsideSending) (a₂ := v.outsideSending) sends.outside
  refine complete_done e results (sends.blocks.trans (by rw [cmd])) (sends.pending.trans (by rw [cmd]; rfl))
    (sends.exec (by rw [cmd]; exact free)) (sends.enables.trans (by rw [cmd]; rfl)) (sends.save.trans (by rw [cmd]; rfl))
    (sends.runNo.trans (by rw [cmd]; rfl)) (windows.trans (by rw [mi])) fun line w tag owed => sends.owes line w tag ?_
  unfold State.owes at owed ⊢
  rwa [mi]

/-- What SET_PORT makes of a port's record, the chain it keeps or loses apart. -/
def PortRec.numbered (kind : PortKind) (p : List Byte) (x : PortRec) : PortRec :=
  { x with
    kind := kind
    timeoutMs := clampNat 1 1000 (field p 6 2)
    fibreRate := clampRate (field p 8 4)
    rates := (Vector.finRange 7).map (fun i => clampRate (field p (12 + 4 * i.val) 4)) }

/-- The port's record and its transmitter's codes, stored before the hops are told. -/
def State.portNumbered (k : PortNo) (kind : PortKind) (p : List Byte) (s : State) : State :=
  (s.updPort k (PortRec.numbered kind p)).updTx k (fun t =>
    { t with holdoffCode := min 7 (byteAt p 3), ceilingCode := min 3 (byteAt p 4) })

/-- SET_PORT without a list: the numbers are stored, hops change, and a FIBRE port's chain is emptied. -/
theorem applyPort_plain (k : PortNo) (kind : PortKind) (p : List Byte) (s : State) : ∃ w : State,
    Rehops (s.portNumbered k kind p) w ∧ w.codes = (s.portNumbered k kind p).codes ∧
    applyPort k kind none p s =
      recomputePort k (if kind = .fibre then w.updPort k (fun x => { x with chain := [] }) else w) := by
  have numbers : setPortNumbers k p (s.updPort k (fun x => { x with kind := kind })) = s.portNumbered k kind p := by
    unfold setPortNumbers State.portNumbered State.updPort
    rw [updAt_updAt]
    rfl
  unfold applyPort
  dsimp only
  rw [numbers]
  by_cases fibre : kind = .fibre
  · simp only [if_pos fibre]
    exact ⟨overAll _ (rehop none) _, .overAll _ _ (rehop_rehops none) _, overAll_keeps State.codes _ _ (rehop_codes none) _,
      rfl⟩
  · simp only [if_neg fibre]
    exact ⟨overAll _ (moveReportTimer _) _, .overAll _ _ (moveReportTimer_rehops _) _,
      overAll_keeps State.codes _ _ (moveReportTimer_codes _) _, rfl⟩

end Sys2Proof.Machine

open Sys2Proof Sys2Proof.Machine

/-- Settles O45: the checks in their order; a path that passes is configured and leaves the lists of other routes. -/
theorem pathIsSet : Obligations.PathIsSet := by
  intro s b rest p takes
  refine ⟨fun high => immediate_refuses takes ?_, fun q named on => immediate_refuses takes ?_,
    fun q named off bad => immediate_refuses takes ?_, fun q k r named off port site remote drop fits => ?_⟩
  · unfold setPath
    rw [show indexOf 16 (byteAt p 0) = none from dif_neg (by omega)]
  · exact setPath_refuses named (if_pos on) nofun
  · exact setPath_refuses named (pathCheck_bad (s := s.taken b rest) off bad) nofun
  · have does := setPath_sets named (pathCheck_good (s := s.taken b rest) off port site remote drop fits)
    obtain ⟨v, hv⟩ : ∃ v, v = (s.taken b rest).configured q p := ⟨_, rfl⟩
    rw [← hv] at does
    have self := configured_self q p (s.taken b rest)
    rw [configure_eq port site, ← hv] at self
    have others : ∀ x : PathNo, x ≠ q → v.paths[x] = s.paths[x] := by
      intro x other
      rw [hv, State.configured, recompute, updPath_other other, updPath_other other]
      rfl
    have sent : Sends (s.taken b rest) v := by
      rw [hv]
      exact (updPath_sends q _ _).trans (recompute_sends q _)
    have sends := sent.trans (unlistPath_sends q v)
    have ended := flush_complete_outside b .none 0 [] (unlistPath q v)
    have same := (outsideRoutes_of_outside ended).trans (unlistPath_outsideRoutes q v)
    have paths := outsideRoutes_paths same
    refine ⟨_, immediate_applies takes does, sends.taken_done takes .none [], fun unlisted => ?_, ?_, fun x other => ?_, ?_⟩
    · have site : v.paths[q].site = r := by rw [self]
      have rs : v.rs = s.rs := by rw [hv]; rfl
      have stays : unlistPath q v = v := unlistPath_unlisted fun x other => by
        rw [site] at other
        rw [rs]
        exact unlisted x other
      have causes : v.cmd.causes = s.cmd.causes := by rw [hv]; rfl
      rw [stays] at ended ⊢
      exact ⟨ended_raisedNothing causes, (outside_rs_eq ended).trans rs⟩
    · have derived := derived_congr (q := q) (paths.trans rfl : _ = v.paths)
        ((outside_ports_eq ended).trans (unlistPath_sends q v).ports)
        ((outside_hops_eq ended).trans (unlistPath_sends q v).hops)
      rw [derived.1, derived.2, paths]
      exact self
    · rw [paths, others x other]
    · rw [outsideRoutes_outside same, paths, hv]
      rfl

/-- Settles O43: the numbers are stored whatever the kind, and a FIBRE port loses its chain. -/
theorem portIsSet : Obligations.PortIsSet := by
  intro s b rest p k kind takes noList named code off
  obtain ⟨v, hv⟩ : ∃ v, v = (s.taken b rest).portNumbered k kind p := ⟨_, rfl⟩
  obtain ⟨w, hops, codes, applies⟩ := applyPort_plain k kind p (s.taken b rest)
  rw [← hv] at hops codes
  obtain ⟨x, hx⟩ : ∃ x, x = if kind = .fibre then w.updPort k (fun x => { x with chain := [] }) else w := ⟨_, rfl⟩
  rw [← hx] at applies
  have comes : setPort b s.cmd.blocks[b].copy (s.taken b rest) =
      complete b .none 0 [] (applyPort k kind none p (s.taken b rest)) := by
    have known : portKindOf (byteAt p 1) = some kind := by
      rw [code]
      cases kind <;> rfl
    have unused : ¬ portInUse (s.taken b rest) k = true := by
      rw [portInUse_iff]
      rintro ⟨q, port, on⟩
      exact on (off q port)
    unfold setPort
    dsimp only
    rw [takes.params, indexOf_eq_some.mpr named, known]
    dsimp only
    rw [if_neg unused]
    exact if_pos (by rw [listPointer, noList]; rfl)
  have runs := command_takes takes (· == 2) rfl setPort
  rw [comes, applies] at runs
  have portsX : x.ports = (if kind = .fibre then updAt v.ports k (fun x => { x with chain := [] }) else v.ports) := by
    rw [hx]
    split
    · rw [State.updPort_ports, hops.ports]
    · exact hops.ports
  have sends : Sends { v with hops := x.hops, ports := x.ports } (recomputePort k x) := by
    refine Sends.trans ?_ (recomputePort_sends k x)
    have sameHops : x.hops = w.hops := by
      rw [hx]
      split <;> rfl
    have same : { w with ports := x.ports } = x := by
      rw [hx]
      split <;> rfl
    have := Sends.withPorts hops x.ports
    rw [same] at this
    rw [sameHops]
    exact this
  have codesX : x.codes = v.codes := by
    rw [← codes, hx]
    split <;> rfl
  obtain ⟨t, ht⟩ : ∃ t, t = flush (complete b .none 0 [] (recomputePort k x)) := ⟨_, rfl⟩
  have ended : t.outside = (recomputePort k x).outside := by
    rw [ht]
    exact flush_complete_outside b .none 0 [] (recomputePort k x)
  have ports : t.ports = x.ports := (outside_ports_eq ended).trans sends.ports
  have portsV : v.ports = updAt s.ports k (PortRec.numbered kind p) := by rw [hv]; rfl
  have txCodes : ∀ j : PortNo, t.tx[j].codes = v.tx[j].codes := by
    intro j
    have all : t.codes = v.codes := by
      rw [codes_of_tx (outside_tx_eq ended), recomputePort_codes, codesX]
    rw [← codes_get, all, codes_get]
  have txV : v.tx = updAt s.tx k (fun t =>
      { t with holdoffCode := min 7 (byteAt p 3), ceilingCode := min 3 (byteAt p 4) }) := by rw [hv]; rfl
  have portK : t.ports[k] = { s.ports[k].numbered kind p with
      chain := if kind = .fibre then [] else s.ports[k].chain } := by
    rw [ports, portsX, portsV, Fin.getElem_fin]
    split
    · rw [updAt_self, updAt_self]
      rfl
    · rw [updAt_self]
      rfl
  have portJ : ∀ j : PortNo, j ≠ k → t.ports[j] = s.ports[j] := by
    intro j other
    rw [ports, portsX, portsV, Fin.getElem_fin]
    split
    · rw [updAt_other _ _ _ _ other, updAt_other _ _ _ _ other]
      rfl
    · rw [updAt_other _ _ _ _ other]
      rfl
  have codesK : t.tx[k].codes = (min 7 (byteAt p 3), min 3 (byteAt p 4)) := by
    rw [txCodes k, txV, Fin.getElem_fin, updAt_self]
    rfl
  refine ⟨t, by rw [ht]; exact runs, ?_, ?_, ?_, ?_, ?_, fun i => ?_, ?_, ?_, fun j other => ?_, ?_⟩
  · rw [ht]
    exact sends.done_from (by rw [hv]; rfl) (by rw [hv]; rfl) takes.free .none []
  · rw [portK]
    rfl
  · rw [portK]
  · rw [portK]
    rfl
  · rw [portK]
    rfl
  · rw [portK]
    simp [PortRec.numbered, clampRate, clampNat]
  · exact congrArg Prod.fst codesK
  · exact congrArg Prod.snd codesK
  · have codesJ : t.tx[j].codes = s.tx[j].codes := by
      rw [txCodes j, txV, Fin.getElem_fin, updAt_other _ _ _ _ other]
      rfl
    exact ⟨portJ j other, congrArg Prod.fst codesJ, congrArg Prod.snd codesJ⟩
  · rw [outsideSending_of_outside ended, sends.outside, ports, show t.hops = x.hops from
      (outside_hops_eq ended).trans sends.hops, hv]
    rfl

end

section
/-! SUPPORT. The statement about a link lost. -/

namespace Sys2Proof.Machine

-- One proof at a time: each would otherwise hold a thread of its own.
set_option Elab.async false

/-! ## The order of a batch (R72) -/

theorem insertMsg_eq (m : Msg) (ms : List Msg) :
    insertMsg m ms = List.orderedInsert (fun a b : Msg => a.before b = true) m ms := by
  induction ms with
  | nil => rfl
  | cons x xs ih =>
    unfold insertMsg
    rw [ih]
    rfl

theorem batchOrder_eq (ms : List Msg) : batchOrder ms = List.insertionSort (fun a b : Msg => a.before b = true) ms := by
  unfold batchOrder
  rw [show insertMsg = List.orderedInsert (fun a b : Msg => a.before b = true) from
    funext fun m => funext (insertMsg_eq m)]
  rfl

theorem before_iff {a b : Msg} :
    a.before b = true ↔ a.capture < b.capture ∨ (a.capture = b.capture ∧ a.mark ≤ b.mark) :=
  decide_eq_true_iff

theorem before_total (a b : Msg) : a.before b = true ∨ b.before a = true := by
  rw [before_iff, before_iff]
  simp only [BitVec.lt_def, BitVec.le_def, ← BitVec.toNat_inj]
  omega

theorem before_trans {a b c : Msg} (ab : a.before b = true) (bc : b.before c = true) : a.before c = true := by
  rw [before_iff] at ab bc ⊢
  simp only [BitVec.lt_def, BitVec.le_def, ← BitVec.toNat_inj] at ab bc ⊢
  omega

theorem batchOrder_pairwise (ms : List Msg) :
    (batchOrder ms).Pairwise (fun a b => a.capture < b.capture ∨ (a.capture = b.capture ∧ a.mark ≤ b.mark)) := by
  have : Std.Total (fun a b : Msg => a.before b = true) := ⟨before_total⟩
  have : IsTrans Msg (fun a b : Msg => a.before b = true) := ⟨fun _ _ _ => before_trans⟩
  rw [batchOrder_eq]
  exact (List.pairwise_insertionSort _ ms).imp before_iff.mp

theorem batchOrder_perm (ms : List Msg) : (batchOrder ms).Perm ms := by
  rw [batchOrder_eq]
  exact List.perm_insertionSort _ ms

theorem batchOrder_nil_iff {ms : List Msg} : batchOrder ms = [] ↔ ms = [] :=
  ⟨fun h => List.perm_nil.mp (h ▸ (batchOrder_perm ms).symm), fun h => by rw [h]; rfl⟩

/-! ## An emptied transmitter (R125) -/

/-- A transmitter that holds nothing. -/
def Transmitter.isEmptied (t : Transmitter) : Prop := t.emptied = t

theorem without_emptied {p : PathNo} {t : Transmitter} (h : t.isEmptied) : t.without p = t := by
  unfold Transmitter.isEmptied at h
  rw [← h]
  rfl

theorem without_isEmptied {p : PathNo} {t : Transmitter} (h : t.isEmptied) : (t.without p).isEmptied := by
  rw [without_emptied h]
  exact h

theorem messagesOf_emptied {p : PathNo} {t : Transmitter} (h : t.isEmptied) : t.messagesOf p = [] := by
  unfold Transmitter.isEmptied at h
  rw [← h]
  rfl

theorem countDisplaced_emptied {t : Transmitter} (removed : List Msg) (h : t.isEmptied) :
    (t.countDisplaced removed).isEmptied :=
  congrArg (Transmitter.countDisplaced removed) h

theorem lineChoice_down {k : PortNo} {s : State} (down : s.link[k] = false) : lineChoice k s = s := by
  refine lineChoice_busy ?_
  unfold lineFree
  rw [down]
  rfl

/-- A departure from a port whose link is lost, and which holds nothing, changes no queue and forms no batch. -/
theorem departPath_emptied {p : PathNo} {s : State} (down : s.link[s.paths[p].port] = false)
    (emptied : s.tx[s.paths[p].port].isEmptied) :
    (departPath p s).tx[s.paths[p].port].isEmptied ∧ (departPath p s).rs.batches = s.rs.batches := by
  have link : (departed p s).link = s.link := by
    unfold departed
    exact ((updTx_sends _ _ s).trans (displace_sends _ _ _)).link
  have tx := departed_tx p s
  have batches : (departed p s).rs.batches = s.rs.batches := by
    unfold departed
    rw [messagesOf_emptied emptied, displace_batches]
    exact List.append_nil _
  rw [departPath_eq, lineChoice_down (by rw [link]; exact down)]
  refine ⟨?_, batches⟩
  rw [tx, Fin.getElem_fin, updAt_self]
  exact countDisplaced_emptied _ (without_isEmptied emptied)

theorem notifyPath_emptied {wasUp : Bool} {p : PathNo} {s : State} (down : s.link[s.paths[p].port] = false)
    (emptied : s.tx[s.paths[p].port].isEmptied) :
    (notifyPath wasUp p s).tx[s.paths[p].port].isEmptied ∧ (notifyPath wasUp p s).rs.batches = s.rs.batches := by
  obtain ⟨u, routes, up, still⟩ := notifyPath_up p s
  have paths := outsideRoutes_paths routes
  have tx := outsideRoutes_tx routes
  have batches := outsideRoutes_batches routes
  have link : u.link = s.link := congrArg (·.link) routes
  cases wasUp
  · rw [still, tx]
    exact ⟨emptied, batches⟩
  · have := departPath_emptied (p := p) (s := u) (by simp only [paths, link]; exact down)
      (by simp only [paths, tx]; exact emptied)
    rw [up]
    simp only [paths, batches] at this
    exact this

theorem leaves_emptied {st : PathState} {p : PathNo} {s : State} (down : s.link[s.paths[p].port] = false)
    (emptied : s.tx[s.paths[p].port].isEmptied) :
    (leaves st p s).tx[s.paths[p].port].isEmptied ∧ (leaves st p s).rs.batches = s.rs.batches := by
  obtain ⟨u, hu⟩ : ∃ u, u = s.updPath p (PathRec.quiet st) := ⟨_, rfl⟩
  have port : u.paths[p].port = s.paths[p].port := by
    rw [hu, updPath_self]
    rfl
  have tx : (withdrawProbe p u).tx[s.paths[p].port].isEmptied := by
    rw [withdrawProbe, State.updTx_tx]
    simp only [port]
    rw [Fin.getElem_fin, updAt_self, hu]
    split
    · exact congrArg (fun t : Transmitter => { t with probe := none }) emptied
    · exact emptied
  obtain ⟨v, hv⟩ : ∃ v, v = withdrawProbe p u := ⟨_, rfl⟩
  have portV : v.paths[p].port = s.paths[p].port := by
    rw [hv]
    exact port
  have link : v.link = s.link := by
    rw [hv, hu]
    rfl
  have batches : v.rs.batches = s.rs.batches := by
    rw [hv, hu]
    rfl
  rw [← hv] at tx
  have kept := notifyPath_emptied (wasUp := s.paths[p].state == .up) (p := p) (s := v)
    (by simp only [portV, link]; exact down) (by simp only [portV]; exact tx)
  simp only [portV, batches] at kept
  unfold leaves
  rw [← hu, ← hv]
  exact kept

theorem passable_down {p : PathNo} {s : State} (down : s.link[s.paths[p].port] = false) : passable s p = false := by
  unfold passable
  rw [down]
  rfl

theorem pathDown_inactive {p : PathNo} {s : State} (still : ¬ (s.paths[p].state = .probing ∨ s.paths[p].state = .up)) :
    pathDown p s = s :=
  if_neg fun h => still (h.imp_right fun e => by simpa using e)

/-- A path of a port whose link is lost goes DOWN and stays there. -/
theorem pathDown_stays {p : PathNo} {s : State} (active : s.paths[p].state = .probing ∨ s.paths[p].state = .up)
    (down : s.link[s.paths[p].port] = false) : pathDown p s = leaves .down p s := by
  have self := leaves_self .down p s
  have port : (leaves .down p s).paths[p].port = s.paths[p].port := by rw [self]; rfl
  have lost := passable_down (p := p) (s := leaves .down p s) (by
    simp only [port, (leaves_sends .down p s).link]
    exact down)
  rw [pathDown_eq active, evalDown, if_neg (by rw [lost]; exact fun h => nomatch h.2)]

theorem pathDown_lost {p : PathNo} {k : PortNo} {s : State} (port : s.paths[p].port = k) (down : s.link[k] = false) :
    (pathDown p s).paths[p].state ≠ .probing ∧ (pathDown p s).paths[p].state ≠ .up := by
  subst port
  by_cases active : s.paths[p].state = .probing ∨ s.paths[p].state = .up
  · rw [pathDown_stays active down, leaves_self]
    exact ⟨nofun, nofun⟩
  · rw [pathDown_inactive active]
    exact not_or.mp active

theorem pathDown_emptied {p : PathNo} {k : PortNo} {s : State} (port : s.paths[p].port = k) (down : s.link[k] = false)
    (emptied : s.tx[k].isEmptied) : (pathDown p s).tx[k].isEmptied ∧ (pathDown p s).rs.batches = s.rs.batches := by
  subst port
  by_cases active : s.paths[p].state = .probing ∨ s.paths[p].state = .up
  · rw [pathDown_stays active down]
    exact leaves_emptied down emptied
  · rw [pathDown_inactive active]
    exact ⟨emptied, rfl⟩

theorem pathDown_others {p q : PathNo} (other : q ≠ p) (s : State) : (pathDown p s).paths[q].bare = s.paths[q].bare := by
  unfold pathDown
  dsimp only
  split
  · exact (evalDown_others other (leaves .down p s)).trans (leaves_others other .down s)
  · rfl

/-- A port whose link is lost, and which holds nothing, forms no batch as its paths go DOWN. -/
theorem downPort_emptied {k : PortNo} {s : State} (down : s.link[k] = false) (emptied : s.tx[k].isEmptied) :
    (downPort k s).tx[k].isEmptied ∧ (downPort k s).rs.batches = s.rs.batches := by
  have kept := overAll_induct (fun u => Sends s u ∧ u.tx[k].isEmptied ∧ u.rs.batches = s.rs.batches) allPaths
    (fun p u => if u.paths[p].port = k then pathDown p u else u)
    (fun p _ u hu => by
      obtain ⟨sent, empty, batches⟩ := hu
      split
      · next port =>
        obtain ⟨tx, same⟩ := pathDown_emptied port (by rw [sent.link]; exact down) empty
        exact ⟨sent.trans (pathDown_sends p u), tx, same.trans batches⟩
      · exact ⟨sent, empty, batches⟩) s ⟨.refl s, emptied, rfl⟩
  have turns : downPort k s = overAll allPaths (fun p u => if u.paths[p].port = k then pathDown p u else u) s := rfl
  rw [turns]
  exact kept.2

theorem downPort_states {k : PortNo} {s : State} (down : s.link[k] = false) (p : PathNo) :
    (s.paths[p].port = k → (downPort k s).paths[p].state ≠ .probing ∧ (downPort k s).paths[p].state ≠ .up) ∧
    (s.paths[p].port ≠ k → (downPort k s).paths[p].state = s.paths[p].state) := by
  obtain ⟨-, into⟩ := overAll_pathwise
    (f := fun (p : PathNo) (s : State) => if s.paths[p].port = k then pathDown p s else s)
    (fun p u => by
      split
      · exact pathDown_sends p u
      · exact .refl u)
    (fun p q u other => by
      split
      · exact pathDown_others other u
      · rfl) (List.nodup_finRange 16) s
  obtain ⟨u, sent, same, turn⟩ := into p (List.mem_finRange p)
  have state : (downPort k s).paths[p].state = _ := bare_state turn
  rw [state, ← bare_port same, ← bare_state same]
  refine ⟨fun port => ?_, fun port => ?_⟩
  · rw [if_pos port]
    exact pathDown_lost port (by rw [sent.link]; exact down)
  · rw [if_neg port]

/-- The messages a link's loss removes from a transmitter, in the order held (R125). -/
def Transmitter.allMessages (t : Transmitter) : List Msg :=
  t.lineMessages ++ t.urgent.flatMap UFrame.msgs ++ t.bulk.flatMap (·.msgs) ++ (t.ctx.map (·.frame.msgs)).getD []

/-- The link loss at the transmitter: it holds nothing, and its primaries form one batch, if there are any (R125). -/
theorem linkLostTx_lost (k : PortNo) (s : State) : (linkLostTx k s).tx[k].isEmptied ∧
    (linkLostTx k s).rs.batches = s.rs.batches ++ (if s.tx[k].allMessages.filter (fun m => !m.dual) = [] then []
      else [⟨k, batchOrder (s.tx[k].allMessages.filter (fun m => !m.dual))⟩]) ∧
    (linkLostTx k s).paths = s.paths := by
  obtain ⟨u, hu⟩ : ∃ u, u = if s.tx[k].line.isSome then s.emit (.abort k) else s := ⟨_, rfl⟩
  obtain ⟨f, hf⟩ : ∃ f : Transmitter → Transmitter, f = fun t => { t.emptied with counters :=
    if t.line.isSome then { t.counters with aborts := t.counters.aborts + 1 } else t.counters } := ⟨_, rfl⟩
  have eq : linkLostTx k s = displace k s.tx[k].allMessages (u.updTx k f) := by
    rw [hu, hf]
    rfl
  have same : u.tx = s.tx ∧ u.rs = s.rs ∧ u.paths = s.paths := by
    rw [hu]
    split <;> exact ⟨rfl, rfl, rfl⟩
  obtain ⟨tx, rs, paths⟩ := same
  rw [eq]
  refine ⟨?_, ?_, ?_⟩
  · rw [displace_tx, State.updTx_tx, Fin.getElem_fin, updAt_self, updAt_self]
    refine countDisplaced_emptied _ ?_
    rw [hf]
    rfl
  · rw [displace_batches, State.updTx_rs, rs]
  · rw [displace_paths, State.updTx_paths, paths]

end Sys2Proof.Machine

open Sys2Proof Sys2Proof.Machine

/-- Settles O26: the transmitter is emptied into one ordered batch before the receiver and the paths are told. -/
theorem linkLossEmptiesPort : Obligations.LinkLossEmptiesPort := by
  intro s k ready up free
  obtain ⟨u, hu⟩ : ∃ u, u = changeLink k false (setInput k false s.quiet) := ⟨_, rfl⟩
  have outside : u.outside =
      { s with link := updAt s.link k (fun _ => false), linkInput := updAt s.linkInput k (fun _ => false) }.outside := by
    rw [hu, changeLink_outside]
    rfl
  have exec_none : (linkLostTx k u).cmd.exec = none := by
    refine (linkLostTx_sends k u).exec ?_
    rw [hu]
    exact (raise_sends _ _).exec ((markStale_sends _ _).exec free)
  obtain ⟨v, hv⟩ : ∃ v, v = linkLostRx k (linkLostTx k u) := ⟨_, rfl⟩
  have comes : linkLost k s.quiet = downPort k v := by
    have test : testLinkLost k v = v := by
      unfold testLinkLost
      rw [show v.cmd.exec = none by rw [hv]; exact exec_none]
    refine (if_pos (Bool.and_eq_true_iff.mpr ⟨ready, up⟩)).trans ?_
    rw [← hu, ← hv, test]
  obtain ⟨emptied, batches, paths⟩ := linkLostTx_lost k u
  have link : v.link = updAt s.link k (fun _ => false) := by
    rw [hv]
    exact (linkLostTx_sends k u).link.trans (outside_link_eq outside)
  have down : v.link[k] = false := by
    rw [link]
    exact updAt_self _ _ _
  have emptiedV : v.tx[k].isEmptied := by
    rw [hv]
    exact emptied
  obtain ⟨t, ht⟩ : ∃ t, t = flush (downPort k v) := ⟨_, rfl⟩
  have sends : Sends v t := by
    rw [ht]
    exact (downPort_sends k v).trans (flush_sends _)
  obtain ⟨emptiedT, kept⟩ := downPort_emptied down emptiedV
  have tx : t.tx[k].emptied = t.tx[k] := by
    rw [ht, flush_tx]
    exact emptiedT
  have rx : t.rx = updAt s.rx k (fun r => { r with
      ctx := none, reception := none
      counters := if r.reception.isSome then { r.counters with aborted := r.counters.aborted + 1 } else r.counters }) := by
    rw [sends.rx, hv, linkLostRx, State.updRx_rx, (linkLostTx_sends k u).rx, outside_rx_eq outside]
  have rxK := (congrArg (fun v : Vector Receiver 6 => v[(k : Nat)]) rx).trans (updAt_self _ _ _)
  have linkT : t.link = updAt s.link k (fun _ => false) := sends.link.trans link
  have inputT : t.linkInput = updAt s.linkInput k (fun _ => false) := by
    rw [sends.linkInput, hv]
    exact (linkLostTx_sends k u).linkInput.trans (outside_linkInput_eq outside)
  have pathsV : v.paths = s.paths := by
    rw [hv]
    exact paths.trans (outside_paths_eq outside :)
  have states := downPort_states (k := k) (s := v) down
  simp only [pathsV] at states
  refine ⟨t, (run_eq _ s).trans (by rw [comes, ht]), ?_, ?_, congrArg (·.urgent) tx.symm, congrArg (·.bulk) tx.symm,
    congrArg (·.probe) tx.symm, congrArg (·.probeBack) tx.symm, congrArg (·.line) tx.symm, congrArg (·.ctx) tx.symm,
    congrArg (·.state) tx.symm, congrArg (·.holdoffDue) tx.symm,
    ⟨batchOrder (s.tx[k].allMessages.filter (fun m => !m.dual)), batchOrder_perm _, batchOrder_pairwise _, ?_⟩,
    congrArg (·.ctx) rxK, congrArg (·.reception) rxK, congrArg (·.counters) rxK, fun p port => ?_, fun p port => ?_,
    fun j other => ?_, ?_, ?_⟩
  · rw [linkT]
    exact updAt_self _ _ _
  · rw [inputT]
    exact updAt_self _ _ _
  · have rs : u.rs = s.rs := (outside_rs_eq outside :)
    have txU : u.tx = s.tx := (outside_tx_eq outside :)
    rw [ht, flush_rs, kept, hv]
    refine batches.trans ?_
    rw [rs, txU]
    exact congrArg _ (if_congr batchOrder_nil_iff.symm rfl rfl)
  · rw [ht, flush_paths]
    exact (states p).1 port
  · rw [ht, flush_paths]
    exact (states p).2 port
  · rw [linkT, rx]
    exact ⟨updAt_other _ _ _ _ other, updAt_other _ _ _ _ other⟩
  · refine sends.causes _ ?_
    rw [hv]
    refine (linkLostTx_sends k u).causes _ ?_
    rw [hu]
    exact raise_hasCause _ _
  · have sent : v.outsideSending = { u with rx := v.rx }.outsideSending := by
      have same : v = { linkLostTx k u with rx := v.rx } := by rw [hv]; rfl
      rw [same]
      exact congrArg (fun x : State => { x with rx := v.rx }) (linkLostTx_sends k u).outside
    rw [sends.outside, linkT, inputT, sends.rx, sent]
    exact congrArg (fun x : State => { x with rx := v.rx }) (outsideSending_of_outside outside)

end

section
/-! SUPPORT. What reports make of a record's destinations, and the statement about a port's completions. -/

namespace Sys2Proof.Machine

-- One proof at a time: each would otherwise hold a thread of its own.
set_option Elab.async false

/-! ## A report about one copy (R105) -/

theorem recordOf_updRecord_other {s : State} {hdr other : Nat} {f : Record → Record} (differ : other ≠ hdr)
    (keeps : ∀ r, r.hdr = hdr → (f r).hdr = hdr) : (s.updRecord hdr f).recordOf other = s.recordOf other := by
  have test : (fun r : Record => r.hdr == other) ∘ (fun r => if r.hdr = hdr then f r else r) =
      (fun r => r.hdr == other) := by
    funext r
    simp only [Function.comp_apply]
    split
    · next same => rw [keeps r same, same]
    · rfl
  rw [State.recordOf, State.updRecord, List.find?_map, test, ← State.recordOf]
  cases found : s.recordOf other with
  | none => rfl
  | some r =>
    have line := recordOf_hdr found
    simp [line, differ]

theorem recordOf_of_cu {s t : State} (h : t.cu = s.cu) (hdr : Nat) : t.recordOf hdr = s.recordOf hdr := by
  unfold State.recordOf
  rw [h]

theorem closeIfSettled_other {s : State} {hdr other : Nat} (differ : other ≠ hdr) :
    (closeIfSettled hdr s).recordOf other = s.recordOf other := by
  unfold closeIfSettled
  split
  · next r found =>
    split
    · have line := recordOf_hdr found
      unfold closeRecord
      rw [recordOf_of_cu (formGroup_cu _ _), line]
      exact recordOf_updRecord_other differ fun _ _ => rfl
    · rfl
  · rfl

/-- A record with one destination entry changed by a report. -/
def Record.reported (site : Site) (f : Dest → Dest) (r : Record) : Record :=
  { r with dests := updAt r.dests site (fun d => (f d).judge) }

theorem reportDest_other {s : State} {hdr other : Nat} {site : Site} {f : Dest → Dest} (differ : other ≠ hdr) :
    (reportDest hdr site f s).recordOf other = s.recordOf other := by
  unfold reportDest
  split
  · split
    · rfl
    · rw [closeIfSettled_other differ]
      exact recordOf_updRecord_other differ fun _ line => line
  · rfl

/-- A report about an open record changes its destination's entry, and may close it. -/
theorem reportDest_reports {s : State} {hdr : Nat} {site : Site} {f : Dest → Dest} {r : Record}
    (found : s.recordOf hdr = some r) (open_ : r.phase ≠ .closing) :
    ∃ r', (reportDest hdr site f s).recordOf hdr = some r' ∧ r'.dests = (r.reported site f).dests := by
  have reported : (s.updRecord hdr (Record.reported site f)).recordOf hdr = some (r.reported site f) := by
    rw [recordOf_updRecord (f := Record.reported site f) fun _ line => line, found]
    rfl
  have eq : reportDest hdr site f s = closeIfSettled hdr (s.updRecord hdr (Record.reported site f)) := by
    unfold reportDest
    rw [found]
    exact if_neg open_
  rw [eq]
  exact (closeIfSettled_keeps reported).1

/-! ## The reports of a bulk frame's messages (R122) -/

/-- The outcome of a destination whose only copy, a primary, has been sent (R75). -/
def sentOutcome (re : Bool) : DestOutcome := if re then .rerouted else .sent

theorem copySent_primary (re : Bool) : ((Dest.live .queued re .absent).copySent false).judge =
    .settled (sentOutcome re) := by
  cases re <;> rfl

/-- A settled destination stays so, whatever copies are reported sent. -/
theorem reportSent_settled {m : Msg} {s : State} {hdr : Nat} {site : Site} {o : DestOutcome}
    (settled : ∃ r, s.recordOf hdr = some r ∧ r.dests[site] = .settled o) :
    ∃ r, (reportSent m s).recordOf hdr = some r ∧ r.dests[site] = .settled o := by
  obtain ⟨r, found, dest⟩ := settled
  by_cases here : hdr = m.slot
  · subst here
    by_cases closing : r.phase = .closing
    · refine ⟨r, ?_, dest⟩
      unfold reportSent reportDest
      rw [found]
      dsimp only
      rw [if_pos closing, found]
    · obtain ⟨r', found', dests⟩ := reportDest_reports (site := m.site) (f := Dest.copySent m.dual) found closing
      refine ⟨r', found', ?_⟩
      rw [dests, Record.reported, Fin.getElem_fin, updAt_get]
      split
      · next same =>
        rw [← same, show r.dests[(site : Nat)] = .settled o from dest]
        rfl
      · exact dest
  · exact ⟨r, (reportDest_other here).trans found, dest⟩

/-- A primary that is its destination's only copy, once it is reported sent. -/
theorem reportSent_primary {m : Msg} {s : State} {r : Record} {re : Bool} (primary : m.dual = false)
    (found : s.recordOf m.slot = some r) (routing : r.phase = .routing)
    (live : r.dests[m.site] = .live .queued re .absent) :
    ∃ r', (reportSent m s).recordOf m.slot = some r' ∧ r'.dests[m.site] = .settled (sentOutcome re) := by
  obtain ⟨r', found', dests⟩ := reportDest_reports (site := m.site) (f := Dest.copySent m.dual) found
    (by rw [routing]; exact nofun)
  refine ⟨r', found', ?_⟩
  rw [dests, Record.reported, Fin.getElem_fin, updAt_self, show r.dests[(m.site : Nat)] = _ from live, primary,
    copySent_primary]

/-- Of the reports of a frame's messages, those of one slot's only message settle its destination. -/
theorem reportsSent_primary {m : Msg} {r : Record} {re : Bool} (primary : m.dual = false) (routing : r.phase = .routing)
    (live : r.dests[m.site] = .live .queued re .absent) {ms : List Msg} (alone : ∀ m' ∈ ms, m'.slot = m.slot → m' = m)
    (sent : m ∈ ms) {s : State} (found : s.recordOf m.slot = some r) :
    ∃ r', (overAll ms reportSent s).recordOf m.slot = some r' ∧ r'.dests[m.site] = .settled (sentOutcome re) := by
  induction ms generalizing s with
  | nil => exact absurd sent List.not_mem_nil
  | cons x xs ih =>
    by_cases same : x = m
    · subst same
      exact overAll_induct (fun u => ∃ r', u.recordOf x.slot = some r' ∧ r'.dests[x.site] = .settled (sentOutcome re))
        xs reportSent (fun _ _ _ => reportSent_settled) (reportSent x s) (reportSent_primary primary found routing live)
    · have differ : m.slot ≠ x.slot := fun e => same (alone x List.mem_cons_self e.symm)
      have later : m ∈ xs := (List.mem_cons.mp sent).resolve_left (Ne.symm same)
      exact ih (fun m' h => alone m' (List.mem_cons_of_mem x h)) later (s := reportSent x s)
        ((reportDest_other differ).trans found)

/-- What a line's choice, and the writing of what changed, leave of a destination. -/
theorem sent_dest {k : PortNo} {s : State} {hdr : Nat} {site : Site} {d : Dest}
    (had : ∃ r, s.recordOf hdr = some r ∧ r.dests[site] = d) :
    ∃ r, (flush (lineChoice k s)).recordOf hdr = some r ∧ r.dests[site] = d := by
  obtain ⟨r, found, dest⟩ := had
  obtain ⟨r', found', bare⟩ := recordOf_bareRecords (lineChoice_bareRecords k s) found
  have dests : r'.dests = r.dests := congrArg (·.dests) bare
  exact ⟨r', (recordOf_of_cu (flush_cu _) hdr).trans found', by rw [dests]; exact dest⟩

/-! ## A completion (R122) -/

theorem exec_frameComplete {k : PortNo} {s : State} {item : LineItem} {stamp : Stamp}
    (line : s.tx[k].line = some (item, stamp)) :
    exec (.frameComplete k) s = .next (flush (itemDone k item s.quiet)) := by
  refine (run_eq _ s).trans (congrArg (fun u => Host.Outcome.next (flush u)) ?_)
  unfold frameComplete
  rw [show s.quiet.tx[k].line = some (item, stamp) from line]

theorem clearLine_free {k : PortNo} {s : State} (link : s.link[k] = true) : lineFree k (clearLine k s) = true :=
  lineFree_iff.mpr ⟨link, congrArg Transmitter.line (updTx_self k _ s)⟩

/-- The choice of what to send, at the end of an event. -/
theorem lineChoice_ends (k : PortNo) (s : State) : Sends s (flush (lineChoice k s)) :=
  (lineChoice_sends k s).trans (flush_sends _)

theorem lineChoice_ends_tx {k j : PortNo} (other : j ≠ k) (s : State) :
    (flush (lineChoice k s)).tx[j] = s.tx[j] := by
  rw [flush_tx]
  exact lineChoice_tx other s

/-- The codes of the suspend ceiling (R120). -/
theorem ceilingNs_eq (code : Nat) :
    ceilingNs code = [some 128000, some 256000, some 512000, none].getD code none := by
  unfold ceilingNs
  match code with
  | 0 => rfl
  | 1 => rfl
  | 2 => rfl
  | 3 => rfl
  | n + 4 => simp

/-! ## A fragment's end (R118) -/

theorem atCeiling_iff {t : Transmitter} {c : BulkContext} {ceiling : Option Nat}
    (code : ceiling = [some 128000, some 256000, some 512000, none].getD t.ceilingCode none) :
    atCeiling t c = true ↔ ∃ limit, ceiling = some limit ∧ limit ≤ c.suspended := by
  rw [atCeiling, ceilingNs_eq, ← code]
  cases ceiling <;> simp

theorem fragmentBoundary_free {k : PortNo} {c : BulkContext} {s : State} (none_ : ¬ s.tx[k].hasWaiting) :
    fragmentBoundary k c s = startFragment k c s := by
  rw [← Transmitter.waits_iff, Bool.not_eq_true] at none_
  unfold fragmentBoundary
  simp only [none_, Bool.not_false, if_true]

theorem fragmentBoundary_held {k : PortNo} {c : BulkContext} {s : State} (waits : s.tx[k].hasWaiting)
    (held : atCeiling s.tx[k] c = true) : fragmentBoundary k c s = startFragment k c (s.updTx k (fun t =>
      { t with counters := { t.counters with ceilingHolds := t.counters.ceilingHolds + 1 } })) := by
  rw [← Transmitter.waits_iff] at waits
  unfold fragmentBoundary
  simp only [waits, held, Bool.not_true, Bool.false_eq_true, if_false, if_true]

/-- A transmitter whose bulk frame is set aside. -/
def Transmitter.suspended (c : BulkContext) (now : Nat) (t : Transmitter) : Transmitter :=
  { t with
    ctx := some { c with since := some now }
    counters := { t.counters with suspensions := t.counters.suspensions + 1 } }

theorem fragmentBoundary_suspends {k : PortNo} {c : BulkContext} {s : State} (waits : s.tx[k].hasWaiting)
    (below : ¬ atCeiling s.tx[k] c = true) :
    fragmentBoundary k c s = lineChoice k (s.updTx k (Transmitter.suspended c s.nowNs)) := by
  rw [← Transmitter.waits_iff] at waits
  unfold fragmentBoundary
  simp only [waits, below, Bool.not_true, Bool.false_eq_true, if_false]
  rfl

theorem fragmentBoundary_other {k j : PortNo} {c : BulkContext} {s : State} (other : j ≠ k) :
    (fragmentBoundary k c s).tx[j] = s.tx[j] := by
  have fragment : ∀ u : State, (startFragment k c u).tx[j] = u.tx[j] := fun u => by
    rw [startFragment_tx]
    exact updAt_other _ _ _ _ other
  by_cases waits : s.tx[k].hasWaiting
  · by_cases held : atCeiling s.tx[k] c = true
    · rw [fragmentBoundary_held waits held, fragment]
      exact updTx_other other _ _
    · rw [fragmentBoundary_suspends waits held, lineChoice_tx other]
      exact updTx_other other _ _
  · rw [fragmentBoundary_free waits, fragment]

end Sys2Proof.Machine

open Sys2Proof Sys2Proof.Machine

/-- Settles O23: the line is cleared, what it carried is reported, and the choice of what to send follows. -/
theorem primarySentSettles : Obligations.PrimarySentSettles := by
  refine ⟨fun s k m stamp r re line primary found routing live => ?_, fun s k f id i stamp line last => ?_,
    fun s k c i stamp ceiling line more ctx link limit => ?_, fun s k f id i stamp line link none_ bulk ctx => ?_⟩
  · obtain ⟨u, hu⟩ : ∃ u, u = (clearLine k s.quiet).updTx k (fun t =>
      { t with counters := { t.counters with urgentSent := t.counters.urgentSent + 1 } }) := ⟨_, rfl⟩
    have comes : itemDone k (.msg m) s.quiet = lineChoice k (reportSent m u) := by
      rw [hu]
      rfl
    have reported := reportSent_primary primary (s := u) (by rw [hu]; exact found) routing live
    have tx : (reportSent m u).tx = u.tx := outsideCapture_tx (reportDest_outsideCapture _ _ _ u)
    have sends : Sends s.quiet u := by
      rw [hu]
      exact (updTx_sends k _ _).trans (updTx_sends k _ _)
    obtain ⟨r', found', settled⟩ := sent_dest (k := k) reported
    refine ⟨_, r', (exec_frameComplete line).trans (by rw [comes]), found', settled, ?_, fun j other => ?_,
      ((sends.trans (reportDest_sends _ _ _ u)).trans (lineChoice_ends k _)).outside⟩
    · rw [flush_tx, (lineChoice_counters k _).1, tx, hu, updTx_self]
      exact congrArg (·.counters.urgentSent + 1) (updTx_self k _ s.quiet)
    · rw [lineChoice_ends_tx other, tx, hu, updTx_other other]
      exact updTx_other other _ _
  · obtain ⟨u, hu⟩ : ∃ u, u = (clearLine k s.quiet).updTx k (fun t =>
      { t with ctx := none, counters := { t.counters with bulkSent := t.counters.bulkSent + 1 } }) := ⟨_, rfl⟩
    have comes : itemDone k (.frag f id i false) s.quiet = lineChoice k (overAll f.msgs reportSent u) := by
      rw [hu]
      unfold itemDone fragmentDone
      dsimp only
      rw [if_neg Bool.false_ne_true, if_pos last]
    have capture : (overAll f.msgs reportSent u).outsideCapture = u.outsideCapture :=
      overAll_keeps State.outsideCapture f.msgs reportSent (fun _ _ => reportDest_outsideCapture _ _ _ _) u
    have tx := outsideCapture_tx capture
    have self : u.tx[k] = { s.tx[k] with
        line := none, ctx := none, counters := { s.tx[k].counters with bulkSent := s.tx[k].counters.bulkSent + 1 } } := by
      rw [hu, updTx_self, clearLine, updTx_self]
      rfl
    have sends : Sends s.quiet u := by
      rw [hu]
      exact (updTx_sends k _ _).trans (updTx_sends k _ _)
    have reports : Sends u (overAll f.msgs reportSent u) := .overAll _ _ (fun m v => reportDest_sends _ _ _ v) u
    refine ⟨_, (exec_frameComplete line).trans (by rw [comes]), ?_, fun m r re sent primary alone found routing live => ?_,
      fun link none_ bulk => ?_, fun j other => ?_, ((sends.trans reports).trans (lineChoice_ends k _)).outside⟩
    · rw [flush_tx, (lineChoice_counters k _).2, tx, self]
    · exact sent_dest (reportsSent_primary primary routing live alone sent (s := u) (by rw [hu]; exact found))
    · have free : lineFree k (overAll f.msgs reportSent u) = true := by
        rw [lineFree_iff, tx, self, (sends.trans reports).link]
        exact ⟨link, rfl⟩
      rw [flush_tx, lineChoice_idle free (by rw [tx, self]; exact none_) (by rw [tx, self]; exact bulk)
        (by rw [tx, self]), updTx_self, tx, self]
    · rw [lineChoice_ends_tx other, tx, hu, updTx_other other]
      exact updTx_other other _ _
  · have comes : itemDone k (.frag c.frame c.id i false) s.quiet = fragmentBoundary k c (clearLine k s.quiet) := by
      have kept : (clearLine k s.quiet).tx[k].ctx = some c := (congrArg (·.ctx) (updTx_self k _ s.quiet)).trans ctx
      unfold itemDone fragmentDone
      dsimp only
      rw [if_neg Bool.false_ne_true, if_neg more, kept]
    obtain ⟨u, hu⟩ : ∃ u, u = clearLine k s.quiet := ⟨_, rfl⟩
    rw [← hu] at comes
    have self : u.tx[k] = { s.tx[k] with line := none } := by
      rw [hu]
      exact updTx_self k _ _
    have waiting : u.tx[k].hasWaiting ↔ s.tx[k].hasWaiting := by rw [self]; exact Iff.rfl
    have atLimit := atCeiling_iff (t := u.tx[k]) (c := c) (ceiling := ceiling) (by rw [self]; exact limit)
    have stamp : u.tu.station = s.tu.station ∧ u.nowNs = s.nowNs := by rw [hu]; exact ⟨rfl, rfl⟩
    have sends : Sends s.quiet u := by rw [hu]; exact updTx_sends k _ _
    refine ⟨_, (exec_frameComplete line).trans (by rw [comes]), fun next isNext => ⟨fun none_ => ?_, fun x waits is past => ?_⟩,
      fun set isSet room => ?_, fun j other => ?_,
      ((sends.trans (fragmentBoundary_sends k c _)).trans (flush_sends _)).outside⟩
    · rw [flush_tx, fragmentBoundary_free fun w => none_ (waiting.mp w), startFragment_tx, Fin.getElem_fin, updAt_self,
        isNext, stamp.1]
      simp only [Fin.getElem_fin] at self ⊢
      rw [self]
    · rw [flush_tx, fragmentBoundary_held (waiting.mpr waits) (atLimit.mpr ⟨x, is, past⟩), startFragment_tx,
        Fin.getElem_fin, updAt_self, ← Fin.getElem_fin, updTx_self, self, isNext]
      simp [stamp.1]
    · have below : ¬ atCeiling u.tx[k] c = true := fun held => by
        obtain ⟨x, is, past⟩ := atLimit.mp held
        exact absurd (room x is) (Nat.not_lt.mpr past)
      obtain ⟨v, hv⟩ : ∃ v, v = u.updTx k (Transmitter.suspended c u.nowNs) := ⟨_, rfl⟩
      have aside : v.tx[k] = { s.tx[k] with
          line := none, ctx := some { c with since := some s.nowNs }
          counters := { s.tx[k].counters with suspensions := s.tx[k].counters.suspensions + 1 } } := by
        rw [hv, updTx_self, self, stamp.2]
        rfl
      have free : lineFree k v = true := by
        rw [lineFree_iff, aside, hv]
        exact ⟨(sends.link ▸ link : u.link[k] = true), rfl⟩
      have station : v.tu.station = s.tu.station := by rw [hv]; exact stamp.1
      have chosen : s.tx[k].hasWaiting → fragmentBoundary k c u = lineChoice k v := fun waits => by
        rw [fragmentBoundary_suspends (waiting.mpr waits) below, hv]
      rw [flush_tx]
      refine ⟨fun b back => ?_, fun p id back probe => ?_, fun x rest back probe urgent => ?_⟩
      · rw [chosen (.inl (by rw [back]; exact nofun)), lineChoice_probeBack free (b := b) (by rw [aside]; exact back),
          startItem_self, aside, isSet, station]
        rfl
      · rw [chosen (.inr (.inl (by rw [probe]; exact nofun))), lineChoice_probe free (p := p) (id := id)
          (by rw [aside]; exact back) (by rw [aside]; exact probe), startItem_self, aside, isSet, station]
        rfl
      · rw [chosen (.inr (.inr (by rw [urgent]; exact nofun))), lineChoice_urgent free (u := x) (rest := rest)
          (by rw [aside]; exact back) (by rw [aside]; exact probe) (by rw [aside]; exact urgent), startItem_self, aside,
          isSet, station]
        cases x <;> rfl
    · rw [flush_tx, fragmentBoundary_other other, hu]
      exact updTx_other other _ _
  · have comes : itemDone k (.frag f id i true) s.quiet = lineChoice k (clearLine k s.quiet) := by
      unfold itemDone fragmentDone
      dsimp only
      rw [if_pos rfl]
    have self : (clearLine k s.quiet).tx[k] = { s.tx[k] with line := none } := updTx_self k _ _
    have idle := lineChoice_idle (clearLine_free (s := s.quiet) link) (by rw [self]; exact none_)
      (by rw [self]; exact bulk) (by rw [self]; exact ctx)
    rw [idle] at comes
    refine ⟨_, (exec_frameComplete line).trans (by rw [comes]), ?_, ?_, fun j other => ?_⟩
    · rw [flush_tx, updTx_self, self]
    · rw [flush_outside, flush_tx]
      rfl
    · rw [flush_tx, updTx_other other]
      exact updTx_other other _ _

end

section
/-! SUPPORT. The order of a route's paths by arrival, and that a port keeps what it carries; the statement about
re-selection. -/

namespace Sys2Proof.Machine

-- One proof at a time: each would otherwise hold a thread of its own.
set_option Elab.async false

/-! ## The eligible paths in order of arrival (R66 to R69) -/

theorem insertByA_eq (x : PathNo × Nat) (xs : List (PathNo × Nat)) :
    insertByA x xs = List.orderedInsert (fun a b => a.2 ≤ b.2) x xs := by
  induction xs with
  | nil => rfl
  | cons y ys ih =>
    unfold insertByA
    rw [ih]
    rfl

theorem byArrival_eq (xs : List (PathNo × Nat)) : byArrival xs = List.insertionSort (fun a b => a.2 ≤ b.2) xs := by
  unfold byArrival
  rw [show insertByA = List.orderedInsert (fun a b : PathNo × Nat => a.2 ≤ b.2) from
    funext fun x => funext (insertByA_eq x)]
  rfl

/-- The eligible paths of a message, in ascending order of A. -/
def ranked (s : State) (site : Site) (cls : MsgClass) (n : Nat) : List PathNo :=
  (byArrival (eligible s site cls n)).map (·.1)

theorem mem_eligible {s : State} {site : Site} {cls : MsgClass} {n : Nat} {x : PathNo × Nat} :
    x ∈ eligible s site cls n ↔ s.eligibleFor site x.1 ∧ x.2 = arrival s cls n x.1 := by
  obtain ⟨p, a⟩ := x
  simp only [eligible, List.mem_map, List.mem_filter, beq_iff_eq, Prod.mk.injEq, State.eligibleFor]
  constructor
  · rintro ⟨q, up, rfl, rfl⟩
    exact ⟨up, rfl⟩
  · rintro ⟨up, rfl⟩
    exact ⟨p, up, rfl, rfl⟩

section
variable {s : State} {site : Site} {cls : MsgClass} {n : Nat}

theorem mem_byArrival {x : PathNo × Nat} :
    x ∈ byArrival (eligible s site cls n) ↔ s.eligibleFor site x.1 ∧ x.2 = arrival s cls n x.1 := by
  rw [byArrival_eq, (List.perm_insertionSort _ _).mem_iff, mem_eligible]

theorem mem_ranked {p : PathNo} : p ∈ ranked s site cls n ↔ s.eligibleFor site p := by
  rw [ranked, List.mem_map]
  constructor
  · rintro ⟨x, isIn, rfl⟩
    exact (mem_byArrival.mp isIn).1
  · exact fun up => ⟨(p, arrival s cls n p), mem_byArrival.mpr ⟨up, rfl⟩, rfl⟩

theorem ranked_sorted : (ranked s site cls n).Pairwise (fun p q => arrival s cls n p ≤ arrival s cls n q) := by
  rw [ranked, List.pairwise_map, byArrival_eq]
  have sorted : (List.insertionSort (fun a b : PathNo × Nat => a.2 ≤ b.2) (eligible s site cls n)).Pairwise
      (fun a b => a.2 ≤ b.2) := by
    have : Std.Total (fun a b : PathNo × Nat => a.2 ≤ b.2) := ⟨fun a b => Nat.le_total a.2 b.2⟩
    have : IsTrans (PathNo × Nat) (fun a b => a.2 ≤ b.2) := ⟨fun _ _ _ => Nat.le_trans⟩
    exact List.pairwise_insertionSort _ _
  refine sorted.imp_of_mem fun {x y} hx hy le => ?_
  rw [← byArrival_eq, mem_byArrival] at hx hy
  rw [← hx.2, ← hy.2]
  exact le

/-- The first path in the order that passes a test is the fastest that does. -/
theorem find_ranked {test : PathNo → Bool} {p q : PathNo} (first : (ranked s site cls n).find? test = some p)
    (up : s.eligibleFor site q) (passes : test q = true) : arrival s cls n p ≤ arrival s cls n q := by
  obtain ⟨-, ahead, behind, split, none_⟩ := List.find?_eq_some_iff_append.mp first
  have sorted := ranked_sorted (s := s) (site := site) (cls := cls) (n := n)
  have isIn : q ∈ ahead ++ p :: behind := split ▸ mem_ranked.mpr up
  rw [split, List.pairwise_append, List.pairwise_cons] at sorted
  rcases List.mem_append.mp isIn with h | h
  · exact absurd passes (by simpa using none_ q h)
  · rcases List.mem_cons.mp h with rfl | h
    · exact Nat.le_refl _
    · exact sorted.2.1.1 q h

/-- The first path in the order is the fastest. -/
theorem head_ranked {p q : PathNo} {rest : List PathNo} (first : ranked s site cls n = p :: rest)
    (up : s.eligibleFor site q) : arrival s cls n p ≤ arrival s cls n q :=
  find_ranked (test := fun _ => true) (by rw [first]; rfl) up rfl

end

theorem hasPortRoom_iff {s : State} {cls : MsgClass} {n : Nat} {p : PathNo} :
    hasPortRoom s cls n p = true ↔ s.pathHasRoom p cls n := Transmitter.roomFor_iff

/-! ## What a port carries (R113, R116) -/

/-- A free line's start keeps what the port carries, where what leaves a queue goes on the line or into the context. -/
theorem carries_started {t t' : Transmitter} {m : Msg} {item : LineItem} {stamp : Stamp} (had : t.carries m)
    (free : t.line = none) (urgent : ∀ u ∈ t.urgent, u ∈ t'.urgent ∨ item = u.item)
    (bulk : ∀ f ∈ t.bulk, f ∈ t'.bulk ∨ ∃ c, t'.ctx = some c ∧ c.frame = f)
    (ctx : ∀ c, t.ctx = some c → ∃ c', t'.ctx = some c' ∧ c'.frame = c.frame) : (t'.started item stamp).carries m := by
  unfold Transmitter.carries at had ⊢
  split at had
  · rcases had with queued | ⟨_, line⟩
    · rcases urgent _ queued with h | rfl
      · exact .inl h
      · exact .inr ⟨stamp, rfl⟩
    · rw [free] at line
      exact nomatch line
  · obtain ⟨f, queued | ⟨c, is, frame⟩, path, isIn⟩ := had
    · exact ⟨f, bulk f queued, path, isIn⟩
    · obtain ⟨c', is', frame'⟩ := ctx c is
      exact ⟨f, .inr ⟨c', is', frame'.trans frame⟩, path, isIn⟩

theorem startItem_carries {k : PortNo} {item : LineItem} {f : Transmitter → Transmitter} {s : State} {m : Msg}
    (had : s.tx[k].carries m) (free : s.tx[k].line = none)
    (urgent : ∀ u ∈ s.tx[k].urgent, u ∈ (f s.tx[k]).urgent ∨ item = u.item)
    (bulk : ∀ b ∈ s.tx[k].bulk, b ∈ (f s.tx[k]).bulk ∨ ∃ c, (f s.tx[k]).ctx = some c ∧ c.frame = b)
    (ctx : ∀ c, s.tx[k].ctx = some c → ∃ c', (f s.tx[k]).ctx = some c' ∧ c'.frame = c.frame) :
    (startItem k item (s.updTx k f)).tx[k].carries m := by
  rw [startItem_self]
  exact carries_started had free urgent bulk ctx

theorem startFragment_carries {k : PortNo} {c d : BulkContext} {s : State} {m : Msg} (had : s.tx[k].carries m)
    (free : s.tx[k].line = none) (is : s.tx[k].ctx = some d) (same : c.frame = d.frame) :
    (startFragment k c s).tx[k].carries m := by
  rw [startFragment_eq]
  refine startItem_carries had free (fun _ h => .inl h) (fun _ h => .inl h) fun e isCtx => ?_
  rw [is] at isCtx
  exact ⟨_, rfl, same.trans (congrArg BulkContext.frame (Option.some.inj isCtx))⟩

/-- The choice of what to send keeps what each port carries. -/
theorem lineChoice_carries {k j : PortNo} {s : State} {m : Msg} (had : s.tx[j].carries m) :
    (lineChoice k s).tx[j].carries m := by
  by_cases other : j ≠ k
  · rw [lineChoice_tx other]
    exact had
  obtain rfl := Decidable.not_not.mp other
  unfold lineChoice
  split
  · exact had
  next notBusy =>
  have free : s.tx[j].line = none := (lineFree_iff.mp (by simpa using notBusy)).2
  dsimp only
  split
  · exact startItem_carries had free (fun _ h => .inl h) (fun _ h => .inl h) fun c h => ⟨c, h, rfl⟩
  · exact startItem_carries had free (fun _ h => .inl h) (fun _ h => .inl h) fun c h => ⟨c, h, rfl⟩
  · next urgent =>
    refine startItem_carries had free (fun u h => ?_) (fun _ h => .inl h) fun c h => ⟨c, h, rfl⟩
    rw [urgent] at h
    exact (List.mem_cons.mp h).elim (fun e => .inr (by rw [e]; rfl)) .inl
  · next urgent =>
    refine startItem_carries had free (fun u h => ?_) (fun _ h => .inl h) fun c h => ⟨c, h, rfl⟩
    rw [urgent] at h
    exact (List.mem_cons.mp h).elim (fun e => .inr (by rw [e]; rfl)) .inl
  · split
    · next c ctx =>
      split
      · unfold holdoffOrResume
        split
        · exact startFragment_carries had free ctx rfl
        · split
          · exact had
          · rw [updTx_self]
            exact had
      · exact startFragment_carries had free ctx rfl
    · next f rest ctx bulk =>
      rw [startBulk_eq]
      refine startItem_carries had free (fun _ h => .inl h) (fun b h => ?_) fun c h => ?_
      · rw [bulk] at h
        rcases List.mem_cons.mp h with rfl | h
        · exact .inr ⟨_, rfl, rfl⟩
        · exact .inl (by rw [bulk]; exact h)
      · rw [ctx] at h
        exact nomatch h
    · rw [updTx_self]
      exact had

/-! ## A report that leaves its destination open (R105) -/

theorem closeIfSettled_open {s : State} {hdr : Nat} {r : Record} {site : Site} (found : s.recordOf hdr = some r)
    (open_ : r.dests[site].isSettled = false) : closeIfSettled hdr s = s := by
  have unsettled : r.allSettled = false := by
    rw [← Bool.not_eq_true, Record.allSettled, List.all_eq_true]
    intro all
    have settled := all r.dests[site] (Vector.mem_toList_iff.mpr (Vector.getElem_mem _))
    rw [open_] at settled
    exact nomatch settled
  unfold closeIfSettled
  rw [found]
  simp [unsettled]

theorem reportDest_live {s : State} {hdr : Nat} {site : Site} {f : Dest → Dest} {r : Record}
    (found : s.recordOf hdr = some r) (routing : r.phase ≠ .closing)
    (open_ : (f r.dests[site]).judge.isSettled = false) :
    (reportDest hdr site f s).recordOf hdr = some (r.reported site f) := by
  have reported : (s.updRecord hdr (Record.reported site f)).recordOf hdr = some (r.reported site f) := by
    rw [recordOf_updRecord (f := Record.reported site f) fun _ line => line, found]
    rfl
  have eq : reportDest hdr site f s = closeIfSettled hdr (s.updRecord hdr (Record.reported site f)) := by
    unfold reportDest
    rw [found]
    exact if_neg routing
  rw [eq, closeIfSettled_open reported (site := site)]
  · exact reported
  · rw [Record.reported, Fin.getElem_fin, updAt_self]
    exact open_

theorem reported_dests {r : Record} {site : Site} {f : Dest → Dest} (i : Site) :
    (r.reported site f).dests[i] = if i = site then (f r.dests[site]).judge else r.dests[i] := by
  rw [Record.reported, Fin.getElem_fin, updAt_get]
  rfl

/-! ## Re-selection (R73) -/

theorem takeFromBatch_head (k : PortNo) (m : Msg) (rest : List Msg) (bs : List Batch) :
    takeFromBatch k (⟨k, m :: rest⟩ :: bs) = some (m, if rest = [] then bs else ⟨k, rest⟩ :: bs) := by
  unfold takeFromBatch
  cases rest <;> simp

theorem exec_reselection {s : State} {k : PortNo} {m : Msg} {rest : List Msg} {bs : List Batch}
    (batches : s.rs.batches = ⟨k, m :: rest⟩ :: bs) : exec (.reselection k) s = .next (flush (reselect m
      { s.quiet with rs := { s.rs with batches := if rest = [] then bs else ⟨k, rest⟩ :: bs } })) := by
  refine (run_eq _ s).trans (congrArg (fun u => Host.Outcome.next (flush u)) ?_)
  unfold reselection
  rw [show s.quiet.rs.batches = _ from batches, takeFromBatch_head]
  rfl

/-- A state of the same paths, ports and routes but for the batches ranks alike. -/
theorem ranked_batches (s : State) (bs : List Batch) (site : Site) (cls : MsgClass) (n : Nat) :
    ranked { s.quiet with rs := { s.rs with batches := bs } } site cls n = ranked s site cls n := rfl

/-- A re-selected message, put on the queue of its path's port. -/
def replaced (m : Msg) (p : PathNo) (fallback : Bool) (s : State) : State :=
  reportDest m.slot m.site Dest.rerouted
    (placeMsg { m with path := p } (s.updRoute m.site (RouteRec.rerouted fallback)))

theorem reselect_places {m : Msg} {s : State} {p : PathNo}
    (found : (ranked s m.site m.cls m.payload.length).find? (hasPortRoom s m.cls m.payload.length) = some p) :
    reselect m s = lineChoice s.paths[p].port (replaced m p
      (decide ((ranked s m.site m.cls m.payload.length).head? ≠ some p)) s) := by
  have paths : ∀ fb, (replaced m p fb s).paths = s.paths := fun fb =>
    (outsideCapture_paths (reportDest_outsideCapture _ _ _ _)).trans rfl
  unfold reselect
  rw [ranked] at found
  dsimp only
  rw [found]
  dsimp only
  rw [choiceOn]
  refine congrArg (fun k => lineChoice k _) ?_
  exact congrArg (fun ps : Vector PathRec 16 => ps[p].port) (paths _)

theorem reselect_flushes {m : Msg} {s : State}
    (full : (ranked s m.site m.cls m.payload.length).find? (hasPortRoom s m.cls m.payload.length) = none) :
    reselect m s = reportDest m.slot m.site Dest.flushed (s.updRoute m.site (fun r =>
      { r with counters := { r.counters with flushed := r.counters.flushed + 1 } })) := by
  unfold reselect
  rw [ranked] at full
  dsimp only
  rw [full]

section
variable {m : Msg} {p : PathNo} {fb : Bool} {s : State}

theorem replaced_tx : (replaced m p fb s).tx = updAt s.tx s.paths[p].port (Transmitter.place { m with path := p }) :=
  (outsideCapture_tx (reportDest_outsideCapture _ _ _ _)).trans rfl

theorem replaced_link : (replaced m p fb s).link = s.link :=
  (outside_link_eq (outsideCapture_outside (reportDest_outsideCapture _ _ _ _)) :).trans rfl

theorem replaced_rs : (replaced m p fb s).rs = (s.updRoute m.site (RouteRec.rerouted fb)).rs :=
  (outsideCapture_rs (reportDest_outsideCapture _ _ _ _)).trans rfl

theorem replaced_record {r : Record} {re : Bool} {dual : DualState} (found : s.recordOf m.slot = some r)
    (routing : r.phase = .routing) (live : r.dests[m.site] = .live .queued re dual) :
    (replaced m p fb s).recordOf m.slot = some (r.reported m.site Dest.rerouted) := by
  refine reportDest_live found (by rw [routing]; exact nofun) ?_
  rw [live]
  rfl

end

theorem lineFree_congr {k : PortNo} {s t : State} (link : t.link = s.link) (line : t.tx[k].line = s.tx[k].line) :
    lineFree k t = lineFree k s := by
  unfold lineFree
  rw [link, line]

theorem place_line (m : Msg) (t : Transmitter) : (t.place m).line = t.line := by
  unfold Transmitter.place
  split
  · rfl
  · split <;> rfl

theorem updRoute_self (site : Site) (f : RouteRec → RouteRec) (s : State) :
    (s.updRoute site f).rs.routes[site] = f s.rs.routes[site] := updAt_self _ _ _

theorem updRoute_other {site other : Site} (h : other ≠ site) (f : RouteRec → RouteRec) (s : State) :
    (s.updRoute site f).rs.routes[other] = s.rs.routes[other] := updAt_other _ _ _ _ h

end Sys2Proof.Machine

open Sys2Proof Sys2Proof.Machine

/-- Settles O22: the message goes where the first path in order of arrival has room, and is flushed where none has. -/
theorem displacedMessageReselected : Obligations.DisplacedMessageReselected := by
  intro s k m rest bs batches
  obtain ⟨u, hu⟩ : ∃ u : State, u =
    { s.quiet with rs := { s.rs with batches := if rest = [] then bs else ⟨k, rest⟩ :: bs } } := ⟨_, rfl⟩
  have runs := exec_reselection batches
  rw [← hu] at runs
  have order : ranked u m.site m.cls m.payload.length = ranked s m.site m.cls m.payload.length := by rw [hu]; rfl
  have room : ∀ q, hasPortRoom u m.cls m.payload.length q = true ↔ s.pathHasRoom q m.cls m.payload.length := fun q => by
    rw [hasPortRoom_iff, hu]
    rfl
  have sends : Sends s (flush (reselect m u)) := by
    have taken : Sends s u := by
      rw [hu]
      exact .of_cmd rfl rfl ⟨rfl, rfl⟩
    exact (taken.trans (reselect_sends m u)).trans (flush_sends _)
  refine ⟨fun x up fits => ?_, fun full => ?_⟩
  · cases found : (ranked u m.site m.cls m.payload.length).find? (hasPortRoom u m.cls m.payload.length) with
    | none =>
      exact absurd ((room x).mpr fits) (List.find?_eq_none.mp found x (order ▸ mem_ranked.mpr up))
    | some p =>
    have eligible : s.eligibleFor m.site p := mem_ranked.mp (order ▸ List.mem_of_find?_eq_some found)
    have comes := reselect_places found
    obtain ⟨fb, isFb⟩ : ∃ fb, fb = decide ((ranked u m.site m.cls m.payload.length).head? ≠ some p) := ⟨_, rfl⟩
    rw [← isFb] at comes
    have port : u.paths[p].port = s.paths[p].port := by rw [hu]; rfl
    rw [port] at comes
    have tx : (replaced m p fb u).tx = updAt s.tx s.paths[p].port (Transmitter.place { m with path := p }) := by
      rw [replaced_tx, port, hu]
      rfl
    have rs : (flush (reselect m u)).rs = (u.updRoute m.site (RouteRec.rerouted fb)).rs := by
      rw [flush_rs, comes, outsideLine_rs (lineChoice_outsideLine _ _), replaced_rs]
    have route : (flush (reselect m u)).rs.routes[m.site] = s.rs.routes[m.site].rerouted fb := by
      rw [rs, updRoute_self, hu]
    have self : (replaced m p fb u).tx[s.paths[p].port] = s.tx[s.paths[p].port].place { m with path := p } := by
      rw [tx]
      exact updAt_self _ _ _
    refine ⟨_, p, runs, eligible, (room p).mp (List.find?_some found), ?_, fun bulk busy => ?_, fun j other => ?_,
      fun q upq faster has => ?_, fun r re dual open_ routing live => ?_, ?_, fun ⟨q, upq, faster⟩ => ?_, fun fastest => ?_,
      fun other differ => ?_, ?_, ?_, sends.outside⟩
    · rw [flush_tx, comes]
      refine lineChoice_carries ?_
      rw [self]
      exact Transmitter.place_carries _ _
    · have idle : lineFree s.paths[p].port (replaced m p fb u) = false := by
        rw [lineFree_congr (s := s) (replaced_link.trans (by rw [hu]; rfl)) (by rw [self, place_line])]
        exact busy
      rw [flush_tx, comes, lineChoice_busy idle, self]
      exact Transmitter.place_takes (m := { m with path := p }) bulk _
    · rw [flush_tx, comes, lineChoice_tx other, tx]
      exact updAt_other _ _ _ _ other
    · rw [order] at found
      exact absurd (find_ranked found upq ((room q).mpr has)) (Nat.not_le.mpr faster)
    · have found' : u.recordOf m.slot = some r := by rw [hu]; exact open_
      obtain ⟨r', isR, bare⟩ := recordOf_bareRecords (lineChoice_bareRecords s.paths[p].port _)
        (replaced_record (p := p) (fb := fb) found' routing live)
      refine ⟨r', ?_, (congrArg Record.phase bare).trans routing, fun i => ?_⟩
      · rw [recordOf_of_cu (flush_cu _), comes]
        exact isR
      · have dests : r'.dests = (r.reported m.site Dest.rerouted).dests := congrArg (·.dests) bare
        rw [dests, reported_dests, live]
        rfl
    · rw [route]
      rfl
    · have first : (ranked u m.site m.cls m.payload.length).head? ≠ some p := fun is => by
        obtain ⟨tail, split⟩ := List.head?_eq_some_iff.mp (order ▸ is)
        exact absurd (head_ranked split upq) (Nat.not_le.mpr faster)
      rw [route, isFb, decide_eq_true first]
      rfl
    · have first : (ranked u m.site m.cls m.payload.length).head? = some p := by
        rw [order]
        cases split : ranked s m.site m.cls m.payload.length with
        | nil => exact absurd (split ▸ mem_ranked.mpr eligible) List.not_mem_nil
        | cons h tail =>
          have upH : s.eligibleFor m.site h := mem_ranked.mp (split ▸ List.mem_cons_self)
          by_cases same : h = p
          · rw [same]
            rfl
          · exact absurd (head_ranked split eligible) (Nat.not_le.mpr (fastest h upH same))
      rw [route, isFb, decide_eq_false (not_not_intro first)]
      rfl
    · rw [rs, updRoute_other differ, hu]
    · rw [rs, hu]
      rfl
    · rw [rs, hu]
      rfl
  · have found : (ranked u m.site m.cls m.payload.length).find? (hasPortRoom u m.cls m.payload.length) = none :=
      List.find?_eq_none.mpr fun q isIn has => full q (mem_ranked.mp (order ▸ isIn)) ((room q).mp has)
    have comes := reselect_flushes found
    obtain ⟨v, hv⟩ : ∃ v, v = u.updRoute m.site (fun r =>
      { r with counters := { r.counters with flushed := r.counters.flushed + 1 } }) := ⟨_, rfl⟩
    rw [← hv] at comes
    have frame := outsideCapture_outside (reportDest_outsideCapture m.slot m.site Dest.flushed v)
    have rs : (flush (reselect m u)).rs = v.rs := by
      rw [flush_rs, comes]
      exact (outside_rs_eq frame :)
    refine ⟨_, runs, fun r re dual open_ routing live => ?_, ?_, fun other differ => ?_, ?_, ?_, ?_⟩
    · have found' : v.recordOf m.slot = some r := by rw [hv, hu]; exact open_
      obtain ⟨r', isR, dests⟩ := reportDest_reports (site := m.site) (f := Dest.flushed) found'
        (by rw [routing]; exact nofun)
      refine ⟨r', ?_, fun i => ?_⟩
      · rw [recordOf_of_cu (flush_cu _), comes]
        exact isR
      · rw [dests, reported_dests, live]
        cases dual <;> rfl
    · rw [rs, hv, updRoute_self, hu]
    · rw [rs, hv, updRoute_other differ, hu]
    · rw [rs, hv, hu]
      rfl
    · rw [rs, hv, hu]
      rfl
    · rw [rs, flush_cu, flush_outside, comes, frame, hv, hu]
      rfl

end

section
/-! SUPPORT. The path a selection chooses and the state it leaves before the ports choose what to send; the statement
about selections. -/

namespace Sys2Proof.Machine

-- One proof at a time: each would otherwise hold a thread of its own.
set_option Elab.async false

/-! ## The choice of a path (R68, R69) -/

/-- The path a message chooses, its eligible paths being ranked with `first` ahead. -/
def choiceOf (s : State) (site : Site) (cls : MsgClass) (n : Nat) (first : PathNo) : PathNo :=
  chooseKeeping s.rs.routes[site].hyst s.rs.routes[site].current (eligible s site cls n) (first, arrival s cls n first)

section
variable {s : State} {site : Site} {cls : MsgClass} {n : Nat} {first c : PathNo}

theorem eligible_find (up : s.eligibleFor site c) :
    (eligible s site cls n).find? (fun x => x.1 == c) = some (c, arrival s cls n c) := by
  cases found : (eligible s site cls n).find? (fun x => x.1 == c) with
  | none => exact absurd (beq_self_eq_true c) (List.find?_eq_none.mp found (c, arrival s cls n c) (mem_eligible.mpr ⟨up, rfl⟩))
  | some x =>
    have named : x.1 = c := by simpa using List.find?_some found
    have estimate := (mem_eligible.mp (List.mem_of_find?_eq_some found)).2
    rw [← named, ← estimate]

theorem choiceOf_keeps (current : s.rs.routes[site].current = some c) (up : s.eligibleFor site c)
    (near : arrival s cls n c ≤ arrival s cls n first + s.rs.routes[site].hyst) : choiceOf s site cls n first = c := by
  unfold choiceOf chooseKeeping
  rw [current, Option.bind_some, eligible_find up]
  exact if_pos near

theorem choiceOf_leaves (far : ∀ c, s.rs.routes[site].current = some c → s.eligibleFor site c →
    arrival s cls n first + s.rs.routes[site].hyst < arrival s cls n c) : choiceOf s site cls n first = first := by
  unfold choiceOf chooseKeeping
  split
  · next x found =>
    obtain ⟨c, current, found⟩ := Option.bind_eq_some_iff.mp found
    have named : x.1 = c := by simpa using List.find?_some found
    obtain ⟨up, estimate⟩ := mem_eligible.mp (List.mem_of_find?_eq_some found)
    rw [named] at up estimate
    exact if_neg (Nat.not_le.mpr (estimate ▸ far c current up))
  · rfl

theorem choiceOf_eligible (up : s.eligibleFor site first) : s.eligibleFor site (choiceOf s site cls n first) := by
  unfold choiceOf chooseKeeping
  split
  · next x found =>
    obtain ⟨c, -, found⟩ := Option.bind_eq_some_iff.mp found
    split
    · exact (mem_eligible.mp (List.mem_of_find?_eq_some found)).1
    · exact up
  · exact up

theorem placing_choice {choice : PathNo} {order : List PathNo} (room : hasPortRoom s cls n choice = true) :
    placing s cls n choice order = some choice := List.find?_cons_of_pos room

theorem placing_some {choice p : PathNo} {order : List PathNo} (found : placing s cls n choice order = some p) :
    (p = choice ∨ p ∈ order) ∧ hasPortRoom s cls n p = true := by
  refine ⟨?_, List.find?_some found⟩
  exact (List.mem_cons.mp (List.mem_of_find?_eq_some found)).imp id fun h => (List.mem_filter.mp h).1

theorem placing_none {choice : PathNo} {order : List PathNo} (full : ∀ p, p = choice ∨ p ∈ order → ¬ hasPortRoom s cls n p = true) :
    placing s cls n choice order = none :=
  List.find?_eq_none.mpr fun p h => full p ((List.mem_cons.mp h).imp id fun h => (List.mem_filter.mp h).1)

theorem ranked_cons {rest : List PathNo} (order : ranked s site cls n = first :: rest) :
    ∃ pairs, byArrival (eligible s site cls n) = (first, arrival s cls n first) :: pairs := by
  rw [ranked] at order
  cases pairs : byArrival (eligible s site cls n) with
  | nil => rw [pairs] at order; exact nomatch order
  | cons x xs =>
    rw [pairs, List.map_cons, List.cons.injEq] at order
    have estimate := (mem_byArrival.mp (pairs ▸ List.mem_cons_self : x ∈ byArrival (eligible s site cls n))).2
    refine ⟨xs, ?_⟩
    rw [← order.1, ← estimate]

end

/-! ## The parts of a selection (R68 to R71) -/

/-- A state with the primary of a selection on its port's queue. -/
def primaryPlaced (r : Record) (site : Site) (choice p : PathNo) (s : State) : State :=
  placeMsg (freshMsg s r site p) (advanceRoute site r.cls (decide (p ≠ choice)) (setCurrent site choice s))

/-- The ports that a frame has joined choose what to send. -/
def choicesOn (p : PathNo) (q : Option PathNo) (s : State) : State :=
  match q with
  | some q => choiceOn q (choiceOn p s)
  | none => choiceOn p s

/-- RS's result for a destination that is placed. -/
def queuedDest (q : Option PathNo) : Dest := .live .queued false (if q.isSome then .queued else .absent)

/-- The route's record with its current path noted. -/
def RouteRec.onto (choice : PathNo) (x : RouteRec) : RouteRec :=
  if x.current = some choice then x
  else { x with current := some choice, counters := { x.counters with switches := x.counters.switches + 1 } }

theorem onto_keeps (choice : PathNo) (x : RouteRec) : (x.onto choice).current = some choice ∧
    (x.onto choice).nextUrgent = x.nextUrgent ∧ (x.onto choice).nextBulk = x.nextBulk ∧
    (x.onto choice).counters.placed = x.counters.placed ∧ (x.onto choice).counters.fallbacks = x.counters.fallbacks ∧
    (x.onto choice).counters.refused = x.counters.refused ∧ (x.onto choice).counters.duals = x.counters.duals := by
  unfold RouteRec.onto
  split
  · next current => exact ⟨current, rfl, rfl, rfl, rfl, rfl, rfl⟩
  · exact ⟨rfl, rfl, rfl, rfl, rfl, rfl, rfl⟩

theorem freshMsg_setCurrent (r : Record) (site : Site) (choice p : PathNo) (s : State) :
    freshMsg (setCurrent site choice s) r site p = freshMsg s r site p := by
  have route : (setCurrent site choice s).rs.routes[site] = s.rs.routes[site].onto choice := updRoute_self _ _ s
  obtain ⟨-, urgent, bulk, -⟩ := onto_keeps choice s.rs.routes[site]
  unfold freshMsg
  rw [route, urgent, bulk]
  rfl

section
variable {s : State} {r : Record} {site : Site}

theorem selectDest_unroutable (epoch : s.rs.epoch ≠ 0) (none_ : ranked s site r.cls r.size = []) :
    selectDest r site s = refuseSelection r.hdr site .noRoute s := by
  have order : byArrival (eligible s site r.cls r.size) = [] := List.map_eq_nil_iff.mp none_
  unfold selectDest
  rw [if_neg epoch]
  dsimp only
  rw [order]

theorem selectDest_full {first : PathNo} {rest : List PathNo} (epoch : s.rs.epoch ≠ 0)
    (order : ranked s site r.cls r.size = first :: rest)
    (full : placing s r.cls r.size (choiceOf s site r.cls r.size first) (ranked s site r.cls r.size) = none) :
    selectDest r site s = refuseSelection r.hdr site .queueFull
      (setCurrent site (choiceOf s site r.cls r.size first) s) := by
  obtain ⟨pairs, split⟩ := ranked_cons order
  rw [ranked] at full
  unfold selectDest
  rw [if_neg epoch]
  dsimp only
  rw [split] at full ⊢
  dsimp only
  rw [← choiceOf, show placing (setCurrent site _ s) r.cls r.size _ _ = none from full]

theorem selectDest_places {first p : PathNo} {rest : List PathNo} (epoch : s.rs.epoch ≠ 0)
    (order : ranked s site r.cls r.size = first :: rest)
    (found : placing s r.cls r.size (choiceOf s site r.cls r.size first) (ranked s site r.cls r.size) = some p)
    {v : State} {q : Option PathNo} (dual : dualCopy (freshMsg s r site p) r.force (ranked s site r.cls r.size)
      (primaryPlaced r site (choiceOf s site r.cls r.size first) p s) = (v, q)) :
    selectDest r site s = choicesOn p q (answerDest r.hdr site (queuedDest q) v) := by
  obtain ⟨pairs, split⟩ := ranked_cons order
  rw [ranked] at found dual
  unfold selectDest
  rw [if_neg epoch]
  dsimp only
  rw [split] at found dual ⊢
  dsimp only
  rw [← choiceOf, show placing (setCurrent site _ s) r.cls r.size _ _ = some p from found]
  dsimp only
  rw [freshMsg_setCurrent]
  rw [show dualCopy (freshMsg s r site p) r.force _ (placeMsg (freshMsg s r site p) _) = (v, q) from dual]
  cases q <;> rfl

end

/-! ## The dual copy (R70) -/

/-- A dual copy of a message. -/
def Msg.copyOn (m : Msg) (q : PathNo) : Msg := { m with dual := true, path := q }

/-- A route with one dual copy more. -/
def RouteRec.withDual (x : RouteRec) : RouteRec := { x with counters := { x.counters with duals := x.counters.duals + 1 } }

theorem dualCopy_cases (m : Msg) (force : Bool) (order : List PathNo) (s : State) :
    (dualCopy m force order s = (s, none) ∧ ((¬ dualWanted s m.site m.path force = true) ∨
      ∀ q, order.find? (· ≠ m.path) = some q → ¬ hasPortRoom s m.cls m.payload.length q = true)) ∨
    ∃ q, dualWanted s m.site m.path force = true ∧ order.find? (· ≠ m.path) = some q ∧
      hasPortRoom s m.cls m.payload.length q = true ∧
      dualCopy m force order s = (placeMsg (m.copyOn q) (s.updRoute m.site RouteRec.withDual), some q) := by
  unfold dualCopy
  by_cases wanted : dualWanted s m.site m.path force = true
  · rw [if_pos wanted]
    split
    · next q found =>
      by_cases room : hasPortRoom s m.cls m.payload.length q = true
      · exact .inr ⟨q, wanted, found, room, by rw [if_pos room]; rfl⟩
      · exact .inl ⟨by rw [if_neg room], .inr fun q' found' => by
          rw [found] at found'
          exact Option.some.inj found' ▸ room⟩
    · next none_ => exact .inl ⟨rfl, .inr fun q found => by rw [none_] at found; exact nomatch found⟩
  · rw [if_neg wanted]
    exact .inl ⟨rfl, .inl wanted⟩

/-! ## What a port keeps as another message is placed -/

theorem joinNewest_keeps {m : Msg} {f : BulkFrame} {fs : List BulkFrame} (isIn : f ∈ fs) :
    ∃ f' ∈ joinNewest m fs, f'.path = f.path ∧ ∀ x ∈ f.msgs, x ∈ f'.msgs := by
  induction fs with
  | nil => exact absurd isIn List.not_mem_nil
  | cons g gs ih =>
    unfold joinNewest
    split
    · rcases List.mem_cons.mp isIn with rfl | h
      · exact ⟨_, List.mem_cons_self, rfl, fun x h => List.mem_append_left _ h⟩
      · exact ⟨f, List.mem_cons_of_mem _ h, rfl, fun _ => id⟩
    · rcases List.mem_cons.mp isIn with rfl | h
      · exact ⟨_, List.mem_cons_self, rfl, fun _ => id⟩
      · obtain ⟨f', h', path, msgs⟩ := ih h
        exact ⟨f', List.mem_cons_of_mem _ h', path, msgs⟩

theorem place_keeps_carried {t : Transmitter} {m : Msg} (other : Msg) (had : t.carries m) : (t.place other).carries m := by
  unfold Transmitter.carries at had ⊢
  split at had
  · refine had.imp (fun queued => ?_) fun ⟨stamp, line⟩ => ⟨stamp, (place_line other t).trans line⟩
    unfold Transmitter.place
    split
    · exact List.mem_append_left _ queued
    · split <;> exact queued
  · obtain ⟨f, queued, path, isIn⟩ := had
    unfold Transmitter.place
    split
    · exact ⟨f, queued, path, isIn⟩
    · split
      · rcases queued with queued | ctx
        · obtain ⟨f', h, path', msgs⟩ := joinNewest_keeps (m := other) (List.mem_reverse.mpr queued)
          exact ⟨f', .inl (List.mem_reverse.mpr h), path'.trans path, msgs m isIn⟩
        · exact ⟨f, .inr ctx, path, isIn⟩
      · exact ⟨f, queued.imp (fun h => List.mem_append_left _ h) id, path, isIn⟩

/-! ## The state before the ports choose -/

/-- A route with a primary placed (R63, R76). -/
def RouteRec.advanced (cls : MsgClass) (fallback : Bool) (x : RouteRec) : RouteRec :=
  { x with
    nextUrgent := if cls = .urgent then x.nextUrgent + 1 else x.nextUrgent
    nextBulk := if cls = .bulk then x.nextBulk + 1 else x.nextBulk
    counters := { x.counters with
      placed := x.counters.placed + 1
      fallbacks := if fallback then x.counters.fallbacks + 1 else x.counters.fallbacks } }

/-- What a selection that places a primary, and a dual copy on `q` if any, makes of the route. -/
structure Advances (cls : MsgClass) (choice p : PathNo) (q : Option PathNo) (x y : RouteRec) : Prop where
  current : y.current = some choice
  urgent : y.nextUrgent = x.nextUrgent + if cls = .urgent then 1 else 0
  bulk : y.nextBulk = x.nextBulk + if cls = .bulk then 1 else 0
  placed : y.counters.placed = x.counters.placed + 1
  fallbacks : y.counters.fallbacks = x.counters.fallbacks + if choice = p then 0 else 1
  refused : y.counters.refused = x.counters.refused
  duals : y.counters.duals = x.counters.duals + if q.isSome then 1 else 0

theorem advanced_advances (cls : MsgClass) (choice p : PathNo) (x : RouteRec) :
    Advances cls choice p none x ((x.onto choice).advanced cls (decide (p ≠ choice))) := by
  obtain ⟨current, urgent, bulk, placed, fallbacks, refused, duals⟩ := onto_keeps choice x
  refine ⟨current, ?_, ?_, congrArg (· + 1) placed, ?_, refused, duals.trans (BitVec.add_zero _).symm⟩
  · simp only [RouteRec.advanced, urgent]
    cases cls <;> simp
  · simp only [RouteRec.advanced, bulk]
    cases cls <;> simp
  · simp only [RouteRec.advanced, fallbacks]
    by_cases same : choice = p
    · simp [same]
    · simp [same, Ne.symm same]

theorem Advances.withDual {cls : MsgClass} {choice p q : PathNo} {x y : RouteRec} (h : Advances cls choice p none x y) :
    Advances cls choice p (some q) x y.withDual where
  current := h.current
  urgent := h.urgent
  bulk := h.bulk
  placed := h.placed
  fallbacks := h.fallbacks
  refused := h.refused
  duals := (congrArg (· + 1) h.duals).trans (by simp)

/-- What a selection leaves before the ports choose what to send. -/
structure Placed (r : Record) (site : Site) (choice p : PathNo) (q : Option PathNo) (s w : State) : Prop where
  primary : w.tx[s.paths[p].port].carries (freshMsg s r site p)
  copy : ∀ x, q = some x → w.tx[s.paths[x].port].carries ((freshMsg s r site p).copyOn x)
  alone : (∀ x, q = some x → s.paths[x].port ≠ s.paths[p].port) →
    w.tx[s.paths[p].port] = s.tx[s.paths[p].port].place (freshMsg s r site p)
  route : Advances r.cls choice p q s.rs.routes[site] w.rs.routes[site]
  others : ∀ other : Site, other ≠ site → w.rs.routes[other] = s.rs.routes[other]
  placement : w.rs.placement = s.rs.placement + 1
  epoch : w.rs.epoch = s.rs.epoch
  paths : w.paths = s.paths
  link : w.link = s.link
  cu : w.cu = s.cu

section
variable {s : State} {r : Record} {site : Site} {choice p : PathNo}

theorem primaryPlaced_placed : Placed r site choice p none s (primaryPlaced r site choice p s) := by
  have self : (primaryPlaced r site choice p s).tx[s.paths[p].port] =
      s.tx[s.paths[p].port].place (freshMsg s r site p) := updTx_self _ _ _
  have route : (primaryPlaced r site choice p s).rs.routes[site] =
      (s.rs.routes[site].onto choice).advanced r.cls (decide (p ≠ choice)) :=
    (updAt_self _ _ _).trans (congrArg (RouteRec.advanced r.cls (decide (p ≠ choice))) (updRoute_self _ _ s))
  exact {
    primary := by rw [self]; exact Transmitter.place_carries _ _
    copy := nofun
    alone := fun _ => self
    route := by rw [route]; exact advanced_advances _ _ _ _
    others := fun other differ => (updAt_other _ _ _ _ differ).trans (updRoute_other differ _ s)
    placement := rfl
    epoch := rfl
    paths := rfl
    link := rfl
    cu := rfl }

/-- The dual copy put on its port. -/
theorem Placed.withCopy {w : State} (h : Placed r site choice p none s w) (q : PathNo) : Placed r site choice p (some q) s
    (placeMsg ((freshMsg s r site p).copyOn q) (w.updRoute site RouteRec.withDual)) := by
  have port : (w.updRoute site RouteRec.withDual).paths[q].port = s.paths[q].port :=
    congrArg (fun ps : Vector PathRec 16 => ps[q].port) h.paths
  have placed : placeMsg ((freshMsg s r site p).copyOn q) (w.updRoute site RouteRec.withDual) =
      (w.updRoute site RouteRec.withDual).updTx s.paths[q].port (Transmitter.place ((freshMsg s r site p).copyOn q)) :=
    congrArg (fun k => (w.updRoute site RouteRec.withDual).updTx k _) port
  rw [placed]
  have other : s.paths[q].port ≠ s.paths[p].port → ((w.updRoute site RouteRec.withDual).updTx s.paths[q].port
      (Transmitter.place ((freshMsg s r site p).copyOn q))).tx[s.paths[p].port] = w.tx[s.paths[p].port] :=
    fun differ => updTx_other (Ne.symm differ) _ _
  exact {
    primary := by
      by_cases differ : s.paths[q].port ≠ s.paths[p].port
      · rw [other differ]
        exact h.primary
      · have same := Decidable.not_not.mp differ
        have carried := h.primary
        simp only [← same] at carried ⊢
        rw [updTx_self]
        exact place_keeps_carried _ carried
    copy := fun x is => by
      obtain rfl := Option.some.inj is
      rw [updTx_self]
      exact Transmitter.place_carries _ _
    alone := fun differ => (other (differ q rfl)).trans (h.alone nofun)
    route := by
      rw [State.updTx_rs, updRoute_self]
      exact h.route.withDual
    others := fun x differ => (updRoute_other differ _ w).trans (h.others x differ)
    placement := h.placement
    epoch := h.epoch
    paths := h.paths
    link := h.link
    cu := h.cu }

end

/-! ## The ports' choices -/

section
variable {p : PathNo} {q : Option PathNo} {w : State}

theorem choicesOn_eq : choicesOn p q w = match q with
    | some q => lineChoice (lineChoice w.paths[p].port w).paths[q].port (lineChoice w.paths[p].port w)
    | none => lineChoice w.paths[p].port w := by
  cases q <;> rfl

theorem choicesOn_rs : (choicesOn p q w).rs = w.rs := by
  rw [choicesOn_eq]
  split
  · rw [outsideLine_rs (lineChoice_outsideLine _ _), outsideLine_rs (lineChoice_outsideLine _ _)]
  · exact outsideLine_rs (lineChoice_outsideLine _ _)

theorem choicesOn_bareRecords : (choicesOn p q w).bareRecords = w.bareRecords := by
  rw [choicesOn_eq]
  split
  · rw [lineChoice_bareRecords, lineChoice_bareRecords]
  · exact lineChoice_bareRecords _ _

theorem choicesOn_paths (x : PathNo) : (choicesOn p q w).paths[x].bare = w.paths[x].bare := by
  rw [choicesOn_eq]
  split
  · rw [lineChoice_paths, lineChoice_paths]
  · exact lineChoice_paths _ _ _

theorem choicesOn_carries {j : PortNo} {m : Msg} (had : w.tx[j].carries m) : (choicesOn p q w).tx[j].carries m := by
  rw [choicesOn_eq]
  split
  · exact lineChoice_carries (lineChoice_carries had)
  · exact lineChoice_carries had

/-- A busy line's port does not choose, nor does another's choice touch it. -/
theorem choicesOn_busy (busy : lineFree w.paths[p].port w = false)
    (apart : ∀ x, q = some x → w.paths[x].port ≠ w.paths[p].port) :
    (choicesOn p q w).tx[w.paths[p].port] = w.tx[w.paths[p].port] := by
  rw [choicesOn_eq]
  split
  · next x =>
    rw [lineChoice_busy busy]
    exact lineChoice_tx (Ne.symm (apart x rfl)) w
  · rw [lineChoice_busy busy]

end

/-! ## The result at the record (R104, R105) -/

theorem answerDest_outsideCapture (hdr : Nat) (site : Site) (d : Dest) (s : State) :
    (answerDest hdr site d s).outsideCapture = s.outsideCapture :=
  (closeIfSettled_outsideCapture _ _).trans rfl

theorem withAnswer_phase (site : Site) (d : Dest) (r : Record) : (r.withAnswer site d).phase = r.phase := by
  unfold Record.withAnswer
  dsimp only
  split <;> rfl

theorem withAnswer_get {site : Site} {d : Dest} {r : Record} (i : Site) :
    (r.withAnswer site d).dests[i] = if i = site then d else r.dests[i] := by
  rw [Record.withAnswer_dests, Fin.getElem_fin, updAt_get]
  rfl

theorem answerDest_open {s : State} {hdr : Nat} {r : Record} {site : Site} {d : Dest} (found : s.recordOf hdr = some r)
    (open_ : d.isSettled = false) : (answerDest hdr site d s).recordOf hdr = some (r.withAnswer site d) := by
  have answered : (s.updRecord hdr (Record.withAnswer site d)).recordOf hdr = some (r.withAnswer site d) := by
    rw [recordOf_updRecord (fun x line => (x.withAnswer_hdr site d).trans line), found]
    rfl
  rw [answerDest_eq, closeIfSettled_open answered (site := site)]
  · exact answered
  · rw [withAnswer_get, if_pos rfl]
    exact open_

/-- The destinations of a record one of whose destinations has its result. -/
theorem answerDest_dests {s : State} {hdr : Nat} {r : Record} (site : Site) (d : Dest) (found : s.recordOf hdr = some r) :
    ∃ r', (answerDest hdr site d s).recordOf hdr = some r' ∧ ∀ i : Site, r'.dests[i] = if i = site then d else r.dests[i] := by
  have answered : (s.updRecord hdr (Record.withAnswer site d)).recordOf hdr = some (r.withAnswer site d) := by
    rw [recordOf_updRecord (fun x line => (x.withAnswer_hdr site d).trans line), found]
    rfl
  obtain ⟨⟨r', found', dests⟩, -⟩ := closeIfSettled_keeps answered
  rw [answerDest_eq]
  exact ⟨r', found', fun i => by rw [dests, withAnswer_get]⟩

/-- A refusal settles its destination, and the record, the route's count and nothing else outside CMD changes. -/
structure Refused (r : Record) (site : Site) (o : DestOutcome) (s t : State) : Prop where
  record : ∃ r', t.recordOf r.hdr = some r' ∧ ∀ i : Site, r'.dests[i] = if i = site then .settled o else r.dests[i]
  rs : t.rs = (s.updRoute site RouteRec.withRefusal).rs
  outside : t.outside = { s with rs := t.rs, cu := t.cu }.outside

theorem refuseSelection_refuses {s : State} {r : Record} (site : Site) (o : DestOutcome)
    (found : s.recordOf r.hdr = some r) : Refused r site o s (flush (refuseSelection r.hdr site o s)) := by
  obtain ⟨r', found', dests⟩ := answerDest_dests (s := s.updRoute site RouteRec.withRefusal) site (.settled o) found
  have frame := outsideCapture_outside
    (answerDest_outsideCapture r.hdr site (.settled o) (s.updRoute site RouteRec.withRefusal))
  have rs : (refuseSelection r.hdr site o s).rs = (s.updRoute site RouteRec.withRefusal).rs := (outside_rs_eq frame :)
  refine ⟨⟨r', (recordOf_of_cu (flush_cu _) _).trans found', dests⟩, by rw [flush_rs, rs], ?_⟩
  rw [flush_rs, flush_cu, flush_outside, rs]
  exact frame

theorem asking_routing {r : Record} {site : Site} (asks : r.asking = some site) : r.phase = .routing := by
  unfold Record.asking at asks
  split at asks
  · assumption
  · exact nomatch asks

/-- When a selection makes a dual copy: the path, another that is eligible, only where one is wanted; and, where the
first other in the order is on another port, exactly if that has room. -/
structure Duals (r : Record) (site : Site) (p : PathNo) (q : Option PathNo) (s : State) : Prop where
  wanted : ∀ x, q = some x → s.wantsDual site p r.force ∧ s.eligibleFor site x ∧ x ≠ p
  first : s.wantsDual site p r.force → ∀ x, (ranked s site r.cls r.size).find? (· ≠ p) = some x →
    s.paths[x].port ≠ s.paths[p].port →
    (s.pathHasRoom x r.cls r.size → q = some x) ∧ (¬ s.pathHasRoom x r.cls r.size → q = none)

section
variable {s : State} {r : Record} {site : Site} {choice p : PathNo}

theorem primaryPlaced_room {x : PathNo} (apart : s.paths[x].port ≠ s.paths[p].port) :
    hasPortRoom (primaryPlaced r site choice p s) r.cls r.size x = true ↔ s.pathHasRoom x r.cls r.size := by
  have kept : (primaryPlaced r site choice p s).tx[s.paths[x].port] = s.tx[s.paths[x].port] := updTx_other apart _ _
  rw [hasPortRoom_iff]
  exact iff_of_eq (congrArg (fun t : Transmitter => t.hasRoom x r.cls r.size) kept)

theorem primaryPlaced_wants : dualWanted (primaryPlaced r site choice p s) site p r.force = true ↔
    s.wantsDual site p r.force := by
  have route : (primaryPlaced r site choice p s).rs.routes[site].dual = s.rs.routes[site].dual := by
    refine (congrArg RouteRec.dual (updAt_self _ _ _)).trans ?_
    refine (congrArg RouteRec.dual (updRoute_self site (RouteRec.onto choice) s)).trans ?_
    unfold RouteRec.onto
    split <;> rfl
  rw [dualWanted_iff, State.wantsDual, route]
  rfl

/-- The parts of a selection that places its primary on `p`. -/
theorem selectDest_parts {first : PathNo} {rest : List PathNo} (epoch : s.rs.epoch ≠ 0)
    (order : ranked s site r.cls r.size = first :: rest) (isChoice : choice = choiceOf s site r.cls r.size first)
    (found : placing s r.cls r.size choice (ranked s site r.cls r.size) = some p) :
    ∃ v q, Placed r site choice p q s v ∧ Duals r site p q s ∧
      selectDest r site s = choicesOn p q (answerDest r.hdr site (queuedDest q) v) := by
  have base : Placed r site choice p none s (primaryPlaced r site choice p s) := primaryPlaced_placed
  rcases dualCopy_cases (freshMsg s r site p) r.force (ranked s site r.cls r.size) (primaryPlaced r site choice p s) with
    ⟨none_, why⟩ | ⟨q, wanted, other, room, made⟩
  · refine ⟨_, none, base, ⟨nofun, fun wants x isFirst apart => ⟨fun fits => ?_, fun _ => rfl⟩⟩,
      selectDest_places epoch order (isChoice ▸ found) (isChoice ▸ none_)⟩
    rcases why with unwanted | full
    · exact absurd (primaryPlaced_wants.mpr wants) unwanted
    · exact absurd ((primaryPlaced_room apart).mpr fits) (full x isFirst)
  · have eligible : s.eligibleFor site q ∧ q ≠ p :=
      ⟨mem_ranked.mp (List.mem_of_find?_eq_some other), of_decide_eq_true (p := q ≠ p) (List.find?_some other :)⟩
    refine ⟨_, some q, base.withCopy q, ⟨fun x is => ?_, fun _ x isFirst apart => ?_⟩,
      selectDest_places epoch order (isChoice ▸ found) (isChoice ▸ made)⟩
    · obtain rfl := Option.some.inj is
      exact ⟨primaryPlaced_wants.mp wanted, eligible⟩
    · obtain rfl : q = x := Option.some.inj (other.symm.trans isFirst)
      exact ⟨fun _ => rfl, fun full => absurd ((primaryPlaced_room apart).mp room) full⟩

end

theorem freshMsg_eq {s : State} {r : Record} {hdr : Nat} (line : r.hdr = hdr) (site : Site) (p : PathNo) :
    freshMsg s r site p = {
      site := site, cls := r.cls, epoch := s.rs.epoch
      seq := if r.cls = .urgent then s.rs.routes[site].nextUrgent else s.rs.routes[site].nextBulk
      dual := false, capture := r.capture, payload := r.payload.getD [], slot := hdr, path := p
      mark := s.rs.placement } := by
  unfold freshMsg
  rw [line]
  cases r.cls <;> rfl

theorem exec_selection {s : State} {hdr : Nat} {r : Record} {site : Site} (ready : s.isReady = true)
    (found : s.recordOf hdr = some r) (asks : r.asking = some site) :
    exec (.selection hdr) s = .next (flush (selectDest r site s.quiet)) := by
  refine (run_eq _ s).trans (congrArg (fun u => Host.Outcome.next (flush u)) ?_)
  unfold selection
  rw [show s.quiet.recordOf hdr = some r from found]
  dsimp only
  rw [asks]
  exact if_pos ready

end Sys2Proof.Machine

open Sys2Proof Sys2Proof.Machine

/-- Settles O21: a refusal of a full or an unroutable selection, and otherwise the parts of a placing one, told apart by
whether a dual copy was made. -/
theorem selectionPlaces : Obligations.SelectionPlaces := by
  intro s hdr r site ready epoch open_ asks
  have line := recordOf_hdr open_
  have runs := exec_selection ready open_ asks
  have sends : Sends s (flush (selectDest r site s.quiet)) :=
    ((Sends.of_cmd (s := s) (t := s.quiet) rfl rfl ⟨rfl, rfl⟩).trans (selectDest_sends r site _)).trans (flush_sends _)
  have found : s.quiet.recordOf hdr = some r := open_
  have epoch : s.quiet.rs.epoch ≠ 0 := epoch
  refine ⟨fun x up fits => ?_, fun full => ?_⟩
  · cases order : ranked s.quiet site r.cls r.size with
    | nil => exact absurd (order ▸ mem_ranked.mpr up) List.not_mem_nil
    | cons first rest =>
    have upFirst : s.eligibleFor site first := (mem_ranked (s := s.quiet)).mp (order ▸ List.mem_cons_self)
    obtain ⟨choice, isChoice⟩ : ∃ c, c = choiceOf s.quiet site r.cls r.size first := ⟨_, rfl⟩
    have upChoice : s.eligibleFor site choice := isChoice ▸ choiceOf_eligible (s := s.quiet) upFirst
    cases placed : placing s.quiet r.cls r.size choice (ranked s.quiet site r.cls r.size) with
    | none =>
      have here : ¬ hasPortRoom s.quiet r.cls r.size x = true := fun has =>
        List.find?_eq_none.mp placed x (by
          by_cases same : x = choice
          · exact same ▸ List.mem_cons_self
          · exact List.mem_cons_of_mem _ (List.mem_filter.mpr ⟨mem_ranked.mpr up, by simpa using same⟩)) has
      exact absurd (hasPortRoom_iff.mpr fits) here
    | some p =>
    obtain ⟨isIn, room⟩ := placing_some placed
    have upP : s.eligibleFor site p := isIn.elim (fun e => e ▸ upChoice) fun h => (mem_ranked (s := s.quiet)).mp h
    have room : s.pathHasRoom p r.cls r.size := hasPortRoom_iff.mp room
    obtain ⟨v, q, made, duals, comes⟩ := selectDest_parts epoch order isChoice placed
    obtain ⟨w, hw⟩ : ∃ w, w = answerDest r.hdr site (queuedDest q) v := ⟨_, rfl⟩
    rw [← hw] at comes
    have outside := outsideCapture_outside (hw ▸ answerDest_outsideCapture r.hdr site (queuedDest q) v)
    have wtx : w.tx = v.tx := (outside_tx_eq outside :)
    have wrs : w.rs = v.rs := (outside_rs_eq outside :)
    have wpaths : w.paths = s.paths := (outside_paths_eq outside :).trans made.paths
    have wlink : w.link = s.link := (outside_link_eq outside :).trans made.link
    have rs : (flush (selectDest r site s.quiet)).rs = v.rs := by rw [flush_rs, comes, choicesOn_rs, wrs]
    have carries : ∀ {j : PortNo} {m : Msg}, v.tx[j].carries m → (flush (selectDest r site s.quiet)).tx[j].carries m :=
      fun {j m} had => by
        rw [flush_tx, comes]
        exact choicesOn_carries (by rw [wtx]; exact had)
    have foundV : v.recordOf r.hdr = some r := by
      rw [recordOf_of_cu made.cu, line]
      exact found
    obtain ⟨r', found', bare⟩ := recordOf_bareRecords (choicesOn_bareRecords (p := p) (q := q) (w := w))
      (hw ▸ answerDest_open (site := site) (d := queuedDest q) foundV rfl)
    have isCurrent : (flush (selectDest r site s.quiet)).rs.routes[site].current = some choice := by
      rw [rs]
      exact made.route.current
    have chosen : hasPortRoom s.quiet r.cls r.size choice = true → p = choice := fun has =>
      (Option.some.inj (placed.symm.trans (placing_choice has)))
    refine ⟨_, r', p, if q.isSome then .queued else .absent, freshMsg s.quiet r site p, runs, upP, room, freshMsg_eq (s := s.quiet) line _ _,
      carries made.primary, fun c current upC roomC near => ?_, fun f upF roomF fastest far => ?_,
      fun bulk busy single => ?_, ?_, (congrArg Record.phase bare).trans ((withAnswer_phase _ _ r).trans (asking_routing asks)),
      fun i => ?_, ?_, fun without => ?_, fun wants x upX differ fastest apart => ?_, ?_, ?_, ?_, ?_, ?_, ?_, ?_,
      fun other differ => ?_, fun x => ?_, sends.outside⟩
    · have is : choice = c := isChoice.trans (choiceOf_keeps (s := s.quiet) current upC (near first upFirst))
      exact ⟨(chosen (hasPortRoom_iff.mpr (is ▸ roomC))).trans is, is ▸ isCurrent⟩
    · have ahead : first = f := Decidable.byContradiction fun differ =>
        absurd (head_ranked (s := s.quiet) order upF) (Nat.not_le.mpr (fastest first upFirst differ))
      have is : choice = f := isChoice.trans
        ((choiceOf_leaves (s := s.quiet) (fun c current upC => ahead ▸ far c current upC)).trans ahead)
      exact ⟨(chosen (hasPortRoom_iff.mpr (is ▸ roomF))).trans is, is ▸ isCurrent⟩
    · have apart : ∀ x, q = some x → s.paths[x].port ≠ s.paths[p].port := fun x is => by
        rcases single with none_ | elsewhere
        · rw [is] at none_
          exact nomatch none_
        · exact elsewhere x (duals.wanted x is).2.1 (duals.wanted x is).2.2
      have self : v.tx[s.paths[p].port] = s.tx[s.paths[p].port].place (freshMsg s.quiet r site p) := made.alone apart
      have port : ∀ x : PathNo, w.paths[x].port = s.paths[x].port := fun x => by rw [wpaths]
      have idle : lineFree w.paths[p].port w = false := by
        simp only [port]
        rw [lineFree_congr (s := s) wlink (by rw [wtx, self, place_line])]
        exact busy
      have kept := choicesOn_busy (q := q) idle (by simpa only [port] using apart)
      simp only [port] at kept
      rw [flush_tx, comes, kept, wtx, self]
      exact Transmitter.place_takes (m := freshMsg s.quiet r site p) bulk _
    · rw [recordOf_of_cu (flush_cu _), comes, ← line]
      exact found'
    · have dests : r'.dests = (r.withAnswer site (queuedDest q)).dests := congrArg (·.dests) bare
      rw [dests, withAnswer_get]
      rfl
    · rw [rs]
      cases q with
      | none => exact .inl ⟨rfl, made.route.duals.trans (BitVec.add_zero _)⟩
      | some x =>
        obtain ⟨-, upX, differ⟩ := duals.wanted x rfl
        exact .inr ⟨rfl, made.route.duals, x, upX, differ, carries (made.copy x rfl)⟩
    · cases q with
      | none => rfl
      | some x =>
        obtain ⟨wants, upX, differ⟩ := duals.wanted x rfl
        exact without.elim (absurd wants) fun only => absurd (only x upX) differ
    · have isFirst : (ranked s.quiet site r.cls r.size).find? (· ≠ p) = some x := by
        cases other : (ranked s.quiet site r.cls r.size).find? (· ≠ p) with
        | none => exact absurd (by simpa using differ) (List.find?_eq_none.mp other x (mem_ranked.mpr upX))
        | some y =>
          have upY : s.eligibleFor site y := (mem_ranked (s := s.quiet)).mp (List.mem_of_find?_eq_some other)
          have notP : y ≠ p := of_decide_eq_true (p := y ≠ p) (List.find?_some other :)
          refine congrArg some (Decidable.byContradiction fun different => ?_)
          exact absurd (find_ranked (s := s.quiet) other upX (by simpa using differ))
            (Nat.not_le.mpr (fastest y upY notP different))
      obtain ⟨fits, full⟩ := duals.first wants x isFirst apart
      refine ⟨fun has => ?_, fun has => ?_⟩
      · rw [fits has]
        exact ⟨rfl, carries (made.copy x (fits has))⟩
      · rw [full has]
        rfl
    · rw [rs]
      exact made.route.urgent
    · rw [rs]
      exact made.route.bulk
    · rw [rs]
      exact made.route.placed
    · rw [isCurrent, rs, made.route.fallbacks]
      simp only [Option.some.injEq]
      rfl
    · rw [rs]
      exact made.route.refused
    · rw [rs]
      exact made.placement
    · rw [rs]
      exact made.epoch
    · rw [rs]
      exact made.others other differ
    · rw [flush_paths, comes, bare_state (choicesOn_paths x), wpaths]
  · cases order : ranked s.quiet site r.cls r.size with
    | nil =>
      obtain ⟨⟨r', found', dests⟩, rs, frame⟩ := refuseSelection_refuses site .noRoute (line.symm ▸ found)
      rw [← selectDest_unroutable epoch order] at found' rs frame
      refine ⟨_, r', runs, line ▸ found', fun ⟨x, up⟩ => ?_, fun _ => ⟨?_, ?_⟩, fun i other => ?_, ?_, ?_, ?_, ?_,
        fun other differ => ?_, ?_, ?_, frame⟩
      · exact absurd (order ▸ mem_ranked.mpr up) List.not_mem_nil
      · rw [dests, if_pos rfl]
      · rw [rs, updRoute_self]
        rfl
      · rw [dests, if_neg other]
      · rw [rs, updRoute_self]
        rfl
      · rw [rs, updRoute_self]
        rfl
      · rw [rs, updRoute_self]
        rfl
      · rw [rs, updRoute_self]
        rfl
      · rw [rs, updRoute_other differ]
        rfl
      · rw [rs]
        rfl
      · rw [rs]
        rfl
    | cons first rest =>
      have upFirst : s.eligibleFor site first := (mem_ranked (s := s.quiet)).mp (order ▸ List.mem_cons_self)
      have upChoice : s.eligibleFor site (choiceOf s.quiet site r.cls r.size first) :=
        choiceOf_eligible (s := s.quiet) upFirst
      have nowhere : placing s.quiet r.cls r.size (choiceOf s.quiet site r.cls r.size first)
          (ranked s.quiet site r.cls r.size) = none :=
        placing_none fun p isIn has => full p
          (isIn.elim (fun e => e ▸ upChoice) fun h => (mem_ranked (s := s.quiet)).mp h) (hasPortRoom_iff.mp has)
      obtain ⟨v, hv⟩ : ∃ v, v = setCurrent site (choiceOf s.quiet site r.cls r.size first) s.quiet := ⟨_, rfl⟩
      have comes := selectDest_full epoch order nowhere
      rw [← hv] at comes
      have foundV : v.recordOf r.hdr = some r := by rw [hv, line]; exact found
      obtain ⟨⟨r', found', dests⟩, rs, frame⟩ := refuseSelection_refuses site .queueFull foundV
      rw [← comes] at found' rs frame
      have route : v.rs.routes[site] = s.rs.routes[site].onto (choiceOf s.quiet site r.cls r.size first) := by
        rw [hv]
        exact updRoute_self _ _ _
      obtain ⟨-, urgent, bulk, placed, -, refused, -⟩ := onto_keeps (choiceOf s.quiet site r.cls r.size first) s.rs.routes[site]
      refine ⟨_, r', runs, line ▸ found', fun _ => ?_, fun none_ => ?_, fun i other => ?_, ?_, ?_, ?_, ?_,
        fun other differ => ?_, ?_, ?_, ?_⟩
      · rw [dests, if_pos rfl]
      · exact absurd upFirst (none_ first)
      · rw [dests, if_neg other]
      · rw [rs, updRoute_self, route]
        exact congrArg (· + 1) refused
      · rw [rs, updRoute_self, route]
        exact placed
      · rw [rs, updRoute_self, route]
        exact urgent
      · rw [rs, updRoute_self, route]
        exact bulk
      · rw [rs, updRoute_other differ, hv]
        exact updRoute_other differ _ _
      · rw [rs, hv]
        rfl
      · rw [rs, hv]
        rfl
      · rw [frame, hv]
        rfl

end

section
/-! SUPPORT. What the Receive Merge Unit's operations do to a site's windows, its ring and the own requests, said once
for each operation. -/

namespace Sys2Proof.Machine

-- One proof at a time: each would otherwise hold a thread of its own.
set_option Elab.async false

/-! ## The own requests formed -/

/-- The own requests formed and not yet granted, in order. -/
def State.owed (s : State) : List (Nat × Option WLine × OwnTag) := s.formed.map (fun r => (r.line, r.write, r.tag))

theorem owesRun_iff {s : State} {run : List (Nat × Option WLine × OwnTag)} : s.owesRun run ↔ run <:+: s.owed := Iff.rfl

theorem formGroup_owed {reqs : List (Nat × Option WLine × OwnTag)} (plain : ∀ r ∈ reqs, r.2.2.isMirror = false)
    (act : JoinAct) (s : State) : (formGroup reqs act s).owed = s.owed ++ reqs := by
  obtain ⟨f, keeps, eq⟩ := formGroup_appends reqs act s
  have same : (numbered s.mi.nextId reqs).map f = numbered s.mi.nextId reqs := by
    refine (List.map_congr_left fun r isIn => keeps r ?_).trans (List.map_id _)
    have triple := List.mem_map_of_mem (f := fun r : OwnReq => (r.line, r.write, r.tag)) isIn
    rw [numbered_triples] at triple
    exact plain _ triple
  unfold State.owed
  rw [eq, same, List.map_append, numbered_triples]

theorem flush_owed (s : State) : s.owed <+: (flush s).owed := by
  have groups : ∀ (reqs : List (Nat × Option WLine × OwnTag)) (u : State), u.owed <+: (formGroup reqs .nothing u).owed :=
    fun reqs u => by
      obtain ⟨f, -, eq⟩ := formGroup_appends reqs .nothing u
      unfold State.owed
      rw [eq, List.map_append]
      exact List.prefix_append _ _
  unfold flush
  split
  · dsimp only
    split
    · exact List.prefix_rfl
    · exact groups _ { s with cmd := { s.cmd with changes := [] } }
  · exact List.prefix_rfl

theorem raise_owed (c : Cause) (s : State) : (raise c s).owed = s.owed := rfl

theorem updSite_owed (site : Site) (f : RxSite → RxSite) (s : State) : (s.updSite site f).owed = s.owed := rfl

theorem updSite_self (site : Site) (f : RxSite → RxSite) (s : State) : (s.updSite site f).rmu[site] = f s.rmu[site] :=
  updAt_self _ _ _

theorem updSite_other {site other : Site} (h : other ≠ site) (f : RxSite → RxSite) (s : State) :
    (s.updSite site f).rmu[other] = s.rmu[other] := updAt_other _ _ _ _ h

/-! ## The ring (R142, R145) -/

theorem putAt_ne_nil {α : Type} {l : List α} (off : Nat) (xs : List α) (h : l ≠ []) : putAt l off xs ≠ [] := by
  cases l with
  | nil => exact absurd rfl h
  | cons a l =>
    cases off with
    | zero =>
      cases xs with
      | nil => simp [putAt]
      | cons x xs => simp [putAt]
    | succ n => simp [putAt]

theorem layout_ne_nil {n : Nat} (h : n ≠ 0) (fields : List (Nat × List Byte)) : layout n fields ≠ [] := by
  have folds : ∀ (l : List Byte), l ≠ [] → fields.foldl (fun l f => putAt l f.1 f.2) l ≠ [] := by
    induction fields with
    | nil => exact fun l h => h
    | cons f fs ih => exact fun l h => ih _ (putAt_ne_nil f.1 f.2 h)
  exact folds _ (by simpa using h)

theorem recordLine_ne_nil (site : Site) (rec : RingRecord) : rec.line site ≠ [] := by
  cases rec <;> exact layout_ne_nil (by decide) _

theorem arrivedLine_ne_nil (m : Arrived) : m.line ≠ [] := layout_ne_nil (by decide) _

theorem putAt_zero {α : Type} {l : List α} (x : α) (h : l ≠ []) : putAt l 0 [x] = l.set 0 x := by
  cases l with
  | nil => exact absurd rfl h
  | cons a l => simp [putAt]

section
variable {site : Site} {s : State} {base n : Nat}

/-- A slot written to a present ring. -/
theorem writeSlot_ring (a b : List Byte) (here : s.rmu[site].ring.place = some (base, n)) :
    (writeSlot site a b s).rmu[site] = { s.rmu[site] with ring := s.rmu[site].ring.after n } := by
  have records := writeSlot_records site a b s
  have ring := (writeSlot_present (a := a) (b := b) here).1
  have parts : ∀ x : RxSite, x = ⟨x.urgent, x.bulk, x.ring⟩ := fun _ => rfl
  rw [parts (writeSlot site a b s).rmu[site], records.urgent, records.bulk, ring]

theorem writeSlot_owed {a : List Byte} (b : List Byte) (line : a ≠ []) (here : s.rmu[site].ring.place = some (base, n)) :
    (writeSlot site a b s).owed = s.owed ++ s.rmu[site].ring.slotWrites base n a b := by
  unfold writeSlot
  dsimp only
  rw [here]
  dsimp only
  rw [formGroup_owed (by simp [OwnTag.isMirror]), advance_eq_after, updSite_owed, putAt_zero _ line, RxRing.slotWrites,
    show base + 2 + 2 * s.rmu[site].ring.producer + 1 = base + 3 + 2 * s.rmu[site].ring.producer by omega]
  rfl

theorem writeRecord_ring (rec : RingRecord) (here : s.rmu[site].ring.place = some (base, n)) :
    (writeRecord site rec s).rmu[site] = { s.rmu[site] with ring := s.rmu[site].ring.after n } :=
  writeSlot_ring _ _ here

theorem writeRecord_owed (rec : RingRecord) (here : s.rmu[site].ring.place = some (base, n)) :
    (writeRecord site rec s).owed = s.owed ++ s.rmu[site].ring.slotWrites base n (rec.line site) (List.replicate 64 0) :=
  (raise_owed _ _).trans (writeSlot_owed _ (recordLine_ne_nil site rec) here)

theorem canWrite_true (here : s.rmu[site].ring.place = some (base, n)) (none_ : s.rmu[site].ring.pending = [])
    (room : 1 ≤ freeSlots n s.rmu[site].ring.consumer s.rmu[site].ring.producer) : s.rmu[site].ring.canWrite = true := by
  unfold RxRing.canWrite RxRing.hasRoom
  rw [here, none_]
  simpa using room

end

theorem canWrite_false {r : RxRing} (h : r.place = none ∨ r.roomy (· = 0) ∨ r.pending ≠ []) : r.canWrite = false := by
  unfold RxRing.canWrite
  rw [Bool.and_eq_false_iff, RxRing.hasRoom_eq_false]
  rcases h with h | h | h
  · exact .inl (.inl h)
  · exact .inl (.inr h)
  · exact .inr (by simpa using h)

theorem sub_one_mod {n x k : Nat} (h : x % n = k + 1) : (x - 1) % n = k := by
  by_cases zero : n = 0
  · subst zero
    rw [Nat.mod_zero] at h ⊢
    omega
  · have split := Nat.div_add_mod x n
    have small : k < n := by have := Nat.mod_lt x (Nat.pos_of_ne_zero zero); omega
    have eq : x - 1 = n * (x / n) + k := by omega
    rw [eq, Nat.mul_add_mod, Nat.mod_eq_of_lt small]

/-- A slot taken leaves one fewer (R142). -/
theorem freeSlots_after {r : RxRing} {n k : Nat} (free : freeSlots n r.consumer r.producer = k + 1) :
    freeSlots n (r.after n).consumer (r.after n).producer = k := by
  have less := sub_one_mod free
  unfold freeSlots at free ⊢
  simp only [RxRing.after]
  split
  · next wraps =>
    have eq : r.consumer + 2 * n - 0 - 1 = r.consumer + 2 * n - r.producer - 1 - 1 + n := by
      have some_ : 0 < r.consumer + 2 * n - r.producer - 1 := by
        rcases Nat.eq_zero_or_pos (r.consumer + 2 * n - r.producer - 1) with zero | pos
        · rw [zero, Nat.zero_mod] at free
          exact nomatch free
        · exact pos
      omega
    rw [eq, Nat.add_mod_right]
    exact less
  · rw [show r.consumer + 2 * n - (r.producer + 1) - 1 = r.consumer + 2 * n - r.producer - 1 - 1 by omega]
    exact less

/-! ## Records (R153) -/

theorem putRecord_writes {site : Site} {rec : RingRecord} {s : State} (can : s.rmu[site].ring.canWrite = true) :
    putRecord site rec s = writeRecord site rec s := if_pos can

/-- A record that cannot be written waits. -/
theorem putRecord_waits {site : Site} {rec : RingRecord} {s : State} (cannot : s.rmu[site].ring.canWrite = false) :
    (putRecord site rec s).rmu[site] = { s.rmu[site] with
      ring := { s.rmu[site].ring with pending := joinPending rec s.rmu[site].ring.pending } } ∧
    (putRecord site rec s).hasCause .ringOverrun := by
  unfold putRecord
  rw [cannot]
  exact ⟨updSite_self _ _ _, raise_hasCause _ _⟩

/-! ## Windows -/

theorem updWindow_self (site : Site) (cls : MsgClass) (f : RxWindow → RxWindow) (s : State) :
    (s.updWindow site cls f).rmu[site] = s.rmu[site].setWindow cls f := updAt_self _ _ _

theorem outsideTraffic_of_outside {s t : State} (h : t.outside = { s with rmu := t.rmu }.outside) :
    t.outsideTraffic = s.outsideTraffic :=
  congrArg (fun x : State => { x with
    tx := Vector.replicate 6 Transmitter.reset, paths := Vector.replicate 16 PathRec.reset, rs := RouteSelector.reset
    cu := CaptureUnit.reset, rmu := Vector.replicate 8 RxSite.reset }) h

/-- What an operation on one window of a site, with its ring, leaves. -/
structure Merges (site : Site) (cls : MsgClass) (s t : State) : Prop where
  traffic : t.outsideTraffic = s.outsideTraffic
  others : ∀ r : Site, r ≠ site → t.rmu[r] = s.rmu[r]
  window : ∀ c, c ≠ cls → t.rmu[site].window c = s.rmu[site].window c
  causes : ∀ c, s.hasCause c → t.hasCause c
  owed : s.owed <+: t.owed

namespace Merges

variable {site : Site} {cls : MsgClass}

theorem refl (s : State) : Merges site cls s s := ⟨rfl, fun _ _ => rfl, fun _ _ => rfl, fun _ => id, List.prefix_rfl⟩

theorem trans {s t u : State} (h : Merges site cls s t) (k : Merges site cls t u) : Merges site cls s u where
  traffic := k.traffic.trans h.traffic
  others := fun r apart => (k.others r apart).trans (h.others r apart)
  window := fun c apart => (k.window c apart).trans (h.window c apart)
  causes := fun c e => k.causes c (h.causes c e)
  owed := h.owed.trans k.owed

theorem of_records {s t : State} (h : Records site s t) (owed : s.owed <+: t.owed) : Merges site cls s t where
  traffic := outsideTraffic_of_outside h.outside
  others := h.others
  window := fun c _ => by cases c; exacts [h.urgent, h.bulk]
  causes := h.causes
  owed := owed

theorem overAll {α : Type} (l : List α) (f : α → State → State) (h : ∀ a s, Merges site cls s (f a s)) (s : State) :
    Merges site cls s (overAll l f s) :=
  overAll_induct (Merges site cls s) l f (fun a _ u hu => hu.trans (h a u)) s (refl s)

end Merges

section
variable (site : Site) (cls : MsgClass)

theorem raise_merges (c : Cause) (s : State) : Merges site cls s (raise c s) :=
  .of_records (raise_records site c s) List.prefix_rfl

theorem writeSlot_merges (a b : List Byte) (s : State) : Merges site cls s (writeSlot site a b s) := by
  refine .of_records (writeSlot_records site a b s) ?_
  unfold writeSlot
  dsimp only
  split
  · rw [formGroup_owed (by simp [OwnTag.isMirror]), updSite_owed]
    exact List.prefix_append _ _
  · exact List.prefix_rfl

theorem writeRecord_merges (rec : RingRecord) (s : State) : Merges site cls s (writeRecord site rec s) :=
  (writeSlot_merges site cls _ _ s).trans (raise_merges site cls _ _)

theorem putRecord_merges (rec : RingRecord) (s : State) : Merges site cls s (putRecord site rec s) := by
  unfold putRecord
  split
  · exact writeRecord_merges site cls rec s
  · exact (Merges.of_records (Records.of_ring site (fun x => { x with pending := joinPending rec x.pending }) s)
      List.prefix_rfl).trans (raise_merges site cls _ _)

theorem reportRuns_merges (cause : GapCause) (runs : List Run) (s : State) :
    Merges site cls s (reportRuns site cls cause runs s) :=
  .overAll _ _ (fun _ u => putRecord_merges site cls _ u) s

theorem updWindow_merges (f : RxWindow → RxWindow) (s : State) : Merges site cls s (s.updWindow site cls f) where
  traffic := rfl
  others := fun _ apart => updAt_other _ _ _ _ apart
  window := fun c apart => by rw [updWindow_self, setWindow_other _ _ apart]
  causes := fun _ => id
  owed := List.prefix_rfl

theorem relieveWindow_merges (s : State) : Merges site cls s (relieveWindow site cls s) := by
  unfold relieveWindow
  dsimp only
  split
  · exact (updWindow_merges site cls _ s).trans (reportRuns_merges site cls _ _ _)
  · exact .refl s

end

theorem acceptMsg_merges (m : Arrived) (v : Nat) (s : State) : Merges m.site m.cls s (acceptMsg m v s) := by
  unfold acceptMsg
  split
  · exact (updWindow_merges m.site m.cls _ s).trans (writeSlot_merges m.site m.cls _ _ _)
  · exact ((updWindow_merges m.site m.cls _ s).trans (raise_merges m.site m.cls _ _)).trans
      (relieveWindow_merges m.site m.cls _)

theorem newSession_merges (m : Arrived) (s : State) : Merges m.site m.cls s (newSession m s) :=
  ((updWindow_merges m.site m.cls _ s).trans (putRecord_merges m.site m.cls _ _)).trans (acceptMsg_merges m 0 _)

theorem advanceWindow_merges (m : Arrived) (top : BitVec 32) (u : Nat) (s : State) :
    Merges m.site m.cls s (advanceWindow m top u s) :=
  ((reportRuns_merges m.site m.cls _ _ s).trans (updWindow_merges m.site m.cls _ _)).trans (acceptMsg_merges m 0 _)

theorem trailingLag_merges (site : Site) (cls : MsgClass) (p : PathNo) (arrival accepted : Stamp) (s : State) :
    Merges site cls s (trailingLag p arrival accepted s) :=
  ⟨rfl, fun _ _ => rfl, fun _ _ => rfl, fun _ => id, List.prefix_rfl⟩

theorem messageArrived_merges (m : Arrived) (s : State) : Merges m.site m.cls s (messageArrived m s) := by
  unfold messageArrived
  dsimp only
  split
  · exact .refl s
  · split
    · exact newSession_merges m s
    · split
      · exact .refl s
      · split
        · exact advanceWindow_merges m _ _ s
        · split
          · split
            · exact trailingLag_merges _ _ _ _ _ s
            · exact acceptMsg_merges m _ s
            · exact .refl s
          · exact .refl s

theorem heardNotice_merges (site : Site) (cls : MsgClass) (k : PortNo) (src : Nat) (s : State) :
    Merges site cls s (heardNotice k src s) := ⟨rfl, fun _ _ => rfl, fun _ _ => rfl, fun _ => id, List.prefix_rfl⟩

theorem flush_merges (site : Site) (cls : MsgClass) (s : State) : Merges site cls s (flush s) where
  traffic := outsideTraffic_of_outside (by rw [flush_outside, flush_rmu])
  others := fun _ _ => by rw [flush_rmu]
  window := fun _ _ => by rw [flush_rmu]
  causes := (flush_sends s).causes
  owed := flush_owed s

end Sys2Proof.Machine
end

section
/-! SUPPORT. How a message is judged: each outcome once; the statement about receptions and reassembly. -/

namespace Sys2Proof.Machine

-- One proof at a time: each would otherwise hold a thread of its own.
set_option Elab.async false

/-! ## A message accepted, or a hole (R150) -/

/-- A window with a position put at an offset below top. -/
def RxWindow.put (v : Nat) (p : Position) (w : RxWindow) : RxWindow := ({ w with map := w.map.set v (some p) }).retime

theorem Records.window {site : Site} {s t : State} (h : Records site s t) (c : MsgClass) :
    t.rmu[site].window c = s.rmu[site].window c := by
  cases c
  exacts [h.urgent, h.bulk]

section
variable {m : Arrived} {v : Nat} {s : State}

/-- A message with a slot to write. -/
theorem acceptMsg_writes {base n : Nat} (here : s.rmu[m.site].ring.place = some (base, n))
    (none_ : s.rmu[m.site].ring.pending = [])
    (room : 1 ≤ freeSlots n s.rmu[m.site].ring.consumer s.rmu[m.site].ring.producer) :
    (acceptMsg m v s).rmu[m.site] = { s.rmu[m.site].setWindow m.cls (RxWindow.put v (.accepted m.arrival m.path)) with
      ring := s.rmu[m.site].ring.after n } ∧
    (acceptMsg m v s).owed = s.owed ++ s.rmu[m.site].ring.slotWrites base n m.line m.second := by
  obtain ⟨u, hu⟩ : ∃ u, u = s.updWindow m.site m.cls (RxWindow.put v (.accepted m.arrival m.path)) := ⟨_, rfl⟩
  have self : u.rmu[m.site] = s.rmu[m.site].setWindow m.cls (RxWindow.put v (.accepted m.arrival m.path)) := by
    rw [hu, updWindow_self]
  have ring : u.rmu[m.site].ring = s.rmu[m.site].ring := by rw [self, setWindow_ring]
  have writes : acceptMsg m v s = writeSlot m.site m.line m.second u := by
    unfold acceptMsg
    rw [canWrite_true here none_ room, hu]
    rfl
  have place : u.rmu[m.site].ring.place = some (base, n) := by rw [ring, here]
  refine ⟨?_, ?_⟩
  · rw [writes, writeSlot_ring _ _ place, ring, self]
  · rw [writes, writeSlot_owed _ (arrivedLine_ne_nil m) place, ring, hu]
    rfl

theorem relieveWindow_few {site : Site} {cls : MsgClass} {u : State}
    (few : (u.rmu[site].window cls).map.length ≠ 256 ∨ ∃ p ∈ (u.rmu[site].window cls).map, isHole p = false) :
    relieveWindow site cls u = u := by
  refine if_neg fun ⟨length, all⟩ => ?_
  rcases few with short | ⟨p, isIn, other⟩
  · exact short length
  · have hole := List.all_eq_true.mp all p isIn
    rw [other] at hole
    exact nomatch hole

theorem relieveWindow_full {site : Site} {cls : MsgClass} {u : State} {top : BitVec 32}
    (length : (u.rmu[site].window cls).map.length = 256) (all : ∀ p ∈ (u.rmu[site].window cls).map, isHole p = true)
    (isTop : (u.rmu[site].window cls).top = some top) : relieveWindow site cls u = reportRuns site cls .overflow
      [(top - 255, 1)] (u.updWindow site cls (fun w => ({ w with map := w.map.set 255 (some .lost) }).retime)) := by
  unfold relieveWindow
  dsimp only
  rw [if_pos ⟨length, List.all_eq_true.mpr all⟩, isTop]
  rfl

/-- The state with the message's number a hole and RING_OVERRUN raised. -/
def holed (m : Arrived) (v : Nat) (s : State) : State :=
  raise .ringOverrun (s.updWindow m.site m.cls (RxWindow.put v (.hole s.now)))

theorem acceptMsg_fails (cannot : s.rmu[m.site].ring.canWrite = false) :
    acceptMsg m v s = relieveWindow m.site m.cls (holed m v s) := by
  unfold acceptMsg
  rw [cannot]
  rfl

theorem holed_site : (holed m v s).rmu[m.site] = s.rmu[m.site].setWindow m.cls (RxWindow.put v (.hole s.now)) :=
  updWindow_self _ _ _ s

theorem acceptMsg_overrun (cannot : s.rmu[m.site].ring.canWrite = false) : (acceptMsg m v s).hasCause .ringOverrun := by
  rw [acceptMsg_fails cannot]
  exact (relieveWindow_merges m.site m.cls _).causes _ (raise_hasCause _ _)

/-- A message with no slot to write, some position not being a hole. -/
theorem acceptMsg_holes (cannot : s.rmu[m.site].ring.canWrite = false)
    (few : ((s.rmu[m.site].window m.cls).map.set v (some (.hole s.now))).length ≠ 256 ∨
      ∃ p ∈ (s.rmu[m.site].window m.cls).map.set v (some (.hole s.now)), isHole p = false) :
    (acceptMsg m v s).rmu[m.site] = s.rmu[m.site].setWindow m.cls (RxWindow.put v (.hole s.now)) := by
  have map : ((holed m v s).rmu[m.site].window m.cls).map =
      (s.rmu[m.site].window m.cls).map.set v (some (.hole s.now)) := by
    rw [holed_site, setWindow_window]
    rfl
  rw [acceptMsg_fails cannot, relieveWindow_few (by rw [map]; exact few), holed_site]

/-- A window's numbers, its timeout and how many positions it holds. -/
def RxWindow.heading (w : RxWindow) : BitVec 32 × BitVec 32 × Option (BitVec 32) × Nat × Nat :=
  (w.epoch, w.prevEpoch, w.top, w.timeout, w.map.length)

theorem put_heading (v : Nat) (p : Position) (w : RxWindow) : (w.put v p).heading = w.heading := by
  simp [RxWindow.heading, RxWindow.put, RxWindow.retime]

theorem relieveWindow_heading (site : Site) (cls : MsgClass) (u : State) :
    ((relieveWindow site cls u).rmu[site].window cls).heading = (u.rmu[site].window cls).heading := by
  unfold relieveWindow
  dsimp only
  split
  · rw [(reportRuns_records site cls _ _ _).window, updWindow_self, setWindow_window]
    simp [RxWindow.heading, RxWindow.retime]
  · rfl

theorem acceptMsg_heading : ((acceptMsg m v s).rmu[m.site].window m.cls).heading =
    (s.rmu[m.site].window m.cls).heading := by
  unfold acceptMsg
  split
  · rw [(writeSlot_records m.site _ _ _).window, updWindow_self, setWindow_window]
    exact put_heading _ _ _
  · rw [relieveWindow_heading, show (raise .ringOverrun _).rmu = (State.updWindow _ _ _ _).rmu from rfl, updWindow_self,
      setWindow_window]
    exact put_heading _ _ _

end

/-! ## The judging (R146 to R149) -/

section
variable {m : Arrived} {s : State}

theorem messageArrived_stale (stale : m.epoch = 0 ∨ m.epoch = (s.rmu[m.site].window m.cls).prevEpoch) :
    messageArrived m s = s := if_pos stale

theorem messageArrived_new (nonzero : m.epoch ≠ 0) (other : m.epoch ≠ (s.rmu[m.site].window m.cls).epoch)
    (previous : m.epoch ≠ (s.rmu[m.site].window m.cls).prevEpoch) : messageArrived m s = newSession m s :=
  (if_neg (not_or.mpr ⟨nonzero, previous⟩)).trans (if_pos other)

section
variable {top : BitVec 32} (nonzero : m.epoch ≠ 0) (current : m.epoch = (s.rmu[m.site].window m.cls).epoch)
  (previous : m.epoch ≠ (s.rmu[m.site].window m.cls).prevEpoch) (isTop : (s.rmu[m.site].window m.cls).top = some top)
include nonzero current previous isTop

theorem messageArrived_current : messageArrived m s =
    if 1 ≤ (m.seq - top).toNat ∧ (m.seq - top).toNat < 2 ^ 31 then advanceWindow m top (m.seq - top).toNat s
    else if (top - m.seq).toNat ≤ 255 then
      match (s.rmu[m.site].window m.cls).map.getD (top - m.seq).toNat none with
      | some (.accepted arrival _) => trailingLag m.path m.arrival arrival s
      | some (.hole _) => acceptMsg m (top - m.seq).toNat s
      | _ => s
    else s := by
  refine (if_neg (not_or.mpr ⟨nonzero, previous⟩)).trans ((if_neg (not_not_intro current)).trans ?_)
  rw [isTop] <;> rfl

theorem messageArrived_above (above : 1 ≤ (m.seq - top).toNat) (near : (m.seq - top).toNat < 2 ^ 31) :
    messageArrived m s = advanceWindow m top (m.seq - top).toNat s :=
  (messageArrived_current nonzero current previous isTop).trans (if_pos ⟨above, near⟩)

theorem messageArrived_within (within : (top - m.seq).toNat ≤ 255) : messageArrived m s =
    match (s.rmu[m.site].window m.cls).map.getD (top - m.seq).toNat none with
    | some (.accepted arrival _) => trailingLag m.path m.arrival arrival s
    | some (.hole _) => acceptMsg m (top - m.seq).toNat s
    | _ => s := by
  have notAbove : ¬ (1 ≤ (m.seq - top).toNat ∧ (m.seq - top).toNat < 2 ^ 31) := by
    rw [BitVec.toNat_sub] at within ⊢
    omega
  exact (messageArrived_current nonzero current previous isTop).trans ((if_neg notAbove).trans (if_pos within))

theorem messageArrived_hole {since : Nat} (within : (top - m.seq).toNat ≤ 255)
    (position : (s.rmu[m.site].window m.cls).map[(top - m.seq).toNat]? = some (some (.hole since))) :
    messageArrived m s = acceptMsg m (top - m.seq).toNat s := by
  rw [messageArrived_within nonzero current previous isTop within, List.getD_eq_getElem?_getD, position]
  rfl

theorem messageArrived_duplicate {first : Stamp} {q : PathNo} (within : (top - m.seq).toNat ≤ 255)
    (position : (s.rmu[m.site].window m.cls).map[(top - m.seq).toNat]? = some (some (.accepted first q))) :
    messageArrived m s = trailingLag m.path m.arrival first s := by
  rw [messageArrived_within nonzero current previous isTop within, List.getD_eq_getElem?_getD, position]
  rfl

theorem messageArrived_gone (gone : (top - m.seq).toNat ≤ 255 ∧
      ((s.rmu[m.site].window m.cls).map[(top - m.seq).toNat]? = some (some .lost) ∨
        (s.rmu[m.site].window m.cls).map[(top - m.seq).toNat]? = some none ∨
        (s.rmu[m.site].window m.cls).map.length ≤ (top - m.seq).toNat) ∨
    255 < (top - m.seq).toNat ∧ 2 ^ 31 ≤ (m.seq - top).toNat) : messageArrived m s = s := by
  rcases gone with ⟨within, position⟩ | ⟨below, far⟩
  · rw [messageArrived_within nonzero current previous isTop within, List.getD_eq_getElem?_getD]
    rcases position with lost | absent | past
    · rw [lost]
      rfl
    · rw [absent]
      rfl
    · rw [List.getElem?_eq_none past]
      rfl
  · rw [messageArrived_current nonzero current previous isTop, if_neg fun h => Nat.not_le.mpr h.2 far,
      if_neg (Nat.not_le.mpr below)]

end

/-! ## A new session (R146) -/

/-- The window of a new session, before its first message is judged. -/
def RxWindow.opened (epoch seq : BitVec 32) (w : RxWindow) : RxWindow :=
  { w with prevEpoch := w.epoch, epoch := epoch, top := some seq, map := [none], holeDue := none }

theorem newSession_eq : newSession m s = acceptMsg m 0 (putRecord m.site
    (.restart m.cls m.epoch (s.rmu[m.site].window m.cls).epoch m.seq false)
    (s.updWindow m.site m.cls (RxWindow.opened m.epoch m.seq))) := by
  unfold newSession
  dsimp only
  refine congrArg (fun x => acceptMsg m 0 (putRecord m.site _ x)) ?_
  have site : (s.rmu[m.site].setWindow m.cls fun w =>
      { w with prevEpoch := (s.rmu[m.site].window m.cls).epoch, epoch := m.epoch, top := some m.seq, map := [none]
               holeDue := none }) = s.rmu[m.site].setWindow m.cls (RxWindow.opened m.epoch m.seq) := by
    cases m.cls <;> rfl
  unfold State.updWindow State.updSite
  rw [updAt_congr site]

theorem newSession_heading : ((newSession m s).rmu[m.site].window m.cls).heading =
    (m.epoch, (s.rmu[m.site].window m.cls).epoch, some m.seq, (s.rmu[m.site].window m.cls).timeout, 1) := by
  rw [newSession_eq, acceptMsg_heading, (putRecord_records m.site _ _).window, updWindow_self, setWindow_window]
  rfl

end

/-! ## The path of a frame (R131) -/

theorem pathOfFrame_only {s : State} {k : PortNo} {p : PathNo} (only : s.OnlyPath k p) :
    pathOfFrame s k s.paths[p].site.val = some p := by
  obtain ⟨port, on, others⟩ := only
  obtain ⟨q, found, onQ, portQ, siteQ⟩ := pathOfFrame_some on port
  by_cases same : q = p
  · rw [found, same]
  · exact ((others q same onQ).elim (absurd portQ) (absurd siteQ))

theorem pathOfFrame_heard (s : State) (k j : PortNo) (src n : Nat) :
    pathOfFrame (heardNotice j src s) k n = pathOfFrame s k n := by
  unfold pathOfFrame
  congr 1
  funext p
  rw [heardNotice_keeps j src s p]

/-! ## Reassembly (R133, R134) -/

theorem opens_iff {f : Fragment} : f.opens = true ↔ f.goodHeader := by
  simp only [Fragment.opens, Fragment.goodHeader, Bool.and_eq_true, decide_eq_true_eq, List.all_eq_true, and_assoc]
  exact Iff.rfl

theorem breaks_iff {f : Fragment} {got total : Nat} :
    f.breaks got total = true ↔ (f.last = false ∧ f.payload.length ≠ 64) ∨ total < got + f.payload.length := by
  simp [Fragment.breaks]

section
variable {src : Site} {path : PathNo} {arrival : Stamp} {f : Fragment} {ctx : Option Reassembly}

/-- A fragment 0 whose header passes and that is no break opens a context. -/
theorem rejoin_opens (zero : f.index = 0) (good : f.goodHeader)
    (whole : ¬ ((f.last = false ∧ f.payload.length ≠ 64) ∨ f.total < f.payload.length)) : rejoin src path arrival f ctx =
      (openContext src path arrival f).close f.last (if ctx.isSome then 1 else 0) := by
  have fits : f.breaks 0 (bulkTotal (openContext src path arrival f).lengths) = false := by
    rw [← Bool.not_eq_true, breaks_iff, Nat.zero_add]
    exact whole
  unfold rejoin
  rw [if_pos zero]
  dsimp only
  rw [opens_iff.mpr good, fits]
  rfl

/-- The next fragment of the open context's frame, no break, extends it. -/
theorem rejoin_extends {c : Reassembly} (more : f.index ≠ 0) (site : c.site = src) (id : c.id = f.id)
    (next : c.next = f.index) (whole : ¬ ((f.last = false ∧ f.payload.length ≠ 64) ∨
      (c.lengths.map (8 + ·)).sum < c.bytes.length + f.payload.length)) : rejoin src path arrival f (some c) =
      { c with bytes := c.bytes ++ f.payload, next := c.next + 1, path := path }.close f.last 0 := by
  have fits : f.breaks c.bytes.length (bulkTotal c.lengths) = false := by
    rw [← Bool.not_eq_true, breaks_iff]
    exact whole
  unfold rejoin
  rw [if_neg more]
  dsimp only
  rw [if_pos ⟨site, id, next.symm, by rw [fits]; rfl⟩]

/-- Any other fragment breaks what is open. -/
theorem rejoin_breaks (bad : f.index = 0 ∧ (¬ f.goodHeader ∨ f.total < f.payload.length) ∨
    f.index ≠ 0 ∧ (∀ c : Reassembly, ctx = some c → c.site ≠ src ∨ c.id ≠ f.id ∨ c.next ≠ f.index ∨
      (c.lengths.map (8 + ·)).sum < c.bytes.length + f.payload.length) ∨
    f.last = false ∧ f.payload.length ≠ 64) : rejoin src path arrival f ctx = ⟨none, 1, none⟩ := by
  unfold rejoin
  by_cases zero : f.index = 0
  · have fails : ¬ (f.opens && !f.breaks 0 (bulkTotal (openContext src path arrival f).lengths)) = true := by
      rw [Bool.and_eq_true, opens_iff, Bool.not_eq_true', ← Bool.not_eq_true, breaks_iff, Nat.zero_add]
      rintro ⟨good, whole⟩
      rcases bad with ⟨-, header | past⟩ | ⟨more, -⟩ | short
      · exact header good
      · exact whole (.inr past)
      · exact more zero
      · exact whole (.inl short)
    rw [if_pos zero]
    dsimp only
    rw [if_neg fails]
  · rw [if_neg zero]
    cases ctx with
    | none => rfl
    | some c =>
      dsimp only
      refine if_neg fun ⟨site, id, next, whole⟩ => ?_
      rw [Bool.not_eq_true', ← Bool.not_eq_true, breaks_iff] at whole
      rcases bad with ⟨is, -⟩ | ⟨-, other⟩ | short
      · exact zero is
      · rcases other c rfl with h | h | h | past
        · exact h site
        · exact h id
        · exact h next.symm
        · exact whole (.inr past)
      · exact whole (.inl short)

end

theorem close_site {c d : Reassembly} {last : Bool} {n : Nat} (whole : (c.close last n).whole = some d) :
    d.site = c.site := by
  unfold Reassembly.close at whole
  split at whole
  · split at whole
    · exact congrArg Reassembly.site (Option.some.inj whole.symm)
    · exact nomatch whole
  · exact nomatch whole

theorem rejoin_site {src : Site} {path : PathNo} {arrival : Stamp} {f : Fragment} {ctx : Option Reassembly}
    {d : Reassembly} (whole : (rejoin src path arrival f ctx).whole = some d) : d.site = src := by
  unfold rejoin at whole
  dsimp only at whole
  split at whole
  · split at whole
    · exact close_site whole
    · exact nomatch whole
  · split at whole
    · split at whole
      · next extends_ => exact (close_site whole).trans extends_.1
      · exact nomatch whole
    · exact nomatch whole

theorem close_open {c : Reassembly} {n : Nat} : c.close false n = ⟨some c, n, none⟩ := rfl

theorem close_last (c : Reassembly) (n : Nat) : (c.close true n).ctx = none := by
  unfold Reassembly.close
  rw [if_pos rfl]
  split <;> rfl

theorem close_whole {c : Reassembly} {n : Nat} (whole : c.bytes.length = (c.lengths.map (8 + ·)).sum) :
    c.close true n = ⟨none, n, some c⟩ := by
  unfold Reassembly.close
  rw [if_pos rfl]
  exact if_pos whole

theorem close_short {c : Reassembly} {n : Nat} (short : c.bytes.length ≠ (c.lengths.map (8 + ·)).sum) :
    c.close true n = ⟨none, n + 1, none⟩ := by
  unfold Reassembly.close
  rw [if_pos rfl]
  exact if_neg short

/-- What a fragment makes of a receiver. -/
def Receiver.rejoined (r : Rejoined) (x : Receiver) : Receiver :=
  { x with
    ctx := r.ctx
    counters := { x.counters with
      breaks := x.counters.breaks + BitVec.ofNat 32 r.breaks
      bulk := if r.whole.isSome then x.counters.bulk + 1 else x.counters.bulk } }

/-- The messages of a completed frame are handed on. -/
def handOn (whole : Option Reassembly) (s : State) : State :=
  match whole with
  | some c => overAll (unpack c 0 c.lengths c.bytes) messageArrived s
  | none => s

theorem fragmentArrived_eq {k : PortNo} {src : Site} {arrival : Stamp} {f : Fragment} {s : State} {p : PathNo}
    (path : pathOfFrame s k src.val = some p) {r : Rejoined} (rejoins : rejoin src p arrival f s.rx[k].ctx = r) :
    fragmentArrived k src arrival f s = handOn r.whole (s.updRx k (Receiver.rejoined r)) := by
  unfold fragmentArrived
  rw [path]
  dsimp only
  rw [rejoins]
  rfl

theorem unpack_site {c : Reassembly} {i : Nat} {ns : List Nat} {bs : List Byte} {m : Arrived}
    (isIn : m ∈ unpack c i ns bs) : m.site = c.site ∧ m.cls = .bulk := by
  induction ns generalizing i bs with
  | nil => exact absurd isIn List.not_mem_nil
  | cons n ns ih =>
    rcases List.mem_cons.mp isIn with rfl | later
    · exact ⟨rfl, rfl⟩
    · exact ih later

theorem handOn_merges {whole : Option Reassembly} {site : Site} (from_ : ∀ c, whole = some c → c.site = site) (s : State) :
    Merges site .bulk s (handOn whole s) := by
  cases whole with
  | none => exact .refl s
  | some c =>
    refine overAll_induct (Merges site .bulk s) _ messageArrived (fun m isIn u had => had.trans ?_) s (.refl s)
    obtain ⟨at_, bulk⟩ := unpack_site isIn
    exact from_ c rfl ▸ at_ ▸ bulk ▸ messageArrived_merges m u

/-- A frame of one message of a new epoch opens its session (R134, R146). -/
theorem handOn_single {c : Reassembly} {n : Nat} {epoch : BitVec 32} {s : State} {site : Site} (at_ : c.site = site) (single : c.lengths = [n])
    (isEpoch : epoch = BitVec.ofNat 32 (field c.bytes 0 4)) (nonzero : epoch ≠ 0)
    (other : epoch ≠ s.rmu[site].bulk.epoch) (previous : epoch ≠ s.rmu[site].bulk.prevEpoch) :
    (handOn (some c) s).rmu[site].bulk.epoch = epoch ∧
    (handOn (some c) s).rmu[site].bulk.top = some (BitVec.ofNat 32 (field c.bytes 4 4)) := by
  subst at_
  obtain ⟨m, hm⟩ : ∃ m : Arrived, m = {
      site := c.site, cls := .bulk, epoch := BitVec.ofNat 32 (field c.bytes 0 4)
      seq := BitVec.ofNat 32 (field c.bytes 4 4), copy := flagByte (c.copies.getLsbD 0), capture := none
      payload := (c.bytes.drop 8).take n, arrival := c.arrival, path := c.path } := ⟨_, rfl⟩
  have one : handOn (some c) s = messageArrived m s := by
    rw [hm]
    unfold handOn
    dsimp only
    rw [single]
    rfl
  have new : messageArrived m s = newSession m s := by
    refine messageArrived_new ?_ ?_ ?_
    all_goals rw [hm]
    · exact isEpoch ▸ nonzero
    · exact isEpoch ▸ other
    · exact isEpoch ▸ previous
  have heading := newSession_heading (m := m) (s := s)
  rw [one, new]
  rw [hm] at heading ⊢
  simp only [RxWindow.heading, Prod.mk.injEq] at heading
  obtain ⟨isE, -, isTop, -⟩ := heading
  exact ⟨isE.trans isEpoch.symm, isTop⟩

end Sys2Proof.Machine

open Sys2Proof Sys2Proof.Machine

/-- Settles O27: a fragment acts on the reassembly context as `rejoin` says, and each clause names its case. -/
theorem receptionTakesStamp : Obligations.ReceptionTakesStamp := by
  intro s k ready link
  refine ⟨fun free settled => run_settled settled ?_ rfl rfl, fun p stamp here f reception only other wf => ?_⟩
  · unfold frameReceptionStart
    rw [show s.quiet.rx[k].reception = none from free]
    refine (if_pos (Bool.and_eq_true_iff.mpr ⟨Bool.and_eq_true_iff.mpr ⟨ready, link⟩, rfl⟩)).trans ?_
    refine congrArg (fun b => s.quiet.updRx k (fun r => { r with reception := some (s.tu.station, b) })) ?_
    change (s.tu.state == .locked || s.tu.state == .holdover) = decide (s.tu.state = .locked ∨ s.tu.state = .holdover)
    cases s.tu.state <;> rfl
  · obtain ⟨u, hu⟩ : ∃ u, u = heardNotice k s.paths[p].site.val (s.quiet.received k) := ⟨_, rfl⟩
    obtain ⟨x, hx⟩ : ∃ x : Receiver, x = { s.rx[k] with
      reception := none, counters := { s.rx[k].counters with good := s.rx[k].counters.good + 1 } } := ⟨_, rfl⟩
    have self : u.rx[k] = x := by
      rw [hu, hx]
      exact updRx_self _ _ _
    have path : pathOfFrame u k s.paths[p].site.val = some p := by
      rw [hu, pathOfFrame_heard]
      exact pathOfFrame_only (s := s) only
    obtain ⟨r, hr⟩ : ∃ r, r = rejoin s.paths[p].site p stamp f s.rx[k].ctx := ⟨_, rfl⟩
    obtain ⟨v, hv⟩ : ∃ v, v = u.updRx k (Receiver.rejoined r) := ⟨_, rfl⟩
    have ctx : u.rx[k].ctx = s.rx[k].ctx := by rw [self, hx]
    have comes := fragmentArrived_eq path (r := r) (arrival := stamp) (f := f) (by rw [ctx, hr])
    rw [← hv] at comes
    have runs := exec_frameArrival (f := ⟨siteByte s.paths[p].site, siteByte s.ownSite, .bulk f⟩) ready link reception
      (wellFormed_between wf other)
    unfold dispatchFrame at runs
    dsimp only at runs
    rw [ofNat_siteByte, ← hu, comes] at runs
    have from_ : ∀ c, r.whole = some c → c.site = s.paths[p].site := fun c whole => rejoin_site (hr ▸ whole)
    have merges := (handOn_merges from_ v).trans (flush_merges s.paths[p].site .bulk _)
    have rx : (flush (handOn r.whole v)).rx = updAt s.rx k (fun _ => x.rejoined r) := by
      have kept : (flush (handOn r.whole v)).rx = v.rx := congrArg (·.rx) merges.traffic
      rw [kept, hv, State.updRx_rx, hu, hx]
      refine (updAt_updAt _ _ _ _).trans ?_
      exact updAt_congr rfl
    have rmu : v.rmu = s.rmu := by rw [hv, hu]; rfl
    have at_ : (flush (handOn r.whole v)).rx[k] = x.rejoined r := by
      rw [rx]
      exact updAt_self _ _ _
    have quiet : r.whole = none → (flush (handOn r.whole v)).rmu = s.rmu := fun none_ => by
      rw [flush_rmu, none_]
      exact rmu
    have breaks : (flush (handOn r.whole v)).rx[k].counters.breaks = s.rx[k].counters.breaks + BitVec.ofNat 32 r.breaks := by
      rw [at_, hx]
      rfl
    have counts : ∀ b : Bool, BitVec.ofNat 32 (if b then 1 else 0) = if b then 1 else 0 := by decide
    refine ⟨_, runs, ?_, fun j apart => ?_, ?_, fun zero good last long fits => ?_, fun zero good last fits => ?_,
      fun c more isCtx site id next last long fits => ?_, fun c n epoch more isCtx site id next last => ⟨fun whole => ?_, fun short => ?_⟩,
      fun bad => ?_⟩
    · rw [at_, hx]
      rfl
    · rw [rx]
      exact updAt_other _ _ _ _ apart
    · have kept : (flush (handOn r.whole v)).rx = v.rx := congrArg (·.rx) merges.traffic
      rw [kept]
      refine merges.traffic.trans ?_
      rw [hv, hu]
      rfl
    · have is : r = ⟨some (openContext s.paths[p].site p stamp f), if s.rx[k].ctx.isSome then 1 else 0, none⟩ := by
        rw [hr, rejoin_opens zero good (by simp [long]; omega), last, close_open]
      refine ⟨?_, ?_, quiet (by rw [is])⟩
      · rw [at_, is]
        rfl
      · rw [breaks, is, counts]
    · have opens := rejoin_opens (src := s.paths[p].site) (path := p) (arrival := stamp) (ctx := s.rx[k].ctx) zero good
        (by simp [last]; omega)
      rw [← hr, last] at opens
      refine ⟨?_, fun whole => ⟨?_, ?_⟩, fun short => ⟨quiet ?_, ?_⟩⟩
      · rw [at_, opens]
        exact close_last _ _
      · rw [at_, opens, close_whole whole, hx]
        rfl
      · rw [breaks, opens, close_whole whole, counts]
      · rw [opens, close_short (Nat.ne_of_lt short)]
      · rw [breaks, opens, close_short (Nat.ne_of_lt short)]
        cases s.rx[k].ctx.isSome <;> rfl
    · have is : r = ⟨some { c with bytes := c.bytes ++ f.payload, next := c.next + 1, path := p }, 0, none⟩ := by
        rw [hr, isCtx, rejoin_extends more site id next (by simp [long]; omega), last, close_open]
      refine ⟨?_, ?_, quiet (by rw [is])⟩
      · rw [at_, is]
        rfl
      · rw [breaks, is]
        exact BitVec.add_zero _
    · have is : r = ⟨none, 0, some { c with bytes := c.bytes ++ f.payload, next := c.next + 1, path := p }⟩ := by
        rw [hr, isCtx, rejoin_extends more site id next (by simp [last]; omega), last]
        exact close_whole (by simpa using whole)
      refine ⟨?_, ?_, ?_, fun single isEpoch nonzero new previous => ?_⟩
      · rw [at_, is]
        rfl
      · rw [breaks, is]
        exact BitVec.add_zero _
      · rw [at_, is, hx]
        rfl
      · rw [← rmu] at new previous
        have opened := handOn_single (c := { c with bytes := c.bytes ++ f.payload, next := c.next + 1, path := p }) site
          single isEpoch nonzero new previous
        refine ⟨?_, ?_, (merges.window .urgent nofun).trans ?_⟩
        · rw [flush_rmu, is]
          exact opened.1
        · rw [flush_rmu, is]
          exact opened.2
        · rw [rmu]
          rfl
    · have is : r = ⟨none, 1, none⟩ := by
        rw [hr, isCtx]
        by_cases past : (c.lengths.map (8 + ·)).sum < c.bytes.length + f.payload.length
        · exact rejoin_breaks (.inr (.inl ⟨more, fun d isD => Option.some.inj isD ▸ .inr (.inr (.inr past))⟩))
        · rw [rejoin_extends more site id next (by simp [last]; omega), last]
          exact close_short (by simpa using short)
      refine ⟨?_, ?_, quiet (by rw [is])⟩
      · rw [at_, is]
        rfl
      · rw [breaks, is]
        rfl
    · have is : r = ⟨none, 1, none⟩ := by
        rw [hr]
        exact rejoin_breaks bad
      refine ⟨?_, ?_, quiet (by rw [is])⟩
      · rw [at_, is]
        rfl
      · rw [breaks, is]
        rfl

end

section
/-! SUPPORT. A hole timer's expiry and a granted write, said once; the statement about holes and hand-offs. -/

namespace Sys2Proof.Machine

-- One proof at a time: each would otherwise hold a thread of its own.
set_option Elab.async false

/-! ## The hole timer (R151, R152) -/

/-- Whether a position is a hole that an expiry makes LOST. -/
def isLate (due timeout : Nat) (p : Option Position) : Bool := (holeSince p).any (fun t => decide (t + timeout ≤ due))

/-- A window with its late holes lost. -/
def RxWindow.expired (due : Nat) (w : RxWindow) : RxWindow :=
  ({ w with map := w.map.map (fun p => if isLate due w.timeout p then some .lost else p) }).retime

theorem holeExpiry_eq {site : Site} {cls : MsgClass} {s : State} {due : Nat} {top : BitVec 32}
    (running : (s.rmu[site].window cls).holeDue = some due) (isTop : (s.rmu[site].window cls).top = some top) :
    holeExpiry site cls s = reportRuns site cls .timeout
      (runsOf top 0 (s.rmu[site].window cls).map (isLate due (s.rmu[site].window cls).timeout))
      (s.updWindow site cls (RxWindow.expired due)) := by
  unfold holeExpiry
  dsimp only
  rw [running, isTop]
  refine congrArg (reportRuns site cls .timeout _) ?_
  unfold State.updWindow State.updSite
  refine congrArg (fun m => { s with rmu := m }) (updAt_congr ?_)
  cases cls <;> rfl

theorem filter_single {ps : List (Option Position)} {pick : Option Position → Bool} {i : Nat} {x : Option Position}
    (isAt : ps[i]? = some x) (picked : pick x = true)
    (alone : ∀ j, j ≠ i → ∀ y, ps[j]? = some y → pick y = false) (k : Nat) :
    (ps.zipIdx k).filter (fun z => pick z.1) = [(x, k + i)] := by
  induction ps generalizing i k with
  | nil => exact nomatch isAt
  | cons p ps ih =>
    rw [List.zipIdx_cons]
    cases i with
    | zero =>
      obtain rfl : p = x := Option.some.inj isAt
      have rest : (ps.zipIdx (k + 1)).filter (fun z => pick z.1) = [] := by
        refine List.filter_eq_nil_iff.mpr fun z isIn => ?_
        rw [alone (z.2 - (k + 1) + 1) (Nat.succ_ne_zero _) z.1 (List.mem_zipIdx_iff_le_and_getElem?_sub.mp isIn).2]
        exact Bool.false_ne_true
      rw [List.filter_cons_of_pos (by exact picked), rest]
      rfl
    | succ i =>
      have other : pick p = false := alone 0 (Nat.succ_ne_zero i).symm p rfl
      rw [List.filter_cons_of_neg (by simp [other]),
        ih isAt (fun j differ y isY => alone (j + 1) (by omega) y isY) (k + 1), Nat.add_right_comm, Nat.add_assoc]

/-- One position that a test picks makes one run. -/
theorem runsOf_single {top : BitVec 32} {offset i : Nat} {ps : List (Option Position)} {pick : Option Position → Bool}
    {x : Option Position} (isAt : ps[i]? = some x) (picked : pick x = true)
    (alone : ∀ j, j ≠ i → ∀ y, ps[j]? = some y → pick y = false) :
    runsOf top offset ps pick = [(top - BitVec.ofNat 32 (offset + i), 1)] := by
  unfold runsOf
  rw [List.filter_reverse, filter_single isAt picked alone, Nat.zero_add]
  rfl

theorem runsOf_none {top : BitVec 32} {offset : Nat} {ps : List (Option Position)} {pick : Option Position → Bool}
    (none_ : ∀ p ∈ ps, pick p = false) : runsOf top offset ps pick = [] := by
  have filtered : ps.zipIdx.reverse.filter (fun z => pick z.1) = [] := by
    refine List.filter_eq_nil_iff.mpr fun z isIn => ?_
    obtain ⟨-, isZ⟩ := List.mem_zipIdx_iff_le_and_getElem?_sub.mp (List.mem_reverse.mp isIn)
    rw [none_ z.1 (List.mem_of_getElem? isZ)]
    exact Bool.false_ne_true
  unfold runsOf
  rw [filtered]
  rfl

theorem reportRuns_one (site : Site) (cls : MsgClass) (cause : GapCause) (first : BitVec 32) (n : Nat) (s : State) :
    reportRuns site cls cause [(first, n)] s =
      putRecord site (.gap cls (s.rmu[site].window cls).epoch first n cause false) s := rfl

/-! ## A granted write (R93) -/

/-- The state once a write has been granted, which its window's tests have left. -/
def granted (line : Nat) (ls : List WLine) (u : State) : State :=
  setHead [] (flush { u.emit (.memory (.write line ls)) with mi := { u.mi with
    outstanding := u.mi.outstanding ++ [.forwarded 0 false], lastForwarded := true } })

theorem exec_memoryGrant_write {s u : State} {line : Nat} {ls ls' : List WLine} {win : Window} (ready : s.isReady = true)
    (own : s.mi.own = []) (head : s.mi.head = some ⟨[⟨.write line ls, some win⟩], []⟩)
    (grants : grantWrite win line ls s.quiet = (u, ls')) : exec .memoryGrant s = .next (granted line ls' u) := by
  have presents : s.quiet.mi.presented = some (⟨.write line ls, some win⟩, []) := by
    unfold Interposer.presented
    rw [State.quiet_mi, head]
  have part : grantPart ⟨.write line ls, some win⟩ s.quiet = (u, .write line ls') := by
    unfold grantPart
    dsimp only
    rw [show s.quiet.isReady = true from ready, grants]
    rfl
  have event : memoryGrant s.quiet = granted line ls' u := by
    unfold memoryGrant
    rw [presents, State.quiet_mi, own]
    dsimp only
    unfold grantForwarded
    rw [part]
    rfl
  rw [show exec .memoryGrant s = .next (flush (memoryGrant s.quiet)) from rfl, event]
  exact congrArg Host.Outcome.next (flush_settled ((flush_settles _).congr rfl rfl))

section
variable {line : Nat} {ls : List WLine} {u : State}

theorem granted_out : (granted line ls u).out = u.out ++ [.memory (.write line ls)] :=
  (show (granted line ls u).out = (flush _).out from rfl).trans (flush_out _)

theorem granted_rmu : (granted line ls u).rmu = u.rmu :=
  (show (granted line ls u).rmu = (flush _).rmu from rfl).trans (flush_rmu _)

theorem granted_cu : (granted line ls u).cu = u.cu :=
  (show (granted line ls u).cu = (flush _).cu from rfl).trans (flush_cu _)

theorem granted_owed : u.owed <+: (granted line ls u).owed := flush_owed { u.emit _ with mi := { u.mi with
  outstanding := u.mi.outstanding ++ [.forwarded 0 false], lastForwarded := true } }

theorem granted_hasCause {c : Cause} (h : u.hasCause c) : (granted line ls u).hasCause c := flush_hasCause (s :=
  { u.emit _ with mi := { u.mi with outstanding := u.mi.outstanding ++ [.forwarded 0 false], lastForwarded := true } }) h

theorem granted_outside : (granted line ls u).outside = { u with mi := { u.mi with
    head := none, outstanding := (granted line ls u).mi.outstanding, lastForwarded := true } }.outside := by
  have frame := flush_outside { u.emit (.memory (.write line ls)) with mi := { u.mi with
    outstanding := u.mi.outstanding ++ [.forwarded 0 false], lastForwarded := true } }
  have outstanding : (granted line ls u).mi.outstanding = u.mi.outstanding ++ [.forwarded 0 false] :=
    (show (granted line ls u).mi.outstanding = (flush _).mi.outstanding from rfl).trans (flush_outstanding _)
  rw [outstanding]
  exact congrArg (fun v : State => { v with mi := { v.mi with head := none } }) frame

end

/-! ## A consumer hand-off (R143, R154) -/

theorem writeSlot_out (site : Site) (a b : List Byte) (s : State) : (writeSlot site a b s).out = s.out := by
  unfold writeSlot
  dsimp only
  split
  · rw [formGroup_out]
    rfl
  · rfl

theorem drain_out (n : Nat) (site : Site) (s : State) : (drain n site s).out = s.out := by
  induction n generalizing s with
  | zero => rfl
  | succ n ih =>
    unfold drain
    split
    · split
      · exact (ih _).trans (writeSlot_out _ _ _ _)
      · rfl
    · rfl

theorem drain_none {n : Nat} {site : Site} {s : State}
    (stays : s.rmu[site].ring.pending = [] ∨ s.rmu[site].ring.hasRoom = false) : drain n site s = s := by
  cases n with
  | zero => rfl
  | succ n =>
    unfold drain
    rcases stays with none_ | full
    · rw [none_]
    · split
      · rw [full, if_neg Bool.false_ne_true]
      · rfl

section
variable {site : Site} {s : State} {base n v : Nat}

theorem consumerHandoff_ignored (here : s.rmu[site].ring.place = some (base, n)) (high : n ≤ v) :
    consumerHandoff site v s = s := by
  unfold consumerHandoff
  rw [here]
  exact if_pos high

/-- A ring with another consumer index. -/
def consumed (site : Site) (v : Nat) (s : State) : State :=
  s.updSite site (fun x => { x with ring := { x.ring with consumer := v } })

theorem consumed_site : (consumed site v s).rmu[site] =
    { s.rmu[site] with ring := { s.rmu[site].ring with consumer := v } } := updSite_self _ _ _

theorem consumerHandoff_out : (consumerHandoff site v s).out = s.out := by
  unfold consumerHandoff
  split
  · split
    · rfl
    · exact drain_out _ _ _
  · rfl

theorem consumerHandoff_taken (here : s.rmu[site].ring.place = some (base, n)) (low : v < n) :
    consumerHandoff site v s = drain s.rmu[site].ring.pending.length site (consumed site v s) := by
  have pending : (consumed site v s).rmu[site].ring.pending = s.rmu[site].ring.pending := by rw [consumed_site]
  unfold consumerHandoff
  rw [here]
  dsimp only
  rw [if_neg (Nat.not_le.mpr low), ← pending]
  rfl

end

end Sys2Proof.Machine
open Sys2Proof Sys2Proof.Machine

/-- Settles O30: the expiry loses the late holes and reports their runs; a hand-off drains what the ring has room for. -/
theorem oldHolesAreLost : Obligations.OldHolesAreLost := by
  refine ⟨fun s site cls d ready running past some_ => ?_, fun s site win w n v ready own kind param isN place run small head => ?_⟩
  · obtain ⟨top, isTop⟩ := Option.ne_none_iff_exists'.mp some_
    obtain ⟨u, hu⟩ : ∃ u, u = s.quiet.updWindow site cls (RxWindow.expired d) := ⟨_, rfl⟩
    obtain ⟨runs, isRuns⟩ : ∃ runs, runs = runsOf top 0 (s.rmu[site].window cls).map
      (isLate d (s.rmu[site].window cls).timeout) := ⟨_, rfl⟩
    have event : exec (.holeTimerExpiry site cls) s = .next (flush (reportRuns site cls .timeout runs u)) := by
      refine (run_eq _ s).trans (congrArg (fun u => Host.Outcome.next (flush u)) ?_)
      refine (if_pos (Bool.and_eq_true_iff.mpr ⟨ready, dueBy_iff.mpr ⟨d, running, past⟩⟩)).trans ?_
      rw [isRuns, hu]
      exact holeExpiry_eq (s := s.quiet) running isTop
    have self : u.rmu[site] = s.rmu[site].setWindow cls (RxWindow.expired d) := by
      rw [hu]
      exact updWindow_self _ _ _ _
    have records := reportRuns_records site cls .timeout runs u
    have window : (flush (reportRuns site cls .timeout runs u)).rmu[site].window cls =
        (s.rmu[site].window cls).expired d := by
      rw [flush_rmu, records.window, self, setWindow_window]
    have ring : u.rmu[site].ring = s.rmu[site].ring := by rw [self, setWindow_ring]
    have late : ∀ p : Option Position, (if isLate d (s.rmu[site].window cls).timeout p then some .lost else p) =
        match p with
        | some (.hole since) => if since + (s.rmu[site].window cls).timeout ≤ d then some .lost else p
        | _ => p := fun p => by
      rcases p with _ | ⟨_ | _ | _⟩ <;> simp [isLate, holeSince]
    have merges := (reportRuns_merges site cls .timeout runs u).trans (flush_merges site cls _)
    refine ⟨_, event, ?_, ?_, ?_, ?_, fun top' i since isTop' isAt old others none_ => ?_, fun r apart => ?_, ?_⟩
    · rw [window]
      exact List.map_congr_left fun p _ => late p
    · rw [window]
      refine congrArg (fun m : List Nat => m.min?.map (· + (s.rmu[site].window cls).timeout)) ?_
      refine List.filterMap_congr fun p _ => ?_
      rcases p with _ | ⟨_ | _ | _⟩ <;> rfl
    · rw [window]
      rfl
    · rw [window]
      rfl
    · obtain rfl : top = top' := Option.some.inj (isTop.symm.trans isTop')
      have single : runs = [(top - BitVec.ofNat 32 i, 1)] := by
        rw [isRuns, runsOf_single isAt (by simpa [isLate, holeSince] using old) fun j differ p isP => ?_, Nat.zero_add]
        rcases p with _ | ⟨_ | other | _⟩
        · rfl
        · rfl
        · simpa [isLate, holeSince] using others j other differ isP
        · rfl
      have epoch : (u.rmu[site].window cls).epoch = (s.rmu[site].window cls).epoch := by
        rw [self, setWindow_window]
        rfl
      have reports : reportRuns site cls .timeout runs u =
          putRecord site (.gap cls (s.rmu[site].window cls).epoch (top - BitVec.ofNat 32 i) 1 .timeout false) u := by
        rw [single, reportRuns_one, epoch]
      rw [reports, flush_rmu]
      refine ⟨fun base n here room => ?_, fun absent => ?_⟩
      · rw [← ring] at here none_ room
        rw [putRecord_writes (canWrite_true here none_ room)]
        refine ⟨?_, flush_hasCause (raise_hasCause _ _), ?_⟩
        · rw [writeRecord_ring _ here, ring]
        · refine flush_keeps_owesRun ?_
          rw [owesRun_iff, writeRecord_owed _ here, ring]
          exact (List.suffix_append _ _).isInfix
      · rw [← ring] at absent none_
        obtain ⟨waits, cause⟩ := putRecord_waits
          (rec := .gap cls (s.rmu[site].window cls).epoch (top - BitVec.ofNat 32 i) 1 .timeout false)
          (canWrite_false (.inl absent))
        refine ⟨flush_hasCause cause, ?_⟩
        rw [waits, none_, ring]
        rfl
    · rw [merges.others r apart, hu]
      exact updSite_other apart _ _
    · rw [flush_rmu, flush_outside, records.outside, hu]
      rfl
  · obtain ⟨u, hu⟩ : ∃ u, u = consumerHandoff site v s.quiet := ⟨_, rfl⟩
    have grants : grantWrite win (win.base * 64) [w] s.quiet = (u, [w]) := by
      have isSite : Fin.ofNat 8 win.param = site := by
        rw [param]
        exact Fin.ext (Nat.mod_eq_of_lt site.isLt)
      have hands : handsOn win.base (win.base * 64) [w] = some v := by
        unfold handsOn
        rw [if_pos rfl, List.headD_cons, run, Option.map_some, leNat_leBytes, Nat.mod_eq_of_lt (by omega)]
      have write : receiveWrite win (win.base * 64) [w] s.quiet = u := by
        unfold receiveWrite
        simp only [isSite, hands]
        rw [if_pos (by rw [State.quiet_rmu, place, isN]; rfl), hu]
      unfold grantWrite
      rw [kind]
      exact congrArg (·, [w]) write
    have runs := exec_memoryGrant_write ready own head grants
    have records : Records site s.quiet u := hu ▸ consumerHandoff_records site v s.quiet
    have taken : v < n → u = drain s.rmu[site].ring.pending.length site (consumed site v s.quiet) := fun low =>
      hu ▸ consumerHandoff_taken (s := s.quiet) place low
    have out : u.out = [] := hu ▸ consumerHandoff_out
    refine ⟨_, runs, by rw [granted_out, out]; rfl, fun high => ?_, fun low stays => ?_, fun rec low only room => ?_,
      ?_, ?_, fun r apart => ?_, ?_⟩
    · rw [granted_rmu, hu, consumerHandoff_ignored (s := s.quiet) place high]
      rfl
    · have kept : drain s.rmu[site].ring.pending.length site (consumed site v s.quiet) = consumed site v s.quiet := by
        refine drain_none (stays.imp (fun none_ => ?_) fun full => ?_)
        · rw [consumed_site]
          exact none_
        · rw [RxRing.hasRoom_eq_false, consumed_site]
          exact .inr ⟨_, n, place, full⟩
      rw [granted_rmu, taken low, kept, consumed_site]
      rfl
    · obtain ⟨x, hx⟩ : ∃ x, x = (consumed site v s.quiet).updSite site
          (fun x => { x with ring := { x.ring with pending := [] } }) := ⟨_, rfl⟩
      have self : x.rmu[site] = { s.rmu[site] with ring := { s.rmu[site].ring with consumer := v, pending := [] } } := by
        rw [hx, updSite_self, consumed_site]
        rfl
      have here : x.rmu[site].ring.place = some (win.base * 64, n) := by rw [self]; exact place
      have writes : u = writeRecord site rec x := by
        have waits : (consumed site v s.quiet).rmu[site].ring.pending = [rec] := by rw [consumed_site]; exact only
        have has : (consumed site v s.quiet).rmu[site].ring.hasRoom = true := by
          rw [← Bool.not_eq_false, RxRing.hasRoom_eq_false, consumed_site]
          rintro (absent | ⟨b, m, at_, full⟩)
          · exact nomatch place.symm.trans absent
          · obtain ⟨-, rfl⟩ := Prod.mk.inj (Option.some.inj (place.symm.trans at_))
            exact absurd room (by rw [show freeSlots n v s.rmu[site].ring.producer = 0 from full]; decide)
        rw [taken low, only, List.length_singleton, drain, waits]
        dsimp only
        rw [if_pos has, drain, hx]
      refine ⟨?_, granted_hasCause (by rw [writes]; exact raise_hasCause _ _), ?_⟩
      · rw [granted_rmu, writes, writeRecord_ring _ here, self]
        rfl
      · rw [owesRun_iff]
        refine List.IsInfix.trans ?_ granted_owed.isInfix
        rw [writes, writeRecord_owed _ here, self]
        exact (List.suffix_append _ _).isInfix
    · rw [granted_rmu]
      exact records.urgent
    · rw [granted_rmu]
      exact records.bulk
    · rw [granted_rmu]
      exact records.others r apart
    · rw [granted_rmu, granted_outside]
      exact congrArg (fun y : State => { y with mi := { y.mi with
        head := none, outstanding := (granted (win.base * 64) [w] u).mi.outstanding, lastForwarded := true } })
        records.outside

end

section
/-! SUPPORT. What an urgent message makes of its site, clause by clause; the statement about new epochs and places. -/

namespace Sys2Proof.Machine

-- One proof at a time: each would otherwise hold a thread of its own.
set_option Elab.async false

/-! ## Windows -/

/-- A window advanced by `u` to a number, the numbers passed over holes. -/
def RxWindow.advanced (seq : BitVec 32) (u now : Nat) (w : RxWindow) : RxWindow :=
  { w with
    top := some seq
    map := (none :: List.replicate (min (u - 1) 255) (some (Position.hole now)) ++ w.map).take 256 }

/-- The window with what an advance makes of its map, the top position included. -/
def RxWindow.reached (seq : BitVec 32) (p : Position) (holes : List (Option Position)) (w : RxWindow) : RxWindow :=
  { w with top := some seq, map := (some p :: holes ++ w.map).take 256 }

theorem advanced_put {seq : BitVec 32} {u now : Nat} (p : Position) (w : RxWindow) (few : u ≤ 256) :
    (w.advanced seq u now).put 0 p =
      (w.reached seq p (List.replicate (u - 1) (some (.hole now)))).retime := by
  have count : min (u - 1) 255 = u - 1 := by omega
  unfold RxWindow.put RxWindow.advanced RxWindow.reached
  rw [count, List.cons_append, List.cons_append, List.take_succ_cons, List.take_succ_cons, List.set_cons_zero]

/-- With no slot for the message, its number is one hole more. -/
theorem reached_hole {seq : BitVec 32} {u now : Nat} {w : RxWindow} (above : 1 ≤ u) :
    w.reached seq (.hole now) (List.replicate (u - 1) (some (.hole now))) =
      { w with top := some seq, map := (List.replicate u (some (Position.hole now)) ++ w.map).take 256 } := by
  obtain ⟨n, rfl⟩ : ∃ n, u = n + 1 := ⟨u - 1, (Nat.sub_add_cancel above).symm⟩
  rfl

theorem mem_set_of_other {α : Type} {l : List α} {x y z : α} {v : Nat} (isIn : x ∈ l) (isAt : l[v]? = some y)
    (differ : x ≠ y) : x ∈ l.set v z := by
  obtain ⟨j, isX⟩ := List.getElem?_of_mem isIn
  have apart : v ≠ j := fun e => differ (Option.some.inj (isX.symm.trans (e ▸ isAt)))
  exact List.mem_of_getElem? (i := j) (by rw [List.getElem?_set_ne apart, isX])

/-- A full window advanced by one drops its oldest position. -/
theorem advanced_put_full {seq : BitVec 32} {now : Nat} {w : RxWindow} (p : Position) (full : w.map.length = 256) :
    (w.advanced seq 1 now).put 0 p =
      ({ w with top := some seq, map := some p :: w.map.dropLast } : RxWindow).retime := by
  rw [advanced_put p w (by decide), RxWindow.reached, List.dropLast_eq_take, full]
  rfl

/-- A window that has been retimed follows its own oldest hole. -/
theorem eq_of_retime {y z : RxWindow} (h : y = z.retime) : y = { z with holeDue := y.oldest.map (· + z.timeout) } := by
  subst h
  rfl

theorem joinPending_restart {cls : MsgClass} {epoch prev first : BitVec 32} {overflow : Bool} {l : List RingRecord}
    (few : l.length < 8) :
    joinPending (.restart cls epoch prev first overflow) l = l ++ [.restart cls epoch prev first overflow] := by
  unfold joinPending
  cases last : l.getLast? with
  | none =>
    rw [List.getLast?_eq_none_iff.mp last]
    rfl
  | some newest =>
    have apart : newest.merge (.restart cls epoch prev first overflow) = none := by cases newest <;> rfl
    dsimp only
    rw [apart]
    exact if_pos few

theorem isHole_iff {p : Option Position} : isHole p = false ↔ ∀ h : Nat, p ≠ some (.hole h) := by
  rcases p with _ | ⟨_ | _ | _⟩ <;> simp [isHole, holeSince]

theorem Merges.now {site : Site} {cls : MsgClass} {s t : State} (h : Merges site cls s t) : t.now = s.now := by
  have clock : t.clock = s.clock := congrArg (·.clock) h.traffic
  unfold State.now
  rw [clock]

theorem overflowRuns_none {top : BitVec 32} {map : List (Option Position)} {u : Nat} (few : u ≤ 256)
    (none_ : ∀ since : Nat, some (.hole since) ∉ map.drop (256 - u)) : overflowRuns top map u = [] := by
  unfold overflowRuns
  dsimp only
  rw [if_neg (Nat.not_lt.mpr few)]
  refine runsOf_none fun p isIn => ?_
  rw [isHole_iff]
  rintro h rfl
  exact none_ h isIn

/-- The oldest position of a full window, a hole, leaves it. -/
theorem overflowRuns_one {top : BitVec 32} {map : List (Option Position)} {since : Nat} (full : map.length = 256)
    (oldest : map[255]? = some (some (.hole since))) : overflowRuns top map 1 = [(top - 255, 1)] := by
  unfold overflowRuns
  dsimp only
  rw [if_neg (by decide), runsOf_single (i := 0) (x := some (.hole since)) (by rw [List.getElem?_drop]; exact oldest) rfl
    fun j differ p isP => ?_]
  · rfl
  · rw [List.getElem?_drop, List.getElem?_eq_none (by omega)] at isP
    exact nomatch isP

/-! ## An urgent message at its site -/

section
variable {m : Arrived} {v : Nat} {u : State} {w b : RxWindow} {ring : RxRing} (urgent : m.cls = .urgent)
  (site : u.rmu[m.site] = ⟨w, b, ring⟩)
include urgent site

theorem accept_writes {base n : Nat} (here : ring.place = some (base, n)) (none_ : ring.pending = [])
    (room : 1 ≤ freeSlots n ring.consumer ring.producer) :
    (acceptMsg m v u).rmu[m.site] = ⟨w.put v (.accepted m.arrival m.path), b, ring.after n⟩ ∧
    (acceptMsg m v u).owed = u.owed ++ ring.slotWrites base n m.line m.second := by
  have writes := acceptMsg_writes (m := m) (v := v) (s := u) (base := base) (n := n) (by rw [site]; exact here)
    (by rw [site]; exact none_) (by rw [site]; exact room)
  rw [site, urgent] at writes
  exact writes

theorem accept_holes (cannot : ring.canWrite = false) (few : (w.map.set v (some (.hole u.now))).length ≠ 256 ∨
      ∃ p ∈ w.map.set v (some (.hole u.now)), isHole p = false) :
    (acceptMsg m v u).rmu[m.site] = ⟨w.put v (.hole u.now), b, ring⟩ ∧ (acceptMsg m v u).hasCause .ringOverrun := by
  refine ⟨?_, acceptMsg_overrun (by rw [site]; exact cannot)⟩
  rw [acceptMsg_holes (by rw [site]; exact cannot) (by rw [site, urgent]; exact few), site, urgent]
  rfl

/-- Every position a hole: the oldest is lost, and its record waits. -/
theorem accept_relieves {top : BitVec 32} (cannot : ring.canWrite = false) (none_ : ring.pending = [])
    (length : (w.map.set v (some (.hole u.now))).length = 256)
    (all : ∀ p ∈ w.map.set v (some (.hole u.now)), isHole p = true) (isTop : w.top = some top) :
    (acceptMsg m v u).rmu[m.site] = ⟨
      ({ w with map := (w.map.set v (some (.hole u.now))).set 255 (some .lost) }).retime, b,
      { ring with pending := [.gap .urgent w.epoch (top - 255) 1 .overflow false] }⟩ := by
  have self : (holed m v u).rmu[m.site] = ⟨w.put v (.hole u.now), b, ring⟩ := by
    rw [holed_site, site, urgent]
    rfl
  rw [acceptMsg_fails (by rw [site]; exact cannot), relieveWindow_full (top := top) (by rw [self, urgent]; exact length)
    (by rw [self, urgent]; exact all) (by rw [self, urgent]; exact isTop), urgent]
  obtain ⟨x, hx⟩ : ∃ x, x = (holed m v u).updWindow m.site .urgent
    (fun w => ({ w with map := w.map.set 255 (some .lost) }).retime) := ⟨_, rfl⟩
  have lost : x.rmu[m.site] = ⟨({ w with map := (w.map.set v (some (.hole u.now))).set 255 (some .lost) }).retime, b,
      ring⟩ := by
    rw [hx, updWindow_self, self]
    rfl
  rw [← hx, reportRuns_one, (putRecord_waits (by rw [lost]; exact cannot)).1, lost, none_]
  rfl

/-! ### A new session (R146) -/

/-- The site once a new session is open, before its record. -/
theorem opened_site : (u.updWindow m.site m.cls (RxWindow.opened m.epoch m.seq)).rmu[m.site] =
    ⟨w.opened m.epoch m.seq, b, ring⟩ := by
  rw [updWindow_self, site, urgent]
  rfl

/-- The record of a new session, and then the message. -/
theorem session_eq (new : m.epoch ≠ 0 ∧ m.epoch ≠ w.epoch ∧ m.epoch ≠ w.prevEpoch) : messageArrived m u =
    acceptMsg m 0 (putRecord m.site (.restart .urgent m.epoch w.epoch m.seq false)
      (u.updWindow m.site m.cls (RxWindow.opened m.epoch m.seq))) := by
  obtain ⟨nonzero, other, previous⟩ := new
  have window : u.rmu[m.site].window m.cls = w := by rw [site, urgent]; rfl
  rw [messageArrived_new nonzero (by rw [window]; exact other) (by rw [window]; exact previous), newSession_eq, window,
    urgent]

/-- With a slot for the record: it is written, and one slot fewer is free. -/
theorem session_record {base n : Nat} (here : ring.place = some (base, n)) (none_ : ring.pending = [])
    (room : 1 ≤ freeSlots n ring.consumer ring.producer) : ∃ x,
    putRecord m.site (.restart .urgent m.epoch w.epoch m.seq false)
      (u.updWindow m.site m.cls (RxWindow.opened m.epoch m.seq)) = x ∧
    x.rmu[m.site] = ⟨w.opened m.epoch m.seq, b, ring.after n⟩ ∧ x.hasCause .gap ∧
    x.owed = u.owed ++ ring.slotWrites base n ((RingRecord.restart .urgent m.epoch w.epoch m.seq false).line m.site)
      (List.replicate 64 0) ∧ x.now = u.now := by
  obtain ⟨y, hy⟩ : ∃ y, y = u.updWindow m.site m.cls (RxWindow.opened m.epoch m.seq) := ⟨_, rfl⟩
  have self : y.rmu[m.site] = ⟨w.opened m.epoch m.seq, b, ring⟩ := hy ▸ opened_site urgent site
  rw [← hy, putRecord_writes (canWrite_true (base := base) (n := n) (by rw [self]; exact here) (by rw [self]; exact none_)
    (by rw [self]; exact room))]
  refine ⟨_, rfl, ?_, raise_hasCause _ _, ?_, ?_⟩
  · rw [writeRecord_ring (base := base) (n := n) _ (by rw [self]; exact here), self]
  · rw [writeRecord_owed (base := base) (n := n) _ (by rw [self]; exact here), self, hy]
    rfl
  · rw [(writeRecord_merges m.site m.cls _ y).now, hy]
    rfl

theorem session_two {base n : Nat} (new : m.epoch ≠ 0 ∧ m.epoch ≠ w.epoch ∧ m.epoch ≠ w.prevEpoch)
    (here : ring.place = some (base, n)) (none_ : ring.pending = [])
    (room : 2 ≤ freeSlots n ring.consumer ring.producer) :
    (messageArrived m u).rmu[m.site] =
      ⟨(w.opened m.epoch m.seq).put 0 (.accepted m.arrival m.path), b, (ring.after n).after n⟩ ∧
    (messageArrived m u).owed = u.owed ++
      (ring.slotWrites base n ((RingRecord.restart .urgent m.epoch w.epoch m.seq false).line m.site)
        (List.replicate 64 0) ++ (ring.after n).slotWrites base n m.line m.second) ∧
    (messageArrived m u).hasCause .gap := by
  obtain ⟨x, is, self, gap, owed, -⟩ := session_record urgent site here none_ (Nat.le_of_succ_le room)
  obtain ⟨k, free⟩ : ∃ k, freeSlots n ring.consumer ring.producer = k + 1 + 1 := ⟨_, (Nat.sub_add_cancel room).symm⟩
  obtain ⟨rmu, more⟩ := accept_writes (v := 0) urgent self (base := base) (n := n) here none_
    (by rw [freeSlots_after free]; omega)
  rw [session_eq urgent site new, is]
  exact ⟨rmu, by rw [more, owed, List.append_assoc], (acceptMsg_merges m 0 x).causes _ gap⟩

theorem session_one {base n : Nat} (new : m.epoch ≠ 0 ∧ m.epoch ≠ w.epoch ∧ m.epoch ≠ w.prevEpoch)
    (here : ring.place = some (base, n)) (none_ : ring.pending = [])
    (room : freeSlots n ring.consumer ring.producer = 1) :
    (messageArrived m u).rmu[m.site] = ⟨(w.opened m.epoch m.seq).put 0 (.hole u.now), b, ring.after n⟩ ∧
    (u.owed ++ ring.slotWrites base n ((RingRecord.restart .urgent m.epoch w.epoch m.seq false).line m.site)
      (List.replicate 64 0) <+: (messageArrived m u).owed) ∧
    (messageArrived m u).hasCause .gap ∧ (messageArrived m u).hasCause .ringOverrun := by
  obtain ⟨x, is, self, gap, owed, now⟩ := session_record urgent site here none_ (Nat.le_of_eq room.symm)
  obtain ⟨rmu, overrun⟩ := accept_holes (v := 0) urgent self
    (canWrite_false (.inr (.inl ⟨base, n, here, freeSlots_after room⟩))) (.inl (show 1 ≠ 256 by decide))
  have merges := acceptMsg_merges m 0 x
  rw [session_eq urgent site new, is]
  exact ⟨by rw [rmu, now], owed ▸ merges.owed, merges.causes _ gap, overrun⟩

theorem session_none (new : m.epoch ≠ 0 ∧ m.epoch ≠ w.epoch ∧ m.epoch ≠ w.prevEpoch) (cannot : ring.canWrite = false)
    (few : ring.pending.length < 8) :
    (messageArrived m u).rmu[m.site] = ⟨(w.opened m.epoch m.seq).put 0 (.hole u.now), b,
      { ring with pending := ring.pending ++ [.restart .urgent m.epoch w.epoch m.seq false] }⟩ ∧
    (messageArrived m u).hasCause .ringOverrun := by
  obtain ⟨y, hy⟩ : ∃ y, y = u.updWindow m.site m.cls (RxWindow.opened m.epoch m.seq) := ⟨_, rfl⟩
  have opened : y.rmu[m.site] = ⟨w.opened m.epoch m.seq, b, ring⟩ := hy ▸ opened_site urgent site
  obtain ⟨x, hx⟩ : ∃ x, x = putRecord m.site (.restart .urgent m.epoch w.epoch m.seq false) y := ⟨_, rfl⟩
  have self : x.rmu[m.site] = ⟨w.opened m.epoch m.seq, b,
      { ring with pending := ring.pending ++ [.restart .urgent m.epoch w.epoch m.seq false] }⟩ := by
    rw [hx, (putRecord_waits (by rw [opened]; exact cannot)).1, opened, ← joinPending_restart few]
  have now : x.now = u.now := by
    rw [hx, (putRecord_merges m.site m.cls _ y).now, hy]
    rfl
  rw [session_eq urgent site new, ← hy, ← hx]
  have holes := accept_holes (v := 0) urgent self (canWrite_false (.inr (.inr (by simp)))) (.inl (show 1 ≠ 256 by decide))
  rw [now] at holes
  exact holes

/-! ### Above top (R148) -/

section
variable {top : BitVec 32} (current : m.epoch ≠ 0 ∧ m.epoch = w.epoch ∧ m.epoch ≠ w.prevEpoch) (isTop : w.top = some top)
include current isTop

theorem advance_eq (above : 1 ≤ (m.seq - top).toNat) (few : (m.seq - top).toNat ≤ 256) : messageArrived m u =
    acceptMsg m 0 ((reportRuns m.site m.cls .overflow (overflowRuns top w.map (m.seq - top).toNat) u).updWindow m.site
      m.cls (RxWindow.advanced m.seq (m.seq - top).toNat u.now)) := by
  obtain ⟨nonzero, same, previous⟩ := current
  have window : u.rmu[m.site].window m.cls = w := by rw [site, urgent]; rfl
  rw [messageArrived_above nonzero (by rw [window]; exact same) (by rw [window]; exact previous)
    (by rw [window]; exact isTop) above (by omega)]
  unfold advanceWindow
  dsimp only
  rw [window]
  obtain ⟨x, hx⟩ : ∃ x, x = reportRuns m.site m.cls .overflow (overflowRuns top w.map (m.seq - top).toNat) u := ⟨_, rfl⟩
  have kept : x.rmu[m.site].window m.cls = w := by rw [hx, (reportRuns_records _ _ _ _ _).window, window]
  rw [← hx]
  refine congrArg (acceptMsg m 0) ?_
  unfold State.updWindow State.updSite
  refine congrArg (fun r => { x with rmu := r }) (updAt_congr ?_)
  have parts : ∀ (cls : MsgClass) (f g : RxWindow → RxWindow) (y : RxSite), f (y.window cls) = g (y.window cls) →
      y.setWindow cls f = y.setWindow cls g := by
    intro cls f g y e
    cases cls
    · exact congrArg (fun z => { y with urgent := z }) e
    · exact congrArg (fun z => { y with bulk := z }) e
  refine parts _ _ _ _ ?_
  rw [kept]
  rfl

/-- With nothing lost by the advance. -/
theorem advance_lossless (above : 1 ≤ (m.seq - top).toNat) (few : (m.seq - top).toNat ≤ 256)
    (none_ : ∀ since : Nat, some (.hole since) ∉ w.map.drop (256 - (m.seq - top).toNat)) : ∃ x,
    messageArrived m u = acceptMsg m 0 x ∧ x.owed = u.owed ∧ x.now = u.now ∧
    x.rmu[m.site] = ⟨w.advanced m.seq (m.seq - top).toNat u.now, b, ring⟩ := by
  refine ⟨_, advance_eq urgent site current isTop above few, ?_, ?_, ?_⟩
  all_goals rw [overflowRuns_none few none_]
  · rfl
  · rfl
  · rw [updWindow_self, urgent]
    exact congrArg (RxSite.setWindow .urgent _) site

theorem above_writes {base n : Nat} (above : 1 ≤ (m.seq - top).toNat) (few : (m.seq - top).toNat ≤ 256)
    (none_ : ∀ since : Nat, some (.hole since) ∉ w.map.drop (256 - (m.seq - top).toNat))
    (here : ring.place = some (base, n)) (empty : ring.pending = [])
    (room : 1 ≤ freeSlots n ring.consumer ring.producer) :
    (messageArrived m u).rmu[m.site] = ⟨(w.reached m.seq (.accepted m.arrival m.path)
      (List.replicate ((m.seq - top).toNat - 1) (some (.hole u.now)))).retime, b, ring.after n⟩ ∧
    (messageArrived m u).owed = u.owed ++ ring.slotWrites base n m.line m.second := by
  obtain ⟨x, is, owed, -, self⟩ := advance_lossless urgent site current isTop above few none_
  obtain ⟨rmu, more⟩ := accept_writes (v := 0) urgent self here empty room
  rw [is]
  exact ⟨by rw [rmu, advanced_put _ w few], by rw [more, owed]⟩

theorem above_holes (above : 1 ≤ (m.seq - top).toNat) (few : (m.seq - top).toNat ≤ 256)
    (none_ : ∀ since : Nat, some (.hole since) ∉ w.map.drop (256 - (m.seq - top).toNat)) (cannot : ring.canWrite = false)
    (other : (m.seq - top).toNat + w.map.length < 256 ∨
      ∃ p ∈ w.map.take (256 - (m.seq - top).toNat), ∀ h : Nat, p ≠ some (.hole h)) :
    (messageArrived m u).rmu[m.site] = ⟨(w.reached m.seq (.hole u.now)
      (List.replicate ((m.seq - top).toNat - 1) (some (.hole u.now)))).retime, b, ring⟩ ∧
    (messageArrived m u).hasCause .ringOverrun := by
  obtain ⟨x, is, -, now, self⟩ := advance_lossless urgent site current isTop above few none_
  have map : (w.advanced m.seq (m.seq - top).toNat u.now).map.set 0 (some (.hole x.now)) =
      (some (.hole u.now) :: List.replicate ((m.seq - top).toNat - 1) (some (Position.hole u.now)) ++ w.map).take 256 := by
    rw [now]
    exact congrArg RxWindow.map (advanced_put (seq := m.seq) (.hole u.now) w few)
  obtain ⟨rmu, overrun⟩ := accept_holes (v := 0) urgent self cannot (by
    rw [map]
    rcases other with short | ⟨p, isIn, notHole⟩
    · left
      simp only [List.length_take, List.length_append, List.length_cons, List.length_replicate]
      omega
    · refine .inr ⟨p, ?_, isHole_iff.mpr notHole⟩
      have length : (some (Position.hole u.now) ::
          List.replicate ((m.seq - top).toNat - 1) (some (Position.hole u.now))).length = (m.seq - top).toNat := by
        rw [List.length_cons, List.length_replicate]
        omega
      rw [List.take_append, length]
      exact List.mem_append_right _ isIn)
  rw [is]
  exact ⟨by rw [rmu, now, advanced_put _ w few], overrun⟩

/-! One above top, where the oldest position of a full window is a hole. -/

section
variable {since : Nat} (one : (m.seq - top).toNat = 1) (full : w.map.length = 256)
  (oldest : w.map[255]? = some (some (.hole since)))
include one full oldest

theorem over_eq : messageArrived m u = acceptMsg m 0
    ((putRecord m.site (.gap .urgent w.epoch (top - 255) 1 .overflow false) u).updWindow m.site m.cls
      (RxWindow.advanced m.seq 1 u.now)) := by
  rw [advance_eq urgent site current isTop (by omega) (by omega), one, overflowRuns_one full oldest, reportRuns_one,
    urgent, site]
  rfl

theorem over_writes {base n : Nat} (here : ring.place = some (base, n)) (empty : ring.pending = [])
    (room : 2 ≤ freeSlots n ring.consumer ring.producer) :
    (messageArrived m u).rmu[m.site] = ⟨({ w with
      top := some m.seq, map := some (.accepted m.arrival m.path) :: w.map.dropLast }).retime, b,
      (ring.after n).after n⟩ ∧
    (messageArrived m u).owed = u.owed ++
      (ring.slotWrites base n ((RingRecord.gap .urgent w.epoch (top - 255) 1 .overflow false).line m.site)
        (List.replicate 64 0) ++ (ring.after n).slotWrites base n m.line m.second) ∧
    (messageArrived m u).hasCause .gap := by
  obtain ⟨k, free⟩ : ∃ k, freeSlots n ring.consumer ring.producer = k + 1 + 1 := ⟨_, (Nat.sub_add_cancel room).symm⟩
  obtain ⟨x, hx⟩ : ∃ x, x = (putRecord m.site (.gap .urgent w.epoch (top - 255) 1 .overflow false) u).updWindow m.site
    m.cls (RxWindow.advanced m.seq 1 u.now) := ⟨_, rfl⟩
  have writes := putRecord_writes (site := m.site) (rec := .gap .urgent w.epoch (top - 255) 1 .overflow false) (s := u)
    (canWrite_true (base := base) (n := n) (by rw [site]; exact here) (by rw [site]; exact empty)
      (by rw [site]; exact Nat.le_of_succ_le room))
  have self : x.rmu[m.site] = ⟨w.advanced m.seq 1 u.now, b, ring.after n⟩ := by
    rw [hx, writes, updWindow_self, writeRecord_ring (base := base) (n := n) _ (by rw [site]; exact here), site, urgent]
    rfl
  have owed : x.owed = u.owed ++ ring.slotWrites base n
      ((RingRecord.gap .urgent w.epoch (top - 255) 1 .overflow false).line m.site) (List.replicate 64 0) := by
    rw [hx, writes]
    refine (writeRecord_owed (base := base) (n := n) _ (by rw [site]; exact here)).trans ?_
    rw [site]
  have gap : x.hasCause .gap := by
    rw [hx, writes]
    exact raise_hasCause _ (writeSlot _ _ _ u)
  obtain ⟨rmu, more⟩ := accept_writes (v := 0) urgent self (base := base) (n := n) here empty
    (by rw [freeSlots_after free]; omega)
  rw [over_eq urgent site current isTop one full oldest, ← hx]
  refine ⟨?_, by rw [more, owed, List.append_assoc], (acceptMsg_merges m 0 x).causes _ gap⟩
  rw [rmu, advanced_put_full _ full]

theorem over_waits (empty : ring.pending = []) (cannot : ring.canWrite = false)
    (other : ∃ p ∈ w.map.dropLast, ∀ h : Nat, p ≠ some (.hole h)) :
    (messageArrived m u).rmu[m.site] = ⟨({ w with
      top := some m.seq, map := some (.hole u.now) :: w.map.dropLast }).retime, b,
      { ring with pending := [.gap .urgent w.epoch (top - 255) 1 .overflow false] }⟩ ∧
    (messageArrived m u).hasCause .ringOverrun := by
  obtain ⟨x, hx⟩ : ∃ x, x = (putRecord m.site (.gap .urgent w.epoch (top - 255) 1 .overflow false) u).updWindow m.site
    m.cls (RxWindow.advanced m.seq 1 u.now) := ⟨_, rfl⟩
  have waits := putRecord_waits (site := m.site) (rec := .gap .urgent w.epoch (top - 255) 1 .overflow false) (s := u)
    (by rw [site]; exact cannot)
  have self : x.rmu[m.site] = ⟨w.advanced m.seq 1 u.now, b,
      { ring with pending := [.gap .urgent w.epoch (top - 255) 1 .overflow false] }⟩ := by
    rw [hx, updWindow_self, waits.1, site, urgent, empty]
    rfl
  have now : x.now = u.now := by
    rw [hx]
    exact (putRecord_merges m.site m.cls _ u).now
  obtain ⟨p, isIn, notHole⟩ := other
  obtain ⟨rmu, overrun⟩ := accept_holes (v := 0) urgent self (canWrite_false (.inr (.inr (by simp)))) (.inr ⟨p, by
    rw [now, show ((w.advanced m.seq 1 u.now).map.set 0 (some (.hole u.now))) = some (.hole u.now) :: w.map.dropLast from
      congrArg RxWindow.map (advanced_put_full (seq := m.seq) (.hole u.now) full)]
    exact List.mem_cons_of_mem _ isIn, isHole_iff.mpr notHole⟩)
  rw [over_eq urgent site current isTop one full oldest, ← hx]
  exact ⟨by rw [rmu, now, advanced_put_full _ full], overrun⟩

end

end

end

/-! ## The frame (R129 to R132) -/

/-- A good urgent message with a path of its port and site is judged. -/
theorem exec_msgArrival {s : State} {k : PortNo} {p : PathNo} {stamp capture : Stamp} {here : Bool} {copy : Byte}
    {epoch seq : BitVec 32} {payload : List Byte} (ready : s.isReady = true) (link : s.link[k] = true)
    (reception : s.rx[k].reception = some (stamp, here)) (port : s.paths[p].port = k) (on : s.paths[p].state ≠ .off)
    (other : s.paths[p].site ≠ s.ownSite) (some_ : 1 ≤ payload.length) (few : payload.length ≤ 96) : ∃ q u,
    (s.OnlyPath k p → q = p) ∧
    exec (.frameArrival k (Frame.encode
        ⟨siteByte s.paths[p].site, siteByte s.ownSite, .msg copy epoch seq capture payload⟩)) s = .next (flush
      (messageArrived ⟨s.paths[p].site, .urgent, epoch, seq, copy, some capture, payload, stamp, q⟩ u)) ∧
    u.rmu = s.rmu ∧ u.now = s.now ∧ u.outsideTraffic = { s with rx := u.rx }.outsideTraffic ∧
    ∀ x : PathNo, u.paths[x].lag = s.paths[x].lag ∧ u.paths[x].counters = s.paths[x].counters := by
  have runs := exec_frameArrival (f := ⟨siteByte s.paths[p].site, siteByte s.ownSite, .msg copy epoch seq capture payload⟩)
    ready link reception (wellFormed_between ⟨some_, few⟩ other)
  unfold dispatchFrame at runs
  dsimp only at runs
  rw [ofNat_siteByte] at runs
  obtain ⟨q, found, -⟩ := pathOfFrame_some on port
  have path : pathOfFrame (heardNotice k s.paths[p].site.val (s.quiet.received k)) k s.paths[p].site.val = some q := by
    rw [pathOfFrame_heard]
    exact found
  unfold msgArrived at runs
  rw [path] at runs
  refine ⟨q, _, fun only => ?_, runs, rfl, rfl, rfl, fun x => ?_⟩
  · exact Option.some.inj (found.symm.trans (pathOfFrame_only only))
  · rw [heardNotice_keeps]
    exact ⟨rfl, rfl⟩

end Sys2Proof.Machine

open Sys2Proof Sys2Proof.Machine

/-- Settles O29: the message is judged by its epoch and its place, and each clause is a lemma of its own. -/
theorem newEpochOpensSession : Obligations.NewEpochOpensSession := by
  intro s k p stamp capture here copy epoch seq payload r w b ring ready link reception port on isSite other some_ few site
  subst isSite
  obtain ⟨q, u, isP, runs, rmu, now, frame, paths⟩ := exec_msgArrival (copy := copy) (epoch := epoch) (seq := seq)
    (capture := capture) ready link reception port on other some_ few
  have merges := (messageArrived_merges ⟨s.paths[p].site, .urgent, epoch, seq, copy, some capture, payload, stamp, q⟩ u).trans
    (flush_merges s.paths[p].site .urgent _)
  have at_ : u.rmu[s.paths[p].site] = ⟨w, b, ring⟩ := by rw [rmu]; exact site
  obtain ⟨t, ht⟩ : ∃ t, t = messageArrived
    ⟨s.paths[p].site, .urgent, epoch, seq, copy, some capture, payload, stamp, q⟩ u := ⟨_, rfl⟩
  have window : u.rmu[s.paths[p].site].window .urgent = w := by rw [at_]; rfl
  rw [← ht] at runs merges
  have owes : ∀ {before run}, t.owed = before ++ run → (flush t).owesRun run := fun e =>
    flush_keeps_owesRun (owesRun_iff.mpr (e ▸ (List.suffix_append _ _).isInfix))
  refine ⟨_, runs, ?_, fun x apart => ?_, ?_, fun nonzero different previous => ?_, fun stale => ?_,
    fun top only nonzero current previous isTop => ?_⟩
  · have kept := merges.window .bulk nofun
    rw [at_] at kept
    exact kept
  · rw [merges.others x apart, rmu]
  · have rx : (flush t).rx = u.rx := congrArg (·.rx) merges.traffic
    rw [rx, merges.traffic, frame]
  · have heading := newSession_heading (s := u)
      (m := ⟨s.paths[p].site, .urgent, epoch, seq, copy, some capture, payload, stamp, q⟩)
    have new : t = newSession ⟨s.paths[p].site, .urgent, epoch, seq, copy, some capture, payload, stamp, q⟩ u := by
      rw [ht]
      exact messageArrived_new nonzero (by rw [window]; exact different) (by rw [window]; exact previous)
    rw [← new] at heading
    dsimp only at heading
    rw [window] at heading
    simp only [RxWindow.heading, Prod.mk.injEq] at heading
    obtain ⟨isEpoch, isPrev, isTop, -, length⟩ := heading
    rw [flush_rmu]
    refine ⟨isEpoch, isPrev, isTop, length, fun base n only here none_ low room => ?_, fun only room none_ => ?_,
      fun cannot short => ?_⟩
    · obtain rfl := isP only
      have judged := session_two (m := ⟨s.paths[q].site, .urgent, epoch, seq, copy, some capture, payload, stamp, q⟩) rfl
        at_ ⟨nonzero, different, previous⟩ here none_ room
      rw [← ht] at judged
      obtain ⟨site, owed, gap⟩ := judged
      dsimp only at site owed
      exact ⟨by rw [site]; rfl, by rw [site], owes owed, flush_hasCause gap⟩
    · obtain ⟨base, n, here, one⟩ := room
      have judged := session_one (m := ⟨s.paths[p].site, .urgent, epoch, seq, copy, some capture, payload, stamp, q⟩) rfl
        at_ ⟨nonzero, different, previous⟩ here none_ one
      rw [← ht] at judged
      obtain ⟨site, owed, gap, overrun⟩ := judged
      dsimp only at site owed
      refine ⟨base, n, here, by rw [site, ← now]; rfl, by rw [site, ← now]; rfl, by rw [site], ?_, flush_hasCause gap,
        flush_hasCause overrun⟩
      refine flush_keeps_owesRun (owesRun_iff.mpr (List.IsInfix.trans ?_ owed.isInfix))
      exact (List.suffix_append _ _).isInfix
    · have judged := session_none (m := ⟨s.paths[p].site, .urgent, epoch, seq, copy, some capture, payload, stamp, q⟩) rfl
        at_ ⟨nonzero, different, previous⟩ (canWrite_false cannot) short
      rw [← ht] at judged
      obtain ⟨site, overrun⟩ := judged
      dsimp only at site
      exact ⟨by rw [site, ← now]; rfl, by rw [site, ← now]; rfl, by rw [site], flush_hasCause overrun⟩
  · rw [flush_rmu, ht, messageArrived_stale, rmu]
    refine stale.imp id fun same => ?_
    rw [same]
    exact congrArg RxWindow.prevEpoch window.symm
  · obtain rfl := isP only
    have state : epoch = (u.rmu[s.paths[q].site].window .urgent).epoch ∧
        epoch ≠ (u.rmu[s.paths[q].site].window .urgent).prevEpoch ∧
        (u.rmu[s.paths[q].site].window .urgent).top = some top := by
      rw [window]
      exact ⟨current, previous, isTop⟩
    obtain ⟨same, notPrevious, hasTop⟩ := state
    refine ⟨fun base n above near here none_ room lossless => ?_, fun above near cannot lossless notAll => ?_,
      fun since one full oldest none_ => ⟨fun base n here low room => ?_, fun cannot notAll => ?_⟩,
      fun since within position => ⟨fun base n here none_ room => ?_, fun cannot => ?_⟩,
      fun first accepted within position => ?_, fun gone => ?_⟩
    · have judged := above_writes (m := ⟨s.paths[q].site, .urgent, epoch, seq, copy, some capture, payload, stamp, q⟩) rfl
        at_ ⟨nonzero, current, previous⟩ isTop above near lossless here none_ room
      rw [← ht] at judged
      obtain ⟨site, owed⟩ := judged
      dsimp only at site owed
      rw [now] at site
      rw [flush_rmu]
      refine ⟨eq_of_retime (congrArg RxSite.urgent site), by rw [site], owes owed⟩
    · have judged := above_holes (m := ⟨s.paths[q].site, .urgent, epoch, seq, copy, some capture, payload, stamp, q⟩) rfl
        at_ ⟨nonzero, current, previous⟩ isTop above near lossless (canWrite_false cannot) notAll
      rw [← ht] at judged
      obtain ⟨site, overrun⟩ := judged
      dsimp only at site
      rw [flush_rmu]
      rw [reached_hole above, now] at site
      exact ⟨eq_of_retime (congrArg RxSite.urgent site), by rw [site], flush_hasCause overrun⟩
    · have judged := over_writes (m := ⟨s.paths[q].site, .urgent, epoch, seq, copy, some capture, payload, stamp, q⟩) rfl
        at_ ⟨nonzero, current, previous⟩ isTop one full oldest here none_ room
      rw [← ht] at judged
      obtain ⟨site, owed, gap⟩ := judged
      dsimp only at site owed
      rw [flush_rmu]
      exact ⟨eq_of_retime (congrArg RxSite.urgent site), by rw [site], owes owed, flush_hasCause gap⟩
    · have judged := over_waits (m := ⟨s.paths[q].site, .urgent, epoch, seq, copy, some capture, payload, stamp, q⟩) rfl
        at_ ⟨nonzero, current, previous⟩ isTop one full oldest none_ (canWrite_false (cannot.imp id .inl)) notAll
      rw [← ht] at judged
      obtain ⟨site, overrun⟩ := judged
      dsimp only at site
      rw [now] at site
      rw [flush_rmu]
      exact ⟨eq_of_retime (congrArg RxSite.urgent site), by rw [site], flush_hasCause overrun⟩
    · have isHole := messageArrived_hole (s := u)
        (m := ⟨s.paths[q].site, .urgent, epoch, seq, copy, some capture, payload, stamp, q⟩) nonzero same notPrevious
        hasTop within (by rw [window]; exact position)
      have judged := accept_writes (v := (top - seq).toNat)
        (m := ⟨s.paths[q].site, .urgent, epoch, seq, copy, some capture, payload, stamp, q⟩) rfl at_ here none_ room
      dsimp only at isHole
      rw [← isHole, ← ht] at judged
      obtain ⟨site, owed⟩ := judged
      dsimp only at site owed
      rw [flush_rmu]
      exact ⟨eq_of_retime (congrArg RxSite.urgent site), by rw [site], owes owed⟩
    · have isHole := messageArrived_hole (s := u)
        (m := ⟨s.paths[q].site, .urgent, epoch, seq, copy, some capture, payload, stamp, q⟩) nonzero same notPrevious
        hasTop within (by rw [window]; exact position)
      dsimp only at isHole
      have overrun := acceptMsg_overrun (v := (top - seq).toNat) (s := u)
        (m := ⟨s.paths[q].site, .urgent, epoch, seq, copy, some capture, payload, stamp, q⟩)
        (by rw [at_]; exact canWrite_false cannot)
      rw [← isHole, ← ht] at overrun
      rw [flush_rmu]
      refine ⟨fun notAll => ?_, fun full all none_ => ?_, flush_hasCause overrun⟩
      · have judged := accept_holes (v := (top - seq).toNat)
          (m := ⟨s.paths[q].site, .urgent, epoch, seq, copy, some capture, payload, stamp, q⟩) rfl at_
          (canWrite_false cannot) (notAll.imp (fun short => by rw [List.length_set]; omega)
            fun ⟨x, isIn, notHole⟩ => ⟨x, mem_set_of_other isIn position (notHole since), isHole_iff.mpr notHole⟩)
        rw [← isHole, ← ht] at judged
        have site := judged.1
        dsimp only at site
        rw [now] at site
        exact ⟨eq_of_retime (congrArg RxSite.urgent site), by rw [site]⟩
      · have judged := accept_relieves (v := (top - seq).toNat) (top := top)
          (m := ⟨s.paths[q].site, .urgent, epoch, seq, copy, some capture, payload, stamp, q⟩) rfl at_
          (canWrite_false cannot) none_ (by rw [List.length_set]; exact full) (fun x isIn => by
            rcases List.mem_or_eq_of_mem_set isIn with had | rfl
            · obtain ⟨h, rfl⟩ := all x had
              rfl
            · rfl) isTop
        rw [← isHole, ← ht] at judged
        dsimp only at judged
        rw [now] at judged
        exact ⟨eq_of_retime (congrArg RxSite.urgent judged), by rw [judged]⟩
    · have duplicate := messageArrived_duplicate (s := u)
        (m := ⟨s.paths[q].site, .urgent, epoch, seq, copy, some capture, payload, stamp, q⟩) nonzero same notPrevious
        hasTop within (by rw [window]; exact position)
      dsimp only at duplicate
      rw [ht, duplicate, flush_rmu, flush_paths]
      refine ⟨rmu, ?_, ?_⟩
      · exact congrArg PathRec.lag (updPath_self q _ u)
      · refine (congrArg PathRec.counters (updPath_self q _ u)).trans ?_
        dsimp only
        rw [(paths q).2]
    · have stays := messageArrived_gone (s := u)
        (m := ⟨s.paths[q].site, .urgent, epoch, seq, copy, some capture, payload, stamp, q⟩) nonzero same notPrevious
        hasTop (by rw [window]; exact gone)
      rw [ht, stays, flush_rmu, flush_paths]
      exact ⟨rmu, paths q⟩

end

section
/-! SUPPORT. A granted write of a command block or of a slot's header; the statements about issues and postings. -/

namespace Sys2Proof.Machine

-- One proof at a time: each would otherwise hold a thread of its own.
set_option Elab.async false

/-! ## Groups that write no mirror line -/

theorem not_mirror {t : OwnTag} (h : t.isMirror = false) : t ≠ .summary ∧ t ≠ .hopsLow ∧ t ≠ .hopsHigh := by
  refine ⟨?_, ?_, ?_⟩ <;> rintro rfl <;> exact nomatch h

theorem numbered_plain {reqs : List (Nat × Option WLine × OwnTag)} (plain : ∀ r ∈ reqs, r.2.2.isMirror = false) (n : Nat) :
    ∀ r ∈ numbered n reqs, r.tag ≠ .summary ∧ r.tag ≠ .hopsLow ∧ r.tag ≠ .hopsHigh := fun r isIn => by
  have triple := List.mem_map_of_mem (f := fun r : OwnReq => (r.line, r.write, r.tag)) isIn
  rw [numbered_triples] at triple
  exact not_mirror (plain _ triple)

/-- A group waits, or joins where none waits. -/
theorem formGroup_waiting (reqs : List (Nat × Option WLine × OwnTag)) (s : State) :
    ∃ more, (formGroup reqs .nothing s).mi.waiting = s.mi.waiting ++ more := by
  unfold formGroup joinGroup
  dsimp only
  split
  · exact ⟨[], (List.append_nil _).symm⟩
  · exact ⟨_, rfl⟩

section
variable {reqs : List (Nat × Option WLine × OwnTag)} (plain : ∀ r ∈ reqs, r.2.2.isMirror = false) {s : State}
include plain

/-- Such a group leaves CMD as it is. -/
theorem formGroup_cmd_same : (formGroup reqs .nothing s).cmd = s.cmd := by
  unfold formGroup joinGroup
  dsimp only
  split
  · unfold pushGroup
    exact freshen_other (numbered_plain plain _)
  · rfl

theorem formGroup_settled (h : s.Settled) : (formGroup reqs .nothing s).Settled := by
  obtain ⟨changes, lines⟩ := settled_iff.mp h
  obtain ⟨more, waiting⟩ := formGroup_waiting reqs s
  have cmd := formGroup_cmd_same plain (s := s)
  refine settled_iff.mpr ⟨by rw [cmd]; exact changes, fun m stale => ?_⟩
  rw [cmd] at stale ⊢
  obtain ⟨on, waits⟩ := lines m stale
  refine ⟨on, ?_⟩
  rw [waiting, List.any_append, waits]
  rfl

end

theorem updBlock_settled {s : State} (h : s.Settled) (b : BlockNo) (f : Block → Block) : (s.updBlock b f).Settled :=
  ⟨h.changes, h.summary, h.low, h.high⟩

/-! ## The grant of a write that owes nothing else -/

theorem granted_settled {line : Nat} {ls : List WLine} {u : State} (h : u.Settled) : granted line ls u =
    { u with
      out := u.out ++ [.memory (.write line ls)]
      mi := { u.mi with
        head := none, outstanding := u.mi.outstanding ++ [.forwarded 0 false], lastForwarded := true } } := by
  have same : ({ u.emit (.memory (.write line ls)) with mi := { u.mi with
      outstanding := u.mi.outstanding ++ [.forwarded 0 false], lastForwarded := true } } : State).Settled := h.congr rfl rfl
  unfold granted
  rw [flush_settled same]
  rfl

/-! ## A write of a command block (R87, R158, R161) -/

theorem grantWrite_block {win : Window} {s : State} {base : Nat} {b : BlockNo} {w : WLine} (kind : win.kind = .control) :
    grantWrite win (base * 64 + 6 + b.val) [w] s = ((blockWrite b w s).1, [(blockWrite b w s).2]) := by
  have place : (base * 64 + 6 + b.val) % 64 = 6 + b.val := by omega
  have index : indexOf 8 ((base * 64 + 6 + b.val) % 64 - 6) = some b := indexOf_eq_some.mpr (by rw [place]; omega)
  unfold grantWrite controlWrite
  rw [kind, index]
  dsimp only
  rw [if_pos (by omega)]
  rfl

theorem enabledAt_iff {w : WLine} {i : Nat} (within : i < w.length) : enabledAt w i = true ↔ w[i]? ≠ some none := by
  rw [enabledAt, List.getD_eq_getElem?_getD, List.getElem?_eq_getElem within, Option.getD_some]
  cases w[i] <;> simp

section
variable {b : BlockNo} {w : WLine} {s : State}

theorem issueTest_same {x : Block} (same : w.getD 1 none = none ∨ w.getD 1 none = some x.lastTag) :
    issueTest x w = .plain := by
  unfold issueTest
  rcases same with h | h
  · rw [h]
  · rw [h]
    exact if_pos rfl

theorem issueTest_new {x : Block} {tag : Byte} (isTag : w.getD 1 none = some tag) (new : tag ≠ x.lastTag) :
    issueTest x w = if x.busy then .whileBusy else if allEnabled w then .issue else .partialIssue := by
  unfold issueTest
  rw [isTag]
  exact if_neg new

theorem busy_iff {x : Block} : x.busy = true ↔ x.state ≠ .idle := by
  simp [Block.busy]

end

/-- The grant of a write of one command block. -/
theorem exec_memoryGrant_block {s u : State} {win : Window} {b : BlockNo} {w w' : WLine} (ready : s.isReady = true)
    (own : s.mi.own = []) (kind : win.kind = .control)
    (head : s.mi.head = some ⟨[⟨.write (s.mi.windows[14].base * 64 + 6 + b.val) [w], some win⟩], []⟩)
    (writes : blockWrite b w s.quiet = (u, w')) (settled : u.Settled) : exec .memoryGrant s = .next { u with
      out := u.out ++ [.memory (.write (s.mi.windows[14].base * 64 + 6 + b.val) [w'])]
      mi := { u.mi with
        head := none, outstanding := u.mi.outstanding ++ [.forwarded 0 false], lastForwarded := true } } := by
  rw [exec_memoryGrant_write ready own head ((grantWrite_block kind).trans (by rw [writes])), granted_settled settled]

theorem withBusy_eq {w : WLine} (length : w.length = 64) :
    withBusy w = if w[3]? = some none then w else w.set 3 (some 1) := by
  have enabled : enabledAt w 3 = true ↔ w[3]? ≠ some none := enabledAt_iff (by rw [length]; decide)
  unfold withBusy
  by_cases none_ : w[3]? = some none
  · rw [if_pos none_, if_neg fun e => enabled.mp e none_]
  · rw [if_neg none_, if_pos (enabled.mpr none_)]

/-- A refresh write of a block's completion values (R161). -/
theorem refreshBlock_plain (b : BlockNo) (s : State) : (refreshBlock b s).cmd = s.cmd ∧ (refreshBlock b s).out = s.out ∧
    (refreshBlock b s).outside = s.outside ∧ (s.Settled → (refreshBlock b s).Settled) ∧
    (refreshBlock b s).owes (s.blockLine b) (some (partLine (statusBytes s.cmd.blocks[b].error s.cmd.blocks[b].overrun
      s.cmd.blocks[b].remaining))) (.refresh b) := by
  unfold refreshBlock
  dsimp only
  have plain : ∀ r ∈ [(s.blockLine b, some (partLine (statusBytes s.cmd.blocks[b].error s.cmd.blocks[b].overrun
      s.cmd.blocks[b].remaining)), OwnTag.refresh b)], r.2.2.isMirror = false := by simp [OwnTag.isMirror]
  exact ⟨formGroup_cmd_same plain, formGroup_out _ _ _, formGroup_outside _ _ _ (by decide), formGroup_settled plain,
    formGroup_owes (List.mem_singleton.mpr rfl) rfl⟩

/-- A refresh where one is due, and what it leaves. -/
theorem refreshIf_plain {due : Prop} [Decidable due] (b : BlockNo) {s u : State}
    (is : u = if due then refreshBlock b s else s) : u.cmd = s.cmd ∧ u.out = s.out ∧ u.outside = s.outside ∧
    (s.Settled → u.Settled) ∧ (due → u.owes (s.blockLine b) (some (partLine (statusBytes s.cmd.blocks[b].error
      s.cmd.blocks[b].overrun s.cmd.blocks[b].remaining))) (.refresh b)) ∧ (¬ due → u = s) := by
  subst is
  split
  · next yes =>
    obtain ⟨cmd, out, outside, settled, owes⟩ := refreshBlock_plain b s
    exact ⟨cmd, out, outside, settled, fun _ => owes, fun no => absurd yes no⟩
  · next no => exact ⟨rfl, rfl, rfl, id, fun yes => absurd yes no, fun _ => rfl⟩

/-- The state outside CMD and the queue once a block's write has been granted. -/
theorem outside_granted {s u : State} (same : u.outside = s.outside) (outs : List Outstanding) : { u with mi := { u.mi with
    head := none, outstanding := outs, lastForwarded := true } }.outside = { s with mi := { s.mi with
      head := none, outstanding := outs, lastForwarded := true } }.outside :=
  congrArg (fun v : State => { v with mi := { v.mi with head := none, outstanding := outs, lastForwarded := true } }) same

end Sys2Proof.Machine

open Sys2Proof Sys2Proof.Machine

/-- Settles O36: the issue test's four verdicts. -/
theorem issueJoinsPending : Obligations.IssueJoinsPending := by
  refine ⟨fun s win b bytes ready settled own kind length idle new head => ?_,
    fun s win b w busied tag ready settled own kind length isTag isBusied head =>
      ⟨fun new is differ busy => ?_, fun new is differ idle part => ?_, fun same => ?_⟩⟩
  · have tagged : (bytes.map some).getD 1 none = some (bytes.getD 1 0) := by
      rw [List.getD_eq_getElem?_getD, List.getElem?_map, List.getD_eq_getElem?_getD,
        List.getElem?_eq_getElem (by omega : 1 < bytes.length)]
      rfl
    have isTag : bytes[1]? = some (bytes.getD 1 0) := by
      rw [List.getD_eq_getElem?_getD, List.getElem?_eq_getElem (by omega : 1 < bytes.length)]
      rfl
    have all : allEnabled (bytes.map some) = true := by simp [allEnabled, length]
    have verdict : issueTest s.cmd.blocks[b] (bytes.map some) = .issue := by
      rw [issueTest_new tagged (fun e => new (e ▸ isTag)), if_neg fun e => busy_iff.mp e idle, if_pos all]
    have busied : withBusy (bytes.map some) = (bytes.set 3 1).map some := by
      rw [withBusy_eq (by simpa using length), List.map_set, if_neg (by simp)]
    obtain ⟨u, hu⟩ : ∃ u : State, u = { s.quiet.updBlock b (fun x => { x with
        state := .pending, lastTag := bytes.getD 1 0, copy := bytes.set 3 1 }) with
      cmd := { (s.quiet.updBlock b (fun x => { x with
          state := .pending, lastTag := bytes.getD 1 0, copy := bytes.set 3 1 })).cmd with
        pending := s.cmd.pending ++ [b] } } := ⟨_, rfl⟩
    have writes : blockWrite b (bytes.map some) s.quiet = (u, (bytes.set 3 1).map some) := by
      have read : lineBytes ((bytes.set 3 1).map some) = bytes.set 3 1 := by simp [lineBytes]
      unfold blockWrite
      dsimp only
      rw [State.quiet_cmd, verdict]
      dsimp only
      rw [busied, read, tagged, hu]
      rfl
    have fresh : u.Settled := hu ▸ ⟨settled.changes, settled.summary, settled.low, settled.high⟩
    have self : u.cmd.blocks[b] = { s.cmd.blocks[b] with
        state := .pending, lastTag := bytes.getD 1 0, copy := bytes.set 3 1 } := by
      rw [hu]
      exact updAt_self _ _ _
    refine ⟨_, exec_memoryGrant_block ready own kind head writes fresh, ?_, ?_, ?_, ?_, ?_, fun c other => ?_, ?_, ?_⟩
    · rw [hu]
      rfl
    · rw [self]
    · rw [self]
      exact isTag
    · rw [self]
    · rw [hu]
    · rw [hu]
      exact updAt_other _ _ _ _ other
    · rw [hu]
      rfl
    · exact outside_granted (by rw [hu]; rfl) _
  · have verdict : issueTest s.cmd.blocks[b] w = .whileBusy := by
      rw [issueTest_new (tag := new) (by rw [List.getD_eq_getElem?_getD, isTag, is]; rfl) differ, if_pos (busy_iff.mpr busy)]
    obtain ⟨v, hv⟩ : ∃ v, v = s.quiet.updBlock b (fun x => { x with lastTag := new, overrun := true }) := ⟨_, rfl⟩
    obtain ⟨u, hu⟩ : ∃ u, u = if s.cmd.blocks[b].state = .closing then refreshBlock b v else v := ⟨_, rfl⟩
    have writes : blockWrite b w s.quiet = (u, busied) := by
      have read : (w.getD 1 none).getD 0 = new := by rw [List.getD_eq_getElem?_getD, isTag, is]; rfl
      unfold blockWrite
      dsimp only
      rw [State.quiet_cmd, verdict]
      dsimp only
      rw [read, withBusy_eq length, ← isBusied, ← hv, hu]
    have self : v.cmd.blocks[b] = { s.cmd.blocks[b] with lastTag := new, overrun := true } := by
      rw [hv]
      exact updAt_self _ _ _
    obtain ⟨cmd, out, outside, fresh, owes, same⟩ := refreshIf_plain b hu
    rw [self] at owes
    refine ⟨_, exec_memoryGrant_block ready own kind head writes (fresh (hv ▸ updBlock_settled (s := s.quiet) (settled.congr rfl rfl) b _)),
      ?_, ?_, fun closing => ?_, fun open_ => ?_, outside_granted (outside.trans (by rw [hv]; rfl)) _⟩
    · rw [out, hv]
      rfl
    · rw [cmd, hv]
      rfl
    · have line : v.blockLine b = s.blockLine b := by rw [hv]; rfl
      rw [← line]
      exact owes closing
    · rw [same open_, hv]
      exact ⟨own, rfl⟩
  · have verdict : issueTest s.cmd.blocks[b] w = .partialIssue := by
      rw [issueTest_new (tag := new) (by rw [List.getD_eq_getElem?_getD, isTag, is]; rfl) differ,
        if_neg fun e => busy_iff.mp e idle, if_neg]
      rw [allEnabled, Bool.and_eq_true, List.all_eq_true]
      exact fun ⟨_, all⟩ => Bool.false_ne_true (all none part)
    obtain ⟨v, hv⟩ : ∃ v, v = s.quiet.updBlock b (fun x => { x with state := .closing, error := .badIssue, remaining := 0 }) :=
      ⟨_, rfl⟩
    obtain ⟨u, hu⟩ : ∃ u, u = formGroup [(s.blockLine b, some (partLine (statusBytes .badIssue false 0)), .completion b)]
      .nothing v := ⟨_, rfl⟩
    have plain : ∀ r ∈ [(s.blockLine b, some (partLine (statusBytes .badIssue false 0)), OwnTag.completion b)],
      r.2.2.isMirror = false := by simp [OwnTag.isMirror]
    have writes : blockWrite b w s.quiet = (u, w) := by
      unfold blockWrite
      dsimp only
      rw [State.quiet_cmd, verdict]
      dsimp only
      rw [hu, hv]
      rfl
    have fresh : u.Settled := hu ▸ formGroup_settled plain (hv ▸ updBlock_settled (s := s.quiet) (settled.congr rfl rfl) b _)
    refine ⟨_, exec_memoryGrant_block ready own kind head writes fresh, ?_, ?_, ?_, outside_granted ?_ _⟩
    · rw [hu, formGroup_out, hv]
      rfl
    · rw [hu, formGroup_cmd_same plain, hv]
      rfl
    · rw [hu]
      exact formGroup_owes (List.mem_singleton.mpr rfl) rfl
    · rw [hu, formGroup_outside _ _ _ (by decide), hv]
      rfl
  · have verdict : issueTest s.cmd.blocks[b] w = .plain := issueTest_same (by
      rw [List.getD_eq_getElem?_getD, isTag]
      exact same)
    have enabled : enabledAt w 3 = true ↔ w[3]? ≠ some none := enabledAt_iff (by rw [length]; decide)
    obtain ⟨u, hu⟩ : ∃ u, u = if s.cmd.blocks[b].state = .closing ∧ w[3]? ≠ some none then refreshBlock b s.quiet
      else s.quiet := ⟨_, rfl⟩
    have writes : blockWrite b w s.quiet = (u, if s.cmd.blocks[b].state = .idle then w else busied) := by
      unfold blockWrite
      dsimp only
      rw [State.quiet_cmd, verdict]
      dsimp only
      rw [withBusy_eq length, ← isBusied, hu]
      by_cases idle : s.cmd.blocks[b].state = .idle
      · rw [if_neg fun e => busy_iff.mp e idle, if_pos idle, if_neg]
        rw [idle]
        exact fun e => nomatch e.1
      · rw [if_pos (busy_iff.mpr idle), if_neg idle]
        refine congrArg (·, busied) ?_
        by_cases on : w[3]? ≠ some none
        · rw [if_pos (enabled.mpr on)]
          exact if_congr (iff_of_eq (by simp [on])) rfl rfl
        · rw [if_neg fun e => on (enabled.mp e), if_neg fun e => on e.2]
    obtain ⟨cmd, out, outside, fresh, owes, kept⟩ := refreshIf_plain b hu
    refine ⟨_, exec_memoryGrant_block ready own kind head writes (fresh (settled.congr rfl rfl)), cmd, ?_,
      fun closing on => owes ⟨closing, on⟩, fun not_ => ?_, outside_granted outside _⟩
    · rw [out]
      rfl
    · rw [kept fun e => not_.elim (absurd e.1) (absurd · e.2)]
      exact ⟨own, rfl⟩

end

section
/-! SUPPORT. A posting: the line as it goes to memory, and the record it opens; the statement about postings. -/

namespace Sys2Proof.Machine

-- One proof at a time: each would otherwise hold a thread of its own.
set_option Elab.async false

/-! ## Lines -/

theorem mapM_some {α : Type} (l : List α) : (l.map some).mapM id = some l := by
  induction l with
  | nil => rfl
  | cons a l ih => simp [ih]

/-- A run of bytes, all enabled. -/
theorem enabledRun_of_run {w : WLine} {off n : Nat} {bs : List Byte} (run : (w.drop off).take n = bs.map some)
    (length : bs.length = n) : enabledRun w off n = some bs := by
  unfold enabledRun
  dsimp only
  rw [run, List.length_map, if_pos length, mapM_some]

theorem putAt_length {α : Type} {l : List α} {off : Nat} {xs : List α} (fits : off + xs.length ≤ l.length) :
    (putAt l off xs).length = l.length := by
  simp only [putAt, List.length_append, List.length_take, List.length_drop]
  omega

theorem putAt_getElem? {α : Type} {l : List α} {off : Nat} {xs : List α} (fits : off + xs.length ≤ l.length) (i : Nat) :
    (putAt l off xs)[i]? = if off ≤ i ∧ i < off + xs.length then xs[i - off]? else l[i]? := by
  have front : (l.take off).length = off := by rw [List.length_take]; omega
  unfold putAt
  by_cases before : i < off
  · rw [if_neg (by omega), List.append_assoc, List.getElem?_append_left (by omega), List.getElem?_take_of_lt before]
  · by_cases inside : i < off + xs.length
    · rw [if_pos ⟨by omega, inside⟩, List.append_assoc, List.getElem?_append_right (by omega), front,
        List.getElem?_append_left (by omega)]
    · rw [if_neg (by omega), List.getElem?_append_right (by rw [List.length_append]; omega), List.length_append, front,
        List.getElem?_drop]
      congr 1
      omega

/-! ## The posted line (R85) -/

section
variable {capture : Stamp} {w : WLine} (length : w.length = 64)
include length

theorem postedLine_length : (postedLine capture w).length = 64 := by
  have bytes : (leBytes 8 capture.toNat).length = 8 := by simp
  unfold postedLine
  rw [putAt_length, putAt_length, putAt_length, length]
  all_goals simp [putAt_length, length, bytes]

theorem postedLine_getElem? (i : Nat) : (postedLine capture w)[i]? =
    if 16 ≤ i ∧ i < 32 then some (some 0)
    else if 8 ≤ i ∧ i < 16 then ((leBytes 8 capture.toNat).map some)[i - 8]?
    else if i = 5 then some (some 0) else w[i]? := by
  have bytes : (leBytes 8 capture.toNat).length = 8 := by simp
  have first : (putAt w 5 [some 0]).length = 64 := (putAt_length (by rw [length]; decide)).trans length
  have within : 8 + ((leBytes 8 capture.toNat).map some).length ≤ (putAt w 5 [some 0]).length := by
    rw [first, List.length_map, bytes]
    decide
  have second : (putAt (putAt w 5 [some 0]) 8 ((leBytes 8 capture.toNat).map some)).length = 64 :=
    (putAt_length within).trans first
  unfold postedLine
  rw [putAt_getElem? (by rw [second, List.length_replicate]; decide), putAt_getElem? within,
    putAt_getElem? (by rw [length]; decide), List.length_replicate, List.length_map, bytes, List.length_singleton]
  by_cases late : 16 ≤ i ∧ i < 32
  · rw [if_pos late, if_pos late, List.getElem?_replicate_of_lt (by omega)]
  · rw [if_neg late, if_neg late]
    by_cases middle : 8 ≤ i ∧ i < 16
    · rw [if_pos middle, if_pos middle]
    · rw [if_neg middle, if_neg middle]
      by_cases done : i = 5
      · subst done
        rfl
      · rw [if_neg (by omega), if_neg done]

theorem postedLine_capture : enabledRun (postedLine capture w) 8 8 = some (leBytes 8 capture.toNat) := by
  have bytes : (leBytes 8 capture.toNat).length = 8 := by simp
  refine enabledRun_of_run (List.ext_getElem? fun i => ?_) bytes
  by_cases near : i < 8
  · rw [List.getElem?_take_of_lt near, List.getElem?_drop, postedLine_getElem? length, if_neg (by omega), if_pos (by omega),
      Nat.add_sub_cancel_left]
  · rw [List.getElem?_eq_none (by simp; omega), List.getElem?_eq_none (by simp; omega)]

theorem postedLine_zeros : enabledRun (postedLine capture w) 16 16 = some (List.replicate 16 0) := by
  refine enabledRun_of_run (List.ext_getElem? fun i => ?_) List.length_replicate
  by_cases near : i < 16
  · rw [List.getElem?_take_of_lt near, List.getElem?_drop, postedLine_getElem? length, if_pos (by omega), List.map_replicate,
      List.getElem?_replicate_of_lt near]
  · rw [List.getElem?_eq_none (by simp; omega), List.getElem?_eq_none (by simp; omega)]

end

/-- The byte at an enabled place. -/
theorem getElem?_of_enabled {w : WLine} {i : Nat} (enabled : enabledAt w i = true) :
    w[i]? = some (some ((lineBytes w).getD i 0)) := by
  rw [enabledAt, List.getD_eq_getElem?_getD] at enabled
  rw [lineBytes, List.getD_eq_getElem?_getD, List.getElem?_map]
  cases place : w[i]? with
  | none => simp [place] at enabled
  | some b =>
    cases b with
    | none => simp [place] at enabled
    | some b => rfl

theorem enabledRun_front {w : WLine} {n : Nat} (long : n ≤ w.length) (all : ∀ i, i < n → enabledAt w i = true) :
    enabledRun w 0 n = some ((lineBytes w).take n) := by
  refine enabledRun_of_run (List.ext_getElem? fun i => ?_) (by simp [lineBytes, long])
  by_cases near : i < n
  · rw [List.drop_zero, List.map_take, List.getElem?_take_of_lt near, List.getElem?_take_of_lt near, List.getElem?_map,
      getElem?_of_enabled (all i near), List.getElem?_eq_getElem (by simp [lineBytes]; omega), Option.map_some,
      List.getD_eq_getElem?_getD, List.getElem?_eq_getElem (by simp [lineBytes]; omega), Option.getD_some]
  · rw [List.getElem?_eq_none (by simp; omega), List.getElem?_eq_none (by simp; omega)]

/-! ## The record a posting opens (R97, R99, R100) -/

/-- The record that a posting of a header line opens, before its payload is gathered. -/
def posted (ring : RingNo) (slot hdr : Nat) (w : WLine) (s : State) : Record :=
  let bs := lineBytes w
  { hdr, ring, slot, code := bs.getD 4 0, capture := s.tu.station, len := byteAt bs 0, mask := bs.getD 1 0,
    cls := if byteAt bs 2 = 1 then .bulk else .urgent, force := byteAt bs 3 ≠ 0, head := (w.drop 32).take 32, body := none,
    phase := .assembling, dests := destsOf s.ownSite (bs.getD 1 0) (byteAt bs 0), egress := false }

/-- The state with a record open and its slot IN_FLIGHT. -/
def opened (ring : RingNo) (slot : Nat) (r : Record) (s : State) : State :=
  { s with cu := { s.cu with
      records := s.cu.records ++ [r]
      rings := updAt s.cu.rings ring (fun t => t.map (fun t =>
        { t with slots := t.slots.modify slot (fun x => ⟨true, !x.lap⟩) })) } }

theorem takePosting_eq (ring : RingNo) (slot hdr : Nat) (w : WLine) (s : State) : takePosting ring slot hdr w s =
    if (posted ring slot hdr w s).allSettled then
      closeRecord (posted ring slot hdr w s) (opened ring slot (posted ring slot hdr w s) s)
    else gather (posted ring slot hdr w s) (opened ring slot (posted ring slot hdr w s) s) := rfl

/-- What a record keeps from its posting to its end. -/
def Record.facts (r : Record) : Nat × RingNo × Nat × Stamp × Nat × Byte × WLine :=
  (r.hdr, r.ring, r.slot, r.capture, r.len, r.mask, r.head)

/-- What is done with a record that has just been opened keeps its facts, the rings, and what is outside CU and the
own-request queue. -/
structure Opens (r : Record) (s t : State) : Prop where
  record : ∃ x ∈ t.cu.records, x.facts = r.facts
  rings : t.cu.rings = s.cu.rings
  out : t.out = s.out
  outside : t.outside = { s with cu := t.cu }.outside

theorem Opens.of_group {r : Record} {s t : State} (opens : Opens r s t) (reqs : List (Nat × Option WLine × OwnTag)) :
    Opens r s (formGroup reqs .nothing t) where
  record := by rw [formGroup_cu]; exact opens.record
  rings := by rw [formGroup_cu]; exact opens.rings
  out := by rw [formGroup_out]; exact opens.out
  outside := by rw [formGroup_outside _ _ _ (by decide), formGroup_cu]; exact opens.outside

section
variable {r : Record} {s : State} (mem : r ∈ s.cu.records)
include mem

theorem updRecord_opens (f : Record → Record) (kept : (f r).facts = r.facts) : Opens r s (s.updRecord r.hdr f) where
  record := ⟨f r, List.mem_map.mpr ⟨r, mem, if_pos rfl⟩, kept⟩
  rings := rfl
  out := rfl
  outside := rfl

theorem closeRecord_opens : Opens r s (closeRecord r s) := (updRecord_opens mem _ rfl).of_group _

theorem gather_opens : Opens r s (gather r s) := by
  obtain ⟨body, hbody⟩ : ∃ b, b = bodyPayload (s.cu.buffer.find? (fun e => e.line == r.hdr + 1)) r.len := ⟨_, rfl⟩
  obtain ⟨v, hv⟩ : ∃ v : State, v = { s with cu := { s.cu with
    buffer := s.cu.buffer.filter (fun e => e.line != r.hdr + 1) } } := ⟨_, rfl⟩
  have stored (x : Record) (kept : x.facts = r.facts) : Opens r s (v.updRecord r.hdr (fun _ => x)) := by
    obtain ⟨record, rings, out, outside⟩ := updRecord_opens (s := v) (hv ▸ mem) (fun _ => x) kept
    subst hv
    exact ⟨record, rings, out, outside⟩
  unfold gather
  dsimp only
  rw [← hbody, ← hv]
  split
  · exact stored _ rfl
  · exact Opens.of_group (stored { r with body } rfl) _

end

theorem takePosting_opens (ring : RingNo) (slot hdr : Nat) (w : WLine) (s : State) :
    Opens (posted ring slot hdr w s) (opened ring slot (posted ring slot hdr w s) s) (takePosting ring slot hdr w s) := by
  have mem : posted ring slot hdr w s ∈ (opened ring slot (posted ring slot hdr w s) s).cu.records :=
    List.mem_append_right _ (List.mem_singleton_self _)
  rw [takePosting_eq]
  split
  · exact closeRecord_opens mem
  · exact gather_opens mem

/-! ## The grant of a posting (R85) -/

theorem postingTest_post {slot : Slot} {w : WLine} (code : w[4]? = some (some (lapCode slot.lap))) (free : slot.inFlight = false)
    (length : w.length = 64) (all : ∀ i, i < 4 → enabledAt w i = true) : postingTest slot w = .post := by
  unfold postingTest
  rw [List.getD_eq_getElem?_getD, code, free, enabledRun_front (by omega) all]
  exact if_pos rfl

theorem grantWrite_posting {s : State} {win : Window} {t : RingTable} {ring : RingNo} {j : Nat} {slot : Slot} {w : WLine}
    (kind : win.kind = .transmit) (param : win.param = ring.val) (table : s.cu.rings[ring] = some t) (base : t.base = win.base)
    (limit : t.limit = win.limit) (at_ : t.slots[j]? = some slot) (post : postingTest slot w = .post) :
    grantWrite win (t.base * 64 + 2 * j) [w] s =
      (takePosting ring j (t.base * 64 + 2 * j) w s, [postedLine s.tu.station w]) := by
  have named : Fin.ofNat 4 win.param = ring := Fin.ext (by rw [Fin.val_ofNat, param]; exact Nat.mod_eq_of_lt ring.isLt)
  have place : t.base * 64 + 2 * j - t.base * 64 = 2 * j := Nat.add_sub_cancel_left ..
  have header : headerWrite ring t j w s = (takePosting ring j (t.base * 64 + 2 * j) w s, postedLine s.tu.station w) := by
    unfold headerWrite
    rw [table, Option.getD_some, at_]
    dsimp only
    rw [post]
    rfl
  unfold grantWrite
  rw [kind]
  simp only [named, table]
  rw [if_pos ⟨base, limit⟩, transmitWrite, place]
  dsimp only
  rw [if_pos (Nat.mul_mod_right ..), Nat.mul_div_cancel_left _ (by decide), header]

end Sys2Proof.Machine

open Sys2Proof Sys2Proof.Machine

/-- Settles O35: the grant takes the posting; the record it opens keeps its facts while it closes at once or gathers its
payload, and the line goes to memory as the posted line. -/
theorem postingIsCaptured : Obligations.PostingIsCaptured := by
  intro s win t ring j lap w ready own kind param table base limit at_ head length code enabled
  have post : postingTest ⟨false, lap⟩ w = .post := postingTest_post code rfl length enabled
  obtain ⟨u, hu⟩ : ∃ u, u = takePosting ring j (t.base * 64 + 2 * j) w s.quiet := ⟨_, rfl⟩
  obtain ⟨⟨x, mem, facts⟩, rings, out, outside⟩ := hu ▸ takePosting_opens ring j (t.base * 64 + 2 * j) w s.quiet
  have runs := exec_memoryGrant_write ready own head
    (hu ▸ grantWrite_posting (s := s.quiet) kind param table base limit at_ post)
  obtain ⟨hdr, isRing, slot, capture, len, mask, bytes⟩ :
      x.hdr = t.base * 64 + 2 * j ∧ x.ring = ring ∧ x.slot = j ∧ x.capture = s.tu.station ∧
      x.len = byteAt (lineBytes w) 0 ∧
        x.mask = (lineBytes w).getD 1 0 ∧ x.head = (w.drop 32).take 32 := by
    simp only [Record.facts, Prod.mk.injEq] at facts
    exact facts
  refine ⟨_, _, runs, ?_, postedLine_length length, postedLine_capture length, ?_, postedLine_zeros length, fun i apart => ?_,
    ⟨x, ?_, hdr, isRing, slot, capture, ?_, ?_, ?_⟩,
    ⟨{ t with slots := t.slots.modify j (fun x => ⟨true, !x.lap⟩) }, ?_, ?_⟩, ?_⟩
  · rw [granted_out]
    exact List.mem_append_right _ (List.mem_singleton_self _)
  · rw [postedLine_getElem? length]
    rfl
  · rw [postedLine_getElem? length, if_neg (by omega), if_neg (by omega), if_neg (by omega)]
  · rw [granted_cu]
    exact mem
  · rw [len, byteAt, BitVec.ofNat_toNat, BitVec.setWidth_eq]
    exact getElem?_of_enabled (enabled 0 (by decide))
  · rw [mask]
    exact getElem?_of_enabled (enabled 1 (by decide))
  · rw [bytes, List.take_of_length_le (by rw [List.length_drop, length])]
  · rw [granted_cu, rings]
    refine (updAt_self _ _ _).trans ?_
    exact congrArg (Option.map _) table
  · rw [List.getElem?_modify_eq, at_]
    rfl
  · rw [granted_outside, granted_cu]
    exact congrArg (fun y : State =>
      { y with mi :=
          { y.mi with
            head := none
            outstanding := (granted (t.base * 64 + 2 * j) [postedLine s.tu.station w] u).mi.outstanding
            lastForwarded := true } }) outside

end

section
/-! SUPPORT. The answers to own requests; the statement about the answers to completion, done and capture requests. -/

namespace Sys2Proof.Machine

-- One proof at a time: each would otherwise hold a thread of its own.
set_option Elab.async false

/-! ## The answer to an own request (R91, R92) -/

theorem exec_ownResponse {s : State} {ok : Bool} {data : List Byte} {r : OwnReq} {rest : List Outstanding}
    (oldest : s.mi.outstanding = .own r :: rest) (formed : (ok && r.write.isNone && data.length != 64) = false) :
    exec (.ownResponse ok data) s = .next (flush (ownAnswer r.tag ok data (s.answered r rest))) := by
  have refused : ¬ (ok && r.write.isNone && data.length != 64) = true := Bool.eq_false_iff.mp formed
  rw [show exec (.ownResponse ok data) s = execOwnResponse ok data s from rfl, execOwnResponse, oldest]
  exact (if_neg refused).trans (run_eq _ s)

theorem formed_write {ok : Bool} {data : List Byte} {r : OwnReq} (write : r.write ≠ none) :
    (ok && r.write.isNone && data.length != 64) = false := by
  rw [Option.isNone_eq_false_iff.mpr (Option.isSome_iff_ne_none.mpr write), Bool.and_false, Bool.false_and]

theorem formed_line {ok : Bool} {data : List Byte} {r : OwnReq} (length : data.length = 64) :
    (ok && r.write.isNone && data.length != 64) = false := by
  rw [length]
  exact Bool.and_false _

theorem answered_settles {s : State} (settled : s.Settled) (r : OwnReq) (rest : List Outstanding) :
    (s.answered r rest).Settled := settled.congr rfl rfl

/-! ## Done writes (R107) -/

theorem recordOf_recordClosed (hdr : Nat) (s : State) : (recordClosed hdr s).recordOf hdr = none :=
  List.find?_eq_none.mpr fun r mem => by
    have other := (List.mem_filter.mp mem).2
    simpa using other

theorem recordOf_recordClosed_other {hdr other : Nat} (differ : other ≠ hdr) (s : State) :
    (recordClosed hdr s).recordOf other = s.recordOf other := by
  unfold State.recordOf recordClosed
  dsimp only
  rw [List.find?_filter]
  congr 1
  funext r
  by_cases named : r.hdr = other
  · simp [named, differ]
  · simp [named]

theorem free_slots (hdr : Nat) (t : RingTable) : ∃ slots, t.free hdr = { t with slots := slots } ∧
    slots.length = t.slots.length ∧ ∀ (j : Nat) (x : Slot), t.slots[j]? = some x →
      slots[j]? = some (if t.base * 64 + 2 * j = hdr then { x with inFlight := false } else x) := by
  unfold RingTable.free
  split
  · next after =>
    refine ⟨_, rfl, List.length_modify .., fun j x at_ => ?_⟩
    rw [List.getElem?_modify, at_]
    by_cases here : (hdr - t.base * 64) / 2 = j
    · rw [here]
      simp only [RingTable.header, if_true, Option.map_some]
      rfl
    · have other : t.base * 64 + 2 * j ≠ hdr := by omega
      simp only [here, other, if_false]
      rfl
  · next before =>
    exact ⟨t.slots, rfl, rfl, fun j x at_ => by rw [at_, if_neg (by omega)]⟩

/-! ## Capture reads (R103) -/

/-- A record with a line that has been read for it. -/
def Record.withLine (isBody : Bool) (data : List Byte) (r : Record) : Record :=
  if isBody then { r with body := some (data.take (r.len - 32)) }
  else { r with head := ((data.drop 32).take 32).map some }

theorem withLine_hdr (isBody : Bool) (data : List Byte) (r : Record) : (r.withLine isBody data).hdr = r.hdr := by
  cases isBody <;> rfl

section
variable {s : State} {hdr : Nat} {r : Record} (found : s.recordOf hdr = some r) (assembling : r.phase = .assembling)
include found assembling

theorem captureAnswer_ok (isBody : Bool) (data : List Byte) : captureAnswer hdr isBody true data s =
    s.updRecord hdr (fun r => if (r.withLine isBody data).payload.isSome then
      { r.withLine isBody data with phase := .routing } else r.withLine isBody data) := by
  unfold captureAnswer
  rw [found]
  dsimp only
  rw [if_neg (not_not_intro assembling)]
  rfl

/-- A capture read answered OK that brings the payload together: the record is ROUTING, and nothing else moves. -/
theorem captureAnswer_routes {isBody : Bool} {data : List Byte} (whole : (r.withLine isBody data).payload.isSome = true) :
    (captureAnswer hdr isBody true data s).recordOf hdr = some { r.withLine isBody data with phase := .routing } ∧
      { captureAnswer hdr isBody true data s with cu := s.cu } = s := by
  rw [captureAnswer_ok found assembling]
  refine ⟨(recordOf_updRecord fun x same => ?_).trans ((congrArg _ found).trans (congrArg some (if_pos whole))), rfl⟩
  split
  · exact (withLine_hdr ..).trans same
  · exact (withLine_hdr ..).trans same

theorem captureAnswer_error (isBody : Bool) (data : List Byte) : captureAnswer hdr isBody false data s =
    closeIfSettled hdr (raise .slotFault (s.updRecord hdr (fun r =>
      { r with dests := r.dests.map (fun d => if d.isSettled then d else .settled .flushed) }))) := by
  unfold captureAnswer
  rw [found]
  dsimp only
  rw [if_neg (not_not_intro assembling)]
  rfl

end

theorem closeIfSettled_closes {s : State} {hdr : Nat} {r : Record} (found : s.recordOf hdr = some r)
    (open_ : r.phase ≠ .closing) (all : r.allSettled = true) : closeIfSettled hdr s = closeRecord r s := by
  unfold closeIfSettled
  rw [found]
  exact if_pos ⟨open_, all⟩

/-- The destinations of a record whose capture failed. -/
def Record.flushed (r : Record) : Record :=
  { r with dests := r.dests.map (fun d => if d.isSettled then d else .settled .flushed) }

theorem flushed_dests (r : Record) (i : Site) : r.flushed.dests[i] = match r.dests[i] with
    | .none => .none
    | .settled o => .settled o
    | _ => .settled .flushed := by
  rw [Fin.getElem_fin, Fin.getElem_fin, Record.flushed, Vector.getElem_map]
  cases r.dests[(i : Nat)] <;> rfl

theorem flushed_allSettled (r : Record) : r.flushed.allSettled = true :=
  List.all_eq_true.mpr fun d mem => by
    obtain ⟨d, -, rfl⟩ := Vector.mem_map.mp (Vector.mem_toList_iff.mp mem)
    cases d <;> rfl

section
variable {s : State} {hdr : Nat} {r : Record} (found : s.recordOf hdr = some r)
include found

theorem closeRecord_found : (closeRecord r s).recordOf hdr = some { r with phase := .closing } := by
  obtain rfl : r.hdr = hdr := recordOf_hdr found
  unfold closeRecord
  rw [recordOf_of_cu (formGroup_cu _ _)]
  exact (recordOf_updRecord (f := fun _ => { r with phase := .closing }) fun _ _ => rfl).trans (congrArg _ found)

theorem closeRecord_owesRun : (closeRecord r s).owesRun
    [(hdr, some (partLine [(24, r.dests.toList.map Dest.byte)]), .outcomes hdr),
     (hdr, some (partLine [(5, [r.code])]), .done hdr)] := by
  rw [← recordOf_hdr found]
  exact formGroup_owesRun (by simp [OwnTag.isMirror])

end

theorem closeRecord_cmd (r : Record) (s : State) : (closeRecord r s).cmd = s.cmd :=
  formGroup_cmd_same (by simp [OwnTag.isMirror])

theorem closeRecord_outside (r : Record) (s : State) :
    (closeRecord r s).outside = { s with cu := (closeRecord r s).cu }.outside := by
  unfold closeRecord
  rw [formGroup_cu, formGroup_outside _ _ _ (by decide)]
  rfl

/-- A capture read answered ERROR, of a record that is ASSEMBLING. -/
theorem captureAnswer_fails {s : State} {hdr : Nat} {r : Record} (found : s.recordOf hdr = some r)
    (assembling : r.phase = .assembling) (isBody : Bool) (data : List Byte) :
    ∃ u, u.recordOf hdr = some r.flushed ∧ u.hasCause .slotFault ∧ u.outside = { s with cu := u.cu }.outside ∧
      captureAnswer hdr isBody false data s = closeRecord r.flushed u := by
  have line := recordOf_hdr found
  obtain ⟨u, hu⟩ : ∃ u, u = raise .slotFault (s.updRecord hdr Record.flushed) := ⟨_, rfl⟩
  have here : u.recordOf hdr = some r.flushed := by
    rw [hu]
    exact (recordOf_updRecord (f := Record.flushed) fun _ same => same).trans (congrArg _ found)
  refine ⟨u, here, hu ▸ raise_hasCause _ _, ?_, ?_⟩
  · subst hu
    rfl
  · refine (captureAnswer_error found assembling isBody data).trans ?_
    refine Eq.trans (congrArg (closeIfSettled hdr) hu.symm) (closeIfSettled_closes here ?_ (flushed_allSettled r))
    exact fun closing => nomatch assembling.symm.trans closing

end Sys2Proof.Machine

open Sys2Proof Sys2Proof.Machine

/-- Settles O40: each answer's effect on the block or on the record it names, the state owing nothing more to write. -/
theorem completionIsAnswered : Obligations.CompletionIsAnswered := by
  intro s ok r rest settled oldest
  obtain ⟨a, ha⟩ : ∃ a, a = s.answered r rest := ⟨_, rfl⟩
  have calm : a.Settled := ha ▸ answered_settles settled r rest
  have runs {data : List Byte} (formed : (ok && r.write.isNone && data.length != 64) = false) :
      exec (.ownResponse ok data) s = .next (flush (ownAnswer r.tag ok data a)) := ha ▸ exec_ownResponse oldest formed
  have here {hdr : Nat} {rec : Record} (found : s.recordOf hdr = some rec) : a.recordOf hdr = some rec := ha ▸ found
  have frame {t : State} (only : { t with cu := a.cu } = a) : { flush t with cu := s.cu } = s.answered r rest := by
    have same : flush t = t :=
      flush_settled (calm.congr (congrArg (fun y : State => y.cmd) only :) (congrArg (fun y : State => y.mi.waiting) only :))
    subst ha
    simp only [same]
    exact only
  refine ⟨fun b tag write closing => ?_, fun hdr tag write => ?_, fun hdr rec found line assembling read => ⟨?_, ?_, ?_⟩⟩
  · rw [runs (formed_write write), tag, ← ha]
    have state : a.cmd.blocks[b].state = .closing := by rw [ha]; exact closing
    have same : ownAnswer (.completion b) ok [] a = a.updBlock b (fun x => { x with state := .idle, overrun := false }) := by
      show blockClosed b a = _
      exact congrArg (fun x => ({ a with cmd := { a.cmd with blocks := a.cmd.blocks.set b x } } : State)) (if_pos state)
    rw [same, flush_settled (updBlock_settled calm _ _)]
  · refine ⟨recordClosed hdr a, ?_, recordOf_recordClosed hdr a, fun other differ => ?_, by rw [ha]; rfl, fun ring none_ => ?_,
      fun ring tab table => ?_, by rw [ha]; rfl⟩
    · rw [runs (formed_write write), tag]
      exact congrArg Host.Outcome.next (flush_settled (calm.congr rfl rfl))
    · rw [recordOf_recordClosed_other differ, ha]
      rfl
    · rw [ha]
      exact (Vector.getElem_map ..).trans (congrArg _ none_)
    · obtain ⟨slots, freed, length, each⟩ := free_slots hdr tab
      refine ⟨slots, ?_, length, each⟩
      rw [ha, ← freed]
      exact (Vector.getElem_map ..).trans (congrArg _ table)
  · intro data head isOk length tag enabled
    have whole : (rec.withLine true data).payload.isSome = true := by
      rw [Record.payload, show (rec.withLine true data).headPayload = some head from enabled]
      rfl
    obtain ⟨routes, only⟩ := captureAnswer_routes (here found) assembling whole
    refine ⟨_, runs (formed_line length), ?_, ?_⟩
    · rw [tag, isOk, recordOf_of_cu (flush_cu _)]
      exact routes
    · rw [tag, isOk]
      exact frame only
  · intro data body isOk length tag has
    have lines : (data.drop 32).take 32 = data.drop 32 := List.take_of_length_le (by rw [List.length_drop, length])
    have whole : (rec.withLine false data).payload.isSome = true := by
      have read : (rec.withLine false data).headPayload = some (((data.drop 32).take 32).take (min rec.len 32)) :=
        enabledRun_of_run List.map_take.symm (by rw [List.length_take, List.length_take, List.length_drop, length,
            show (rec.withLine false data).len = rec.len from rfl]; omega)
      rw [Record.payload, read, show (rec.withLine false data).body = some body from has]
      rfl
    obtain ⟨routes, only⟩ := captureAnswer_routes (here found) assembling whole
    refine ⟨_, runs (formed_line length), ?_, ?_⟩
    · rw [tag, isOk, recordOf_of_cu (flush_cu _), ← lines]
      exact routes
    · rw [tag, isOk]
      exact frame only
  · intro isError tag
    obtain ⟨isBody, named⟩ : ∃ isBody, ownAnswer r.tag ok [] a = captureAnswer hdr isBody false [] a := by
      rcases tag with tag | tag
      · exact ⟨false, by rw [tag, isError]; rfl⟩
      · exact ⟨true, by rw [tag, isError]; rfl⟩
    obtain ⟨u, kept, cause, outside, closes⟩ := captureAnswer_fails (here found) assembling isBody []
    have answer := named.trans closes
    refine ⟨_, { rec.flushed with phase := .closing }, runs (by rw [isError]; rfl), ?_, rfl, flushed_dests rec, ?_, ?_, ?_⟩
    · rw [answer, recordOf_of_cu (flush_cu _)]
      exact closeRecord_found kept
    · rw [answer]
      refine flush_hasCause ?_
      unfold State.hasCause
      rw [closeRecord_cmd]
      exact cause
    · rw [answer]
      exact flush_keeps_owesRun (closeRecord_owesRun kept)
    · rw [answer, flush_outside, flush_cu, closeRecord_outside, ← ha]
      exact congrArg (fun y : State => { y with cu := (closeRecord rec.flushed u).cu }) outside

end

section
/-! SUPPORT. Lists: reading them, the records of SET_HOPS and the chain of SET_PORT; the statement about lists. -/

namespace Sys2Proof.Machine

-- One proof at a time: each would otherwise hold a thread of its own.
set_option Elab.async false

/-! ## Which ports are in use -/

/-- A path's port, and whether the path is OFF. -/
def PathRec.usage (x : PathRec) : PortNo × Bool := (x.port, x.state == .off)

def State.usage (s : State) : Vector (PortNo × Bool) 16 := s.paths.map PathRec.usage

theorem usage_congr {s t : State} (each : ∀ q : PathNo, t.paths[q].usage = s.paths[q].usage) : t.usage = s.usage :=
  Vector.ext fun i h => (Vector.getElem_map ..).trans ((each ⟨i, h⟩).trans (Vector.getElem_map ..).symm)

theorem usage_get (s : State) (q : PathNo) : s.usage[q] = s.paths[q].usage := Vector.getElem_map ..

theorem usage_of_paths {s t : State} (h : t.paths = s.paths) : t.usage = s.usage := congrArg (Vector.map _) h

theorem usage_of_bare {x y : PathRec} (h : x.bare = y.bare) : x.usage = y.usage := by
  rw [PathRec.usage, PathRec.usage, bare_port h, bare_state h]

theorem portInUse_congr {s t : State} (h : t.usage = s.usage) (k : PortNo) : portInUse t k = portInUse s k := by
  have same (q : PathNo) : t.paths[q].usage = s.paths[q].usage := by rw [← usage_get, ← usage_get, h]
  unfold portInUse
  congr 1
  funext q
  obtain ⟨port, off⟩ := Prod.mk.inj (same q)
  rw [port]
  exact congrArg (fun b => s.paths[q].port == k && !b) off

theorem updPath_usage {p : PathNo} {f : PathRec → PathRec} {s : State} (h : (f s.paths[p]).usage = s.paths[p].usage) :
    (s.updPath p f).usage = s.usage := usage_congr fun q => by
  by_cases same : q = p
  · subst same
    rw [updPath_self]
    exact h
  · rw [updPath_other same]

theorem recompute_usage (p : PathNo) (s : State) : (recompute p s).usage = s.usage := updPath_usage rfl

theorem notifyPath_usage (wasUp : Bool) (p : PathNo) (s : State) : (notifyPath wasUp p s).usage = s.usage :=
  usage_congr fun q => usage_of_bare (notifyPath_paths wasUp p q s)

theorem evalDown_usage (p : PathNo) (s : State) : (evalDown p s).usage = s.usage := usage_congr fun q => by
  by_cases same : q = p
  · subst same
    unfold evalDown
    split
    · next down =>
      refine (usage_of_bare (enterProbing_self q s)).trans ?_
      rw [PathRec.usage, PathRec.usage, down.1]
      rfl
    · rfl
  · exact usage_of_bare (evalDown_others same s)

theorem pathDown_usage (p : PathNo) (s : State) : (pathDown p s).usage = s.usage := by
  unfold pathDown
  dsimp only
  split
  · next on =>
    have left : (s.updPath p (PathRec.quiet .down)).usage = s.usage := by
      refine updPath_usage ?_
      rw [PathRec.usage, PathRec.usage]
      rcases on with on | on
      · rw [on]
        rfl
      · rw [eq_of_beq on]
        rfl
    rw [evalDown_usage, notifyPath_usage]
    exact left
  · rfl

theorem pathNotice_usage (st : HopState) (p : PathNo) (s : State) : (pathNotice st p s).usage = s.usage := by
  unfold pathNotice
  dsimp only
  split
  · exact recompute_usage p s
  · rw [evalDown_usage, recompute_usage]
  · split
    · rw [pathDown_usage, recompute_usage]
    · split
      · exact recompute_usage p s
      · refine (updPath_usage ?_).trans (recompute_usage p s)
        unfold cutProbeTimer
        split
        · split <;> rfl
        · rfl

theorem hopNotice_usage (h : HopNo) (s : State) : (hopNotice h s).usage = s.usage := by
  unfold hopNotice
  split
  · refine overAll_keeps State.usage _ _ (fun p u => ?_) s
    split
    · exact pathNotice_usage _ p u
    · rfl
  · rfl

theorem noteHop_paths (before : HopState) (h : HopNo) (s : State) : (noteHop before h s).paths = s.paths := by
  unfold noteHop
  split
  · rfl
  · exact outside_paths_eq ((raise_outside _ _).trans (markStale_outside _ _))

theorem changeHop_usage (h : HopNo) (f : HopRec → HopRec) (s : State) : (changeHop h f s).usage = s.usage := by
  have noted := usage_of_paths (noteHop_paths s.hops[h].state h (s.updHop h f))
  unfold changeHop
  dsimp only
  split
  · exact noted
  · exact (hopNotice_usage h _).trans noted

theorem changeHop_hops (h : HopNo) (f : HopRec → HopRec) (s : State) : (changeHop h f s).hops = updAt s.hops h f :=
  (changeHop_sends h f s).hops

/-! ## SET_HOPS' records (R22, R23) -/

theorem given_place (rec : List Byte) (x : HopRec) : (x.given rec).place = x.place := rfl

/-- What applying records in list order makes of a state. -/
structure Applies (recs : List (List Byte)) (s t : State) : Prop where
  moved : Rehops s t
  usage : t.usage = s.usage
  hops : ∀ h : HopNo, t.hops[h] = hopAfter recs h s.hops[h]
  raises : ∀ rec ∈ recs, ∀ h : HopNo, byteAt rec 0 = h.val → s.hops[h].state ≠ .unknown → t.hasCause .hopChange

theorem hopAfter_place (recs : List (List Byte)) (h : HopNo) (x : HopRec) : (hopAfter recs h x).place = x.place := by
  induction recs generalizing x with
  | nil => rfl
  | cons rec recs ih =>
    rw [hopAfter_cons, ih]
    split <;> rfl

theorem Applies.takesRecord {recs : List (List Byte)} {s t : State} (applies : Applies recs s t) {rec : List Byte}
    (takes : s.takesRecord rec) : t.takesRecord rec := by
  obtain ⟨length, h, named, off⟩ := takes
  refine ⟨length, h, named, fun k i place q port => ?_⟩
  rw [applies.hops, hopAfter_place] at place
  have same : t.paths[q].usage = s.paths[q].usage := by rw [← usage_get, ← usage_get, applies.usage]
  obtain ⟨port', off'⟩ := Prod.mk.inj same
  rw [off k i place q (port'.symm.trans port)] at off'
  exact eq_of_beq off'

theorem applyHopRecord_takes {rec : List Byte} {s : State} (takes : s.takesRecord rec) :
    ∃ t, applyHopRecord rec s = (.none, t) ∧ Applies [rec] s t := by
  obtain ⟨length, h, named, off⟩ := takes
  have unused : ¬ s.hops[h].place.any (fun x => portInUse s x.1) = true := by
    intro used
    obtain ⟨⟨k, i⟩, place, inUse⟩ := (Option.any_eq_true _ _).mp used
    obtain ⟨q, port, on⟩ := portInUse_iff.mp inUse
    exact on (off k i place q port)
  refine ⟨changeHop h (fun x => (x.configure rec).unknown) s, ?_, changeHop_rehops _ _ _, changeHop_usage _ _ _, fun j => ?_,
    fun r mem j name known => ?_⟩
  · unfold applyHopRecord
    rw [indexOf_eq_some.mpr named]
    exact if_neg unused
  · rw [Fin.getElem_fin, changeHop_hops]
    by_cases same : j = h
    · subst same
      rw [updAt_self, HopRec.configure_unknown]
      exact (if_pos named).symm
    · rw [updAt_other _ _ _ _ same]
      exact (if_neg fun name => same (Fin.ext (name.symm.trans named))).symm
  · obtain rfl := List.mem_singleton.mp mem
    obtain rfl : j = h := Fin.ext (name.symm.trans named)
    exact changeHop_raises (fun same => known (same.symm.trans rfl))

/-- A hop that no record names stands. -/
theorem hopAfter_cases (recs : List (List Byte)) (h : HopNo) (x : HopRec) :
    hopAfter recs h x = x ∨ ∃ rec ∈ recs, byteAt rec 0 = h.val := by
  induction recs generalizing x with
  | nil => exact .inl rfl
  | cons rec recs ih =>
    by_cases named : byteAt rec 0 = h.val
    · exact .inr ⟨rec, List.mem_cons_self, named⟩
    · rw [hopAfter_cons, if_neg named]
      exact (ih x).imp_right fun ⟨r, mem, name⟩ => ⟨r, List.mem_cons_of_mem _ mem, name⟩

theorem Applies.append {recs more : List (List Byte)} {s t u : State} (first : Applies recs s t) (then_ : Applies more t u) :
    Applies (recs ++ more) s u where
  moved := first.moved.trans then_.moved
  usage := then_.usage.trans first.usage
  hops := fun h => by rw [then_.hops, first.hops]; exact (List.foldl_append ..).symm
  raises := fun rec mem h named known => by
    have keeps (set : t.hasCause .hopChange) : u.hasCause .hopChange := then_.moved.causes _ set
    rcases List.mem_append.mp mem with mem | mem
    · exact keeps (first.raises rec mem h named known)
    · rcases hopAfter_cases recs h s.hops[h] with same | ⟨early, mem', named'⟩
      · exact then_.raises rec mem h named (by rw [first.hops, same]; exact known)
      · exact keeps (first.raises early mem' h named' known)

theorem applyHopRecords_takes (recs : List (List Byte)) {left : Nat} {tail : List Byte} {s : State}
    (few : recs.length ≤ left) (takes : ∀ rec ∈ recs, s.takesRecord rec) : ∃ t, Applies recs s t ∧
      applyHopRecords left (recs.flatten ++ tail) s = applyHopRecords (left - recs.length) tail t := by
  induction recs generalizing left s with
  | nil => exact ⟨s, ⟨.of_sends (.refl s), rfl, fun _ => rfl, nofun⟩, rfl⟩
  | cons rec recs ih =>
    obtain ⟨n, rfl⟩ : ∃ n, left = n + 1 :=
      Nat.exists_eq_add_of_lt (Nat.lt_of_lt_of_le (Nat.succ_pos _) few) |>.imp fun _ h => by omega
    have length : rec.length = 8 := (takes rec List.mem_cons_self).1
    obtain ⟨u, does, one⟩ := applyHopRecord_takes (takes rec List.mem_cons_self)
    obtain ⟨t, rest, runs⟩ := ih (left := n) (Nat.le_of_succ_le_succ few) fun r mem =>
      one.takesRecord (takes r (List.mem_cons_of_mem _ mem))
    refine ⟨t, one.append rest, ?_⟩
    rw [List.flatten_cons, List.append_assoc, applyHopRecords, if_neg (by rw [List.length_append]; omega),
      List.take_left' length, List.drop_left' length, does, List.length_cons, Nat.add_sub_add_right]
    exact runs

theorem applyHopRecord_refuses {rec : List Byte} {s : State} {e : ErrorCode} (refuses : s.RefusesRecord rec e) :
    applyHopRecord (rec.take 8) s = (e, s) := by
  have first : byteAt (rec.take 8) 0 = byteAt rec 0 := by
    cases rec <;> rfl
  unfold applyHopRecord
  rw [first]
  cases refuses with
  | noHop bad => rw [show indexOf 96 (byteAt rec 0) = none from dif_neg (by omega)]
  | inUse h k i q named place on used =>
    rw [indexOf_eq_some.mpr named]
    exact if_pos ((Option.any_eq_true _ _).mpr ⟨_, place, portInUse_iff.mpr ⟨q, on, used⟩⟩)

theorem Applies.refuses {recs : List (List Byte)} {s t : State} (applies : Applies recs s t) {rec : List Byte}
    {e : ErrorCode} (refuses : s.RefusesRecord rec e) : t.RefusesRecord rec e := by
  cases refuses with
  | noHop bad => exact .noHop bad
  | inUse h k i q named place on used =>
    have same : t.paths[q].usage = s.paths[q].usage := by rw [← usage_get, ← usage_get, applies.usage]
    obtain ⟨port, off⟩ := Prod.mk.inj same
    refine .inUse h k i q named (by rw [applies.hops, hopAfter_place]; exact place) (port.trans on) fun isOff => ?_
    rw [isOff] at off
    exact used (eq_of_beq off.symm)

theorem refusesRecord_answered {s : State} {rec : List Byte} {e : ErrorCode} (refuses : s.RefusesRecord rec e) (r : OwnReq)
    (rest : List Outstanding) : (s.answered r rest).RefusesRecord rec e := by
  cases refuses with
  | noHop bad => exact .noHop bad
  | inUse h k i q named place on used => exact .inUse h k i q named place on used

theorem applyHopRecords_short {left : Nat} {tail : List Byte} (short : tail.length < 8) (s : State) :
    applyHopRecords left tail s = (s, tail, left, .none) := by
  cases left with
  | zero => rfl
  | succ left => exact if_pos short

theorem refusesRecord_error {s : State} {rec : List Byte} {e : ErrorCode} (refuses : s.RefusesRecord rec e) : e ≠ .none := by
  cases refuses <;> nofun

theorem applyHopRecords_refuses {left : Nat} {tail : List Byte} {s : State} {e : ErrorCode} (more : 0 < left)
    (long : 8 ≤ tail.length) (refuses : s.RefusesRecord tail e) :
    applyHopRecords left tail s = (s, tail, left, e) := by
  obtain ⟨n, rfl⟩ := Nat.exists_eq_succ_of_ne_zero more.ne'
  rw [applyHopRecords, if_neg (by omega), applyHopRecord_refuses refuses]
  exact if_neg (refusesRecord_error refuses)

/-! ## Lists (R160) -/

section
variable {copy : List Byte} {first : Nat} (pointer : field copy 8 8 = 64 * first) (low : first < 2 ^ 30)
include pointer low

theorem listPointer_eq : listPointer copy = 64 * first := by
  rw [listPointer, pointer]
  exact Nat.mod_eq_of_lt (by omega)

theorem listBytes_whole (line : Nat) (data : List Byte) : listBytes copy line data = data := by
  rw [listBytes, listPointer_eq pointer low, Nat.mul_mod_right, List.drop_zero, ite_self]

end

theorem readList_outside (line : Nat) (e : Exec) (s : State) : (readList line (waitOn e s)).outside = s.outside :=
  formGroup_outside _ _ _ (by decide)

theorem readList_cmd (line : Nat) (e : Exec) (s : State) : (readList line (waitOn e s)).cmd = { s.cmd with exec := some e } :=
  formGroup_cmd_same (by simp [OwnTag.isMirror])

theorem readList_owes {line : Nat} (low : line < 2 ^ 30) (e : Exec) (s : State) :
    (readList line (waitOn e s)).owes line none .listRead := by
  rw [readList, Nat.mod_eq_of_lt low]
  exact formGroup_owes (r := (line, none, .listRead)) (List.mem_singleton_self _) rfl

/-- A command that ends on a state that keeps the blocks and the own requests formed. -/
theorem complete_completes {s u : State} {b : BlockNo} (blocks : u.cmd.blocks = s.cmd.blocks)
    (page : u.mi.windows[14].base = s.mi.windows[14].base) (owes : ∀ line w tag, s.owes line w tag → u.owes line w tag)
    (e : ErrorCode) (n : Nat) (results : List (Nat × List Byte) := []) :
    s.Completes (flush (complete b e n results u)) b e n results := by
  obtain ⟨same, -⟩ := complete_cmd b e n results u
  have line : u.blockLine b = s.blockLine b := by simp only [State.blockLine, State.controlLine, page]
  have own := complete_owes b e n results u
  rw [line, blocks] at own
  refine ⟨?_, ?_, ?_, fun c differ => ?_, flush_keeps_owes own, fun l w tag owed =>
    flush_keeps_owes (complete_keeps_owes (owes l w tag owed))⟩
  · rw [flush_blocks, same, Fin.getElem_fin, updAt_self]
  · rw [flush_blocks, same, Fin.getElem_fin, updAt_self]
  · rw [flush_blocks, same, Fin.getElem_fin, updAt_self]
  · rw [flush_blocks, same, Fin.getElem_fin, updAt_other _ _ _ _ differ, blocks]
    rfl

theorem flush_complete_pending (b : BlockNo) (e : ErrorCode) (n : Nat) (u : State)
    (results : List (Nat × List Byte) := []) : (flush (complete b e n results u)).cmd.pending = u.cmd.pending := by
  obtain ⟨-, -, pending, -⟩ := complete_cmd b e n results u
  rw [flush_pending, pending]

theorem flush_complete_exec (b : BlockNo) (e : ErrorCode) (n : Nat) (u : State)
    (results : List (Nat × List Byte) := []) : (flush (complete b e n results u)).cmd.exec = u.cmd.exec := by
  obtain ⟨-, -, -, exec, -⟩ := complete_cmd b e n results u
  rw [flush_exec, exec]

/-- A waiting command ends with an error, and nothing else moves. -/
theorem complete_fails {s : State} {r : OwnReq} {rest : List Outstanding} (b : BlockNo) (e : ErrorCode) (n : Nat) :
    s.Completes (flush (complete b e n [] (endExec (s.answered r rest)))) b e n [] ∧
      (flush (complete b e n [] (endExec (s.answered r rest)))).cmd.exec = none ∧
      (flush (complete b e n [] (endExec (s.answered r rest)))).outside = (s.answered r rest).outside :=
  ⟨complete_completes (s := s) (u := endExec (s.answered r rest)) rfl rfl (fun _ _ _ => id) e n, flush_complete_exec ..,
    flush_complete_outside b e n [] (endExec (s.answered r rest))⟩

/-! ## The answer to a line of a SET_HOPS list (R23) -/

section
variable {s : State} {b : BlockNo} {line left : Nat} {held data : List Byte} {first : Nat}
  (pointer : field s.cmd.blocks[b].copy 8 8 = 64 * first) (low : first < 2 ^ 30)
  (waits : s.cmd.exec = some (.hopList b line held left)) {tail : List Byte} {n : Nat} {e : ErrorCode} {t : State}
  (runs : applyHopRecords left (held ++ data) s = (t, tail, n, e))
include pointer low waits runs

theorem hopList_answered : listAnswered true data s =
    if e ≠ .none then complete b e n [] (endExec t)
    else if n = 0 then complete b .none 0 [] (endExec t)
    else readList (line + 1) (waitOn (.hopList b (line + 1) tail n) t) := by
  unfold listAnswered
  rw [waits]
  dsimp only
  unfold hopListAnswer
  rw [listBytes_whole pointer low]
  dsimp only
  rw [runs]
  rfl

end

theorem listAnswered_error {s : State} (data : List Byte) :
    (∀ b line held left, s.cmd.exec = some (.hopList b line held left) →
      listAnswered false data s = complete b .memoryError left [] (endExec s)) ∧
    ∀ b line held, s.cmd.exec = some (.portList b line held) →
      listAnswered false data s = complete b .memoryError 0 [] (endExec s) := by
  refine ⟨fun b line held left waits => ?_, fun b line held waits => ?_⟩
  · unfold listAnswered
    rw [waits]
    rfl
  · unfold listAnswered
    rw [waits]
    rfl

/-! ## The chain of SET_PORT (R20) -/

theorem hopsOf_cons_eq_some {x : Byte} {bs : List Byte} {hs : List HopNo} :
    hopsOf (x :: bs) = some hs ↔ ∃ h more, indexOf 96 x.toNat = some h ∧ hopsOf bs = some more ∧ hs = h :: more := by
  rw [hopsOf]
  split
  next h more first others => simp [first, others, eq_comm]
  next none =>
    simp only [reduceCtorEq, false_iff]
    rintro ⟨h, more, first, others, -⟩
    exact none h more first others

/-- A list of bytes names hops exactly when it is their numbers. -/
theorem hopsOf_eq_some {bs : List Byte} {hs : List HopNo} :
    hopsOf bs = some hs ↔ bs = hs.map (fun h => BitVec.ofNat 8 h.val) := by
  induction bs generalizing hs with
  | nil => cases hs <;> simp [hopsOf]
  | cons x bs ih =>
    have byte : ∀ h : HopNo, indexOf 96 x.toNat = some h ↔ x = BitVec.ofNat 8 h.val := by
      intro h
      rw [indexOf_eq_some, ← BitVec.toNat_inj, BitVec.toNat_ofNat, Nat.mod_eq_of_lt (by omega)]
    rw [hopsOf_cons_eq_some]
    simp only [byte, ih]
    cases hs <;> simp

theorem chainOf_eq_some {k : PortNo} {bs : List Byte} {s : State} {hs : List HopNo} : chainOf k bs s = some hs ↔
    bs = hs.map (fun h => BitVec.ofNat 8 h.val) ∧ hs.Nodup ∧
      ∀ h ∈ hs, ∀ (j : PortNo) (i : Nat), s.hops[h].place = some (j, i) → j = k := by
  have own (h : HopNo) : s.hops[h].place.all (fun x => x.1 == k) = true ↔
      ∀ (j : PortNo) (i : Nat), s.hops[h].place = some (j, i) → j = k := by
    cases s.hops[h].place with
    | none => simp
    | some x =>
      obtain ⟨j, i⟩ := x
      simp
  unfold chainOf
  split
  · next more names =>
    rw [Option.ite_none_right_eq_some, List.all_eq_true]
    simp only [own]
    refine ⟨fun ⟨⟨distinct, placed⟩, same⟩ => ?_, fun ⟨same, distinct, placed⟩ => ?_⟩
    · obtain rfl := Option.some.inj same
      exact ⟨hopsOf_eq_some.mp names, distinct, placed⟩
    · obtain rfl := Option.some.inj (names.symm.trans (hopsOf_eq_some.mpr same))
      exact ⟨⟨distinct, placed⟩, rfl⟩
  · next none_ =>
    simp only [reduceCtorEq, false_iff]
    rintro ⟨names, -⟩
    rw [hopsOf_eq_some.mpr names] at none_
    cases none_

theorem chainOf_refuses {k : PortNo} {bs : List Byte} {s : State}
    (bad : (∃ x ∈ bs, 95 < x.toNat) ∨ ¬ bs.Nodup ∨
      ∃ x ∈ bs, ∃ (h : HopNo) (j : PortNo) (i : Nat), x.toNat = h.val ∧ s.hops[h].place = some (j, i) ∧ j ≠ k) :
    chainOf k bs s = none := by
  refine Option.eq_none_iff_forall_ne_some.mpr fun hs some_ => ?_
  obtain ⟨rfl, distinct, own⟩ := chainOf_eq_some.mp some_
  have number (h : HopNo) : (BitVec.ofNat 8 h.val).toNat = h.val := by
    rw [BitVec.toNat_ofNat]
    exact Nat.mod_eq_of_lt (by omega)
  rcases bad with ⟨x, mem, high⟩ | twice | ⟨x, mem, h, j, i, name, place, other⟩
  · obtain ⟨h, -, rfl⟩ := List.mem_map.mp mem
    rw [number] at high
    omega
  · refine twice (distinct.map fun a b same => Fin.ext ?_)
    rw [← number a, ← number b]
    exact congrArg BitVec.toNat same
  · obtain ⟨h', mem', rfl⟩ := List.mem_map.mp mem
    obtain rfl : h' = h := Fin.ext ((number h').symm.trans name)
    exact other (own h' mem' j i place)

section
variable {s : State} {b : BlockNo} {line : Nat} {data : List Byte} {first : Nat} {k : PortNo}
  (pointer : field s.cmd.blocks[b].copy 8 8 = 64 * first) (low : first < 2 ^ 30)
  (waits : s.cmd.exec = some (.portList b line [])) (named : byteAt (s.cmd.blocks[b].copy.drop 16) 0 = k.val)
  (radio : byteAt (s.cmd.blocks[b].copy.drop 16) 1 = 1)
  (fits : byteAt (s.cmd.blocks[b].copy.drop 16) 2 ≤ data.length)
include pointer low waits named radio fits

theorem portList_answered : listAnswered true data s =
    (chainOf k (data.take (byteAt (s.cmd.blocks[b].copy.drop 16) 2)) s).elim (complete b .badParam 0 [] (endExec s))
      (fun c => complete b .none 0 [] (applyPort k .radio (some c) (s.cmd.blocks[b].copy.drop 16) (endExec s))) := by
  unfold listAnswered
  rw [waits]
  dsimp only
  unfold portListAnswer
  dsimp only
  rw [listBytes_whole pointer low, List.nil_append, if_neg (show ¬ (!true) = true from Bool.false_ne_true),
    if_neg (by omega), indexOf_eq_some.mpr named, radio]
  dsimp only [portKindOf]
  rw [if_pos rfl]
  dsimp only
  cases chainOf k (data.take (byteAt (s.cmd.blocks[b].copy.drop 16) 2)) s with
  | none => rw [Option.elim_none]
  | some c => rw [Option.elim_some]

end

/-! ## Hops as a chain changes (R20) -/

/-- A hop that a change of chain has returned to UNKNOWN, with its new place. -/
def HopRec.moved (place : Option (PortNo × Nat)) (x : HopRec) : HopRec := { x.unknown with place := place }

theorem rehop_hops (place : Option (PortNo × Nat)) (h : HopNo) (s : State) :
    (rehop place h s).hops = updAt s.hops h (HopRec.moved place) := (noteHop_sends _ h _).hops

theorem unchain_hops (l : List HopNo) (s : State) (h : HopNo) : (overAll l (rehop none) s).hops[h] =
    if h ∈ l then s.hops[h].moved none else s.hops[h] := by
  induction l generalizing s with
  | nil => rfl
  | cons a l ih =>
    refine (ih (rehop none a s)).trans ?_
    rw [Fin.getElem_fin, rehop_hops]
    by_cases same : h = a
    · subst same
      rw [updAt_self, if_pos List.mem_cons_self]
      split <;> rfl
    · rw [updAt_other _ _ _ _ same]
      exact if_congr (by simp [same]) rfl rfl

/-- Hops placed one after the other, none of them twice. -/
theorem enchain_hops (k : PortNo) {l : List (HopNo × Nat)} (distinct : (l.map Prod.fst).Nodup) (s : State) :
    (∀ h i, (h, i) ∈ l → (overAll l (fun x => rehop (some (k, x.2 + 1)) x.1) s).hops[h] = s.hops[h].moved (some (k, i + 1))) ∧
    ∀ h, h ∉ l.map Prod.fst → (overAll l (fun x => rehop (some (k, x.2 + 1)) x.1) s).hops[h] = s.hops[h] := by
  induction l generalizing s with
  | nil => exact ⟨nofun, fun _ _ => rfl⟩
  | cons a l ih =>
    obtain ⟨fresh, distinct⟩ := List.nodup_cons.mp distinct
    obtain ⟨into, out⟩ := ih distinct (rehop (some (k, a.2 + 1)) a.1 s)
    refine ⟨fun h i mem => ?_, fun h apart => ?_⟩
    · rcases List.mem_cons.mp mem with rfl | mem
      · refine (out h fresh).trans ?_
        rw [Fin.getElem_fin, rehop_hops, updAt_self]
        rfl
      · have other : h ≠ a.1 := fun e => fresh (e ▸ List.mem_map_of_mem (f := Prod.fst) mem)
        refine (into h i mem).trans ?_
        rw [Fin.getElem_fin, rehop_hops, updAt_other _ _ _ _ other]
        rfl
    · obtain ⟨other, apart⟩ := not_or.mp (List.mem_cons.not.mp apart)
      refine (out h apart).trans ?_
      rw [Fin.getElem_fin, rehop_hops, updAt_other _ _ _ _ other]
      rfl

/-- What applying a chain makes of a port and of the hops. -/
structure Chained (k : PortNo) (chain : List HopNo) (s t : State) : Prop where
  listed : t.ports[k].chain = chain
  kind : t.ports[k].kind = .radio
  others : ∀ j : PortNo, j ≠ k → t.ports[j] = s.ports[j]
  placed : ∀ (i : Nat) (h : HopNo), chain[i]? = some h → t.hops[h] = s.hops[h].moved (some (k, i + 1))
  left : ∀ h : HopNo, h ∈ s.ports[k].chain → h ∉ chain → t.hops[h] = s.hops[h].moved none
  stands : ∀ h : HopNo, h ∉ s.ports[k].chain → h ∉ chain → t.hops[h] = s.hops[h]

theorem applyPort_chain {k : PortNo} {chain : List HopNo} (distinct : chain.Nodup) (p : List Byte) (s : State) :
    ∃ v t, applyPort k .radio (some chain) p s = t ∧ Chained k chain s t ∧ Sends v t ∧ v.cmd = s.cmd ∧ v.mi = s.mi ∧
      v.outsideSending = { s with ports := t.ports, hops := t.hops }.outsideSending := by
  obtain ⟨v, hv⟩ : ∃ v, v = s.portNumbered k .radio p := ⟨_, rfl⟩
  obtain ⟨y, hy⟩ : ∃ y, y = overAll v.ports[k].chain (rehop none) v := ⟨_, rfl⟩
  obtain ⟨w, hw⟩ : ∃ w, w = overAll chain.zipIdx (fun x => rehop (some (k, x.2 + 1)) x.1) y := ⟨_, rfl⟩
  obtain ⟨x, hx⟩ : ∃ x, x = w.updPort k (fun x => { x with chain := chain }) := ⟨_, rfl⟩
  have moves : Rehops v w := by
    rw [hw, hy]
    exact (Rehops.overAll _ _ (rehop_rehops none) v).trans
      (.overAll _ _ (fun (a : HopNo × Nat) => rehop_rehops (some (k, a.2 + 1)) a.1) _)
  have does : applyPort k .radio (some chain) p s = recomputePort k x := by
    rw [hx, hw, hy, hv]
    have numbers : setPortNumbers k p (s.updPort k (fun x => { x with kind := .radio })) = s.portNumbered k .radio p := by
      unfold setPortNumbers State.portNumbered State.updPort
      rw [updAt_updAt]
      rfl
    unfold applyPort
    dsimp only
    rw [numbers, if_neg nofun]
    rfl
  have sends : Sends { v with hops := x.hops, ports := x.ports } (recomputePort k x) := by
    refine Sends.trans ?_ (recomputePort_sends k x)
    have := Sends.withPorts moves x.ports
    rw [show ({ w with ports := x.ports } : State) = x by rw [hx]; rfl] at this
    rw [show x.hops = w.hops by rw [hx]; rfl]
    exact this
  have ports : (recomputePort k x).ports = updAt v.ports k (fun x => { x with chain := chain }) := by
    rw [sends.ports, hx, State.updPort_ports, moves.ports]
  have oldPorts : v.ports = updAt s.ports k (PortRec.numbered .radio p) := by rw [hv]; rfl
  have oldChain : v.ports[k].chain = s.ports[k].chain := by
    rw [oldPorts, Fin.getElem_fin, updAt_self]
    rfl
  have hops : (recomputePort k x).hops = w.hops := by rw [sends.hops, hx]; rfl
  have firsts : chain.zipIdx.map Prod.fst = chain := List.zipIdx_map_fst ..
  obtain ⟨into, out⟩ := enchain_hops k (l := chain.zipIdx) (by rw [firsts]; exact distinct) y
  rw [← hw] at into out
  have before (h : HopNo) : y.hops[h] = if h ∈ s.ports[k].chain then s.hops[h].moved none else s.hops[h] := by
    rw [hy, unchain_hops, oldChain, hv]
    rfl
  refine ⟨_, _, does, ⟨?_, ?_, fun j other => ?_, fun i h at_ => ?_, fun h old fresh => ?_, fun h old fresh => ?_⟩, sends,
    by rw [hv]; rfl, by rw [hv]; rfl, ?_⟩
  · rw [ports, Fin.getElem_fin, updAt_self]
  · rw [ports, Fin.getElem_fin, updAt_self, oldPorts, updAt_self]
    rfl
  · rw [ports, Fin.getElem_fin, updAt_other _ _ _ _ other, oldPorts, updAt_other _ _ _ _ other]
    rfl
  · rw [hops, into h i (List.mem_zipIdx_iff_getElem?.mpr at_), before]
    split <;> rfl
  · rw [hops, out h (by rw [firsts]; exact fresh), before, if_pos old]
  · rw [hops, out h (by rw [firsts]; exact fresh), before, if_neg old]
  · rw [sends.ports, sends.hops, hv]
    rfl

/-! ## Taking a command that reads a list (R20, R23) -/

theorem field_drop (bs : List Byte) (a off n : Nat) : field (bs.drop a) off n = field bs (a + off) n := by
  unfold field
  rw [List.drop_drop]

/-- What CMD's wait for a line of a list leaves at the end of the event that began it. -/
theorem readList_taken {s : State} {b : BlockNo} {rest : List BlockNo} {line : Nat} (low : line < 2 ^ 30) (e : Exec) :
    ∃ t, t = flush (readList line (waitOn e (s.taken b rest))) ∧ t.cmd.exec = some e ∧ t.owes line none .listRead ∧
      t.cmd.blocks[b].state = .executing ∧ t.cmd.pending = rest ∧ t.outside = s.outside := by
  refine ⟨_, rfl, ?_, flush_keeps_owes (readList_owes low ..), ?_, ?_, ?_⟩
  · rw [flush_exec, readList_cmd]
  · rw [flush_blocks, readList_cmd, Fin.getElem_fin]
    exact congrArg Block.state (updAt_self ..)
  · rw [flush_pending, readList_cmd]
    rfl
  · rw [flush_outside, readList_outside]
    rfl

theorem flush_complete_hasCause {c : Cause} {u : State} (set : u.hasCause c) (b : BlockNo) (e : ErrorCode) (n : Nat) :
    (flush (complete b e n [] u)).hasCause c := raisedNothing_hasCause (flush_complete_raisedNothing b e n [] u) set

/-- Where the records of a line have been applied, and a command ends or waits on the next line: what a state whose hops
alone have changed, and CMD's list of pending blocks, carry over. -/
theorem Applies.carries {recs : List (List Byte)} {a u v : State} (applies : Applies recs a u) (outside : v.outside = u.outside)
    (causes : ∀ c, u.hasCause c → v.hasCause c) :
    (∀ h : HopNo, v.hops[h] = hopAfter recs h a.hops[h]) ∧
    (∀ rec ∈ recs, ∀ h : HopNo, byteAt rec 0 = h.val → a.hops[h].state ≠ .unknown → v.hasCause .hopChange) ∧
    v.outsideSending = { a with hops := v.hops }.outsideSending := by
  have hops : v.hops = u.hops := outside_hops_eq outside
  refine ⟨fun h => by rw [hops, applies.hops], fun rec mem h named known => causes _ (applies.raises rec mem h named known), ?_⟩
  rw [outsideSending_of_outside outside, applies.moved.outside, hops]

/-- A command that ends once records have been applied. -/
theorem Applies.completes {recs : List (List Byte)} {s u : State} {r : OwnReq} {rest : List Outstanding}
    (applies : Applies recs (s.answered r rest) u) (b : BlockNo) (e : ErrorCode) (n : Nat) :
    s.Completes (flush (complete b e n [] (endExec u))) b e n [] :=
  complete_completes (s := s) (u := endExec u) applies.moved.blocks
    (congrArg (fun x : State => x.mi.windows[14].base) (a₁ := u.outsideSending)
      (a₂ := ({ s.answered r rest with hops := u.hops } : State).outsideSending) applies.moved.outside)
    (fun line w tag owed => applies.moved.owes line w tag owed) e n

end Sys2Proof.Machine

open Sys2Proof Sys2Proof.Machine

/-- Settles O44: taking SET_PORT and SET_HOPS begins the list's reading; each answer applies records in list order, or
applies the chain or refuses it, reads on, or ends the command. -/
theorem listIsRead : Obligations.ListIsRead := by
  refine ⟨fun s b rest p line _ pointer positive low => ⟨fun k takes named code one few off => ?_, fun takes some_ => ?_⟩,
    fun s b r rest line first data oldest tag read length pointer low => ?_⟩
  · have unused : ¬ portInUse (s.taken b rest) k = true := by
      rw [portInUse_iff]
      rintro ⟨q, port, on⟩
      exact on (off q port)
    have whole := listPointer_eq pointer low
    have comes : setPort b s.cmd.blocks[b].copy (s.taken b rest) =
        readList line (waitOn (.portList b line []) (s.taken b rest)) := by
      unfold setPort
      dsimp only
      rw [takes.params, indexOf_eq_some.mpr named, code, show portKindOf 1 = some .radio from rfl]
      dsimp only
      rw [if_neg unused, whole, if_neg (by omega), if_neg (by omega), if_neg (by simp), if_neg (by omega),
        Nat.mul_div_cancel_left _ (by decide)]
    obtain ⟨t, ht, facts⟩ := readList_taken (s := s) (b := b) (rest := rest) low (.portList b line [])
    exact ⟨t, (command_takes takes (· == 2) rfl setPort).trans (by rw [comes, ht]), facts⟩
  · have count : field s.cmd.blocks[b].copy 16 2 = field p 0 2 := by rw [← takes.params, field_drop]
    have comes : setHops b s.cmd.blocks[b].copy (s.taken b rest) =
        readList line (waitOn (.hopList b line [] (min 96 (field p 0 2))) (s.taken b rest)) := by
      unfold setHops
      dsimp only
      rw [count, if_neg (by omega), listPointer_eq pointer low, Nat.mul_div_cancel_left _ (by decide)]
    obtain ⟨t, ht, facts⟩ := readList_taken (s := s) (b := b) (rest := rest) low (.hopList b line [] (min 96 (field p 0 2)))
    exact ⟨t, (command_takes takes (· == 3) rfl setHops).trans (by rw [comes, ht]), facts⟩
  · obtain ⟨a, ha⟩ : ∃ a, a = s.answered r rest := ⟨_, rfl⟩
    have answers (ok : Bool) : exec (.ownResponse ok data) s = .next (flush (listAnswered ok data a)) := by
      rw [exec_ownResponse oldest (formed_line length), tag, ha]
      rfl
    refine ⟨fun held left waits => ⟨fun recs tail split few takes ends => ?_, ?_⟩, fun waits => ?_,
      fun k n waits named code count pos few bad => ?_, fun k chain waits named code count pos few names distinct own => ?_⟩
    · obtain ⟨u, applies, applied⟩ := applyHopRecords_takes recs (tail := tail) few
        (ha ▸ takes : ∀ rec ∈ recs, a.takesRecord rec)
      have runs {e : ErrorCode} (stops : applyHopRecords (left - recs.length) tail u = (u, tail, left - recs.length, e)) :=
        hopList_answered (s := a) (b := b) (line := line) (data := data) (ha ▸ pointer) low (ha ▸ waits)
          ((split ▸ applied).trans stops)
      subst ha
      have pending : u.cmd.pending = s.cmd.pending := applies.moved.pending
      by_cases all : recs.length = left
      · have listed := runs (e := .none) (by rw [all, Nat.sub_self]; rfl)
        rw [if_neg (not_not_intro rfl), if_pos (by omega)] at listed
        obtain ⟨hops, raises, outside⟩ := applies.carries (flush_complete_outside b .none 0 [] (endExec u))
          fun _ set => flush_complete_hasCause (u := endExec u) set b .none 0
        exact ⟨_, (answers true).trans (by rw [listed]), hops, raises,
          fun _ => ⟨applies.completes b .none 0, flush_complete_exec ..⟩, fun less => absurd less (by omega),
          fun _ less => absurd less (by omega), (flush_complete_pending ..).trans pending, outside⟩
      · have less : recs.length < left := by omega
        by_cases short : tail.length < 8
        · have listed := runs (e := .none) (applyHopRecords_short short u)
          rw [if_neg (not_not_intro rfl), if_neg (by omega)] at listed
          obtain ⟨wait, hwait⟩ : ∃ e, e = Exec.hopList b (line + 1) tail (left - recs.length) := ⟨_, rfl⟩
          rw [← hwait] at listed ⊢
          have cmd := readList_cmd (line + 1) wait u
          obtain ⟨hops, raises, outside⟩ := applies.carries ((flush_outside _).trans (readList_outside (line + 1) wait u))
            fun c set => flush_hasCause (by unfold State.hasCause at set ⊢; rwa [cmd])
          refine ⟨_, (answers true).trans (by rw [listed]), hops, raises, fun full => absurd full all,
            fun _ _ last => ⟨?_, flush_keeps_owes (readList_owes last wait u), ?_⟩, fun _ _ long => absurd long (by omega), ?_,
            outside⟩
          · rw [flush_exec, cmd]
          · rw [flush_blocks, cmd]
            exact applies.moved.blocks
          · rw [flush_pending, cmd]
            exact pending
        · obtain ⟨e, refuses⟩ : ∃ e, s.RefusesRecord tail e := (ends.resolve_left all).resolve_left short
          have stops {e : ErrorCode} (refuses : s.RefusesRecord tail e) :
              applyHopRecords (left - recs.length) tail u = (u, tail, left - recs.length, e) :=
            applyHopRecords_refuses (by omega) (by omega) (applies.refuses (refusesRecord_answered refuses r rest))
          have listed := runs (stops refuses)
          rw [if_pos (refusesRecord_error refuses)] at listed
          obtain ⟨hops, raises, outside⟩ := applies.carries (flush_complete_outside b e (left - recs.length) [] (endExec u))
            fun _ set => flush_complete_hasCause (u := endExec u) set b e (left - recs.length)
          refine ⟨_, (answers true).trans (by rw [listed]), hops, raises, fun full => absurd full all,
            fun _ less => absurd less short, fun e' _ _ refuses' => ?_, (flush_complete_pending ..).trans pending, outside⟩
          obtain rfl : e = e' := congrArg (·.2.2.2) ((stops refuses).symm.trans (stops refuses'))
          exact ⟨applies.completes b e (left - recs.length), flush_complete_exec ..⟩
    · refine ⟨_, (answers false).trans (by rw [(listAnswered_error data).1 b line held left (by rw [ha]; exact waits)]), ?_⟩
      subst ha
      exact complete_fails b .memoryError left
    · refine ⟨_, (answers false).trans (by rw [(listAnswered_error data).2 b line [] (by rw [ha]; exact waits)]), ?_⟩
      subst ha
      exact complete_fails b .memoryError 0
    · have none_ : chainOf k (data.take n) a = none := chainOf_refuses (by rw [ha]; exact bad)
      have listed := portList_answered (s := a) (data := data) (k := k) (line := line) (b := b) (by rw [ha]; exact pointer) low
        (by rw [ha]; exact waits) (by rw [ha]; exact named) (by rw [ha]; exact code) (by subst ha; exact (count.trans_le (by omega)))
      have at_ : byteAt (a.cmd.blocks[b].copy.drop 16) 2 = n := by rw [ha]; exact count
      rw [at_, none_, Option.elim_none] at listed
      refine ⟨_, (answers true).trans (by rw [listed]), ?_⟩
      subst ha
      exact complete_fails b .badParam 0
    · have at_ : byteAt (a.cmd.blocks[b].copy.drop 16) 2 = chain.length := by rw [ha]; exact count
      have listed := portList_answered (s := a) (data := data) (k := k) (line := line) (b := b) (by rw [ha]; exact pointer) low
        (by rw [ha]; exact waits) (by rw [ha]; exact named) (by rw [ha]; exact code) (by rw [at_]; omega)
      have passes : chainOf k (data.take chain.length) a = some chain :=
        chainOf_eq_some.mpr ⟨names, distinct, by rw [ha]; exact own⟩
      rw [at_, passes, Option.elim_some] at listed
      obtain ⟨v, u, does, chained, sends, cmd, mi, outside⟩ :=
        applyPort_chain (k := k) distinct (a.cmd.blocks[b].copy.drop 16) (endExec a)
      rw [does] at listed
      have ended := flush_complete_outside b .none 0 [] u
      have ports := outside_ports_eq ended
      have hops := outside_hops_eq ended
      subst ha
      refine ⟨_, (answers true).trans (by rw [listed]), ?_, ?_, ?_, ?_, fun i h at_ => ?_, fun h old fresh => ?_,
        fun h old fresh => ?_, fun j other => ?_, ?_⟩
      · refine complete_completes (s := s) (u := u) (sends.blocks.trans (by rw [cmd]; rfl)) ?_
          (fun l w tag owed => sends.owes l w tag ?_) .none 0
        · have page : u.mi.windows[14].base = v.mi.windows[14].base :=
            congrArg (fun x : State => x.mi.windows[14].base) (a₁ := u.outsideSending) (a₂ := v.outsideSending) sends.outside
          exact page.trans (by rw [mi]; rfl)
        · unfold State.owes at owed ⊢
          rw [mi]
          exact owed
      · rw [flush_complete_exec]
        exact sends.exec (by rw [cmd]; rfl)
      · rw [ports, chained.listed]
      · rw [ports, chained.kind]
      · rw [hops]
        exact chained.placed i h at_
      · rw [hops]
        exact chained.left h old fresh
      · rw [hops]
        exact chained.stands h old fresh
      · rw [ports]
        exact chained.others j other
      · rw [outsideSending_of_outside ended, sends.outside, outside, ports, hops]
        rfl

end

section
/-! SUPPORT. Loopback tests and saves of the configuration; the statements about LOOPBACK and SAVE_CONFIG. -/

namespace Sys2Proof.Machine

-- One proof at a time: each would otherwise hold a thread of its own.
set_option Elab.async false

/-! ## What a start does at CMD (R139) -/

theorem reportStart_cmd (m : Msg) (stamp : Stamp) (s : State) : (reportStart m stamp s).cmd = s.cmd := by
  unfold reportStart
  split
  · split
    · rfl
    · exact formGroup_cmd_same (by simp [OwnTag.isMirror])
  · rfl

/-- CMD as it was, but that a loopback test may have taken the start of its first frame. -/
def Started (stamp : Stamp) (c d : CommandUnit) : Prop :=
  d = c ∨ ∃ b l, c.exec = some (.loopback b l) ∧ d = { c with exec := some (.loopback b { l with egress0 := some stamp }) }

theorem startItem_started (k : PortNo) (item : LineItem) (s : State) : Started s.tu.station s.cmd (startItem k item s).cmd := by
  cases item with
  | probeBack dst id t2 => exact .inl rfl
  | probe p id => exact .inl rfl
  | msg m => exact .inl (reportStart_cmd _ _ (begun k (.msg m) s))
  | test run i =>
    show Started _ _ (testStarted k run i (begun k (.test run i) s)).cmd
    unfold testStarted
    split
    · next b l running =>
      split
      · exact .inr ⟨b, l, running, rfl⟩
      · exact .inl rfl
    · exact .inl rfl
  | frag f id i abandoned =>
    exact .inl (overAll_keeps State.cmd _ _ (fun m u => reportStart_cmd m _ u) (begun k (.frag f id i abandoned) s))

theorem lineChoice_started (k : PortNo) (s : State) : Started s.tu.station s.cmd (lineChoice k s).cmd := by
  rcases lineChoice_cases k s with h | ⟨f, h | ⟨item, h, -⟩, -⟩ <;> rw [h]
  · exact .inl rfl
  · exact .inl rfl
  · exact startItem_started k item (s.updTx k f)

/-! ## LOOPBACK (R139, R140) -/

/-- A test has been set up on a port: its context is CMD's, and its first frame waits in the urgent queue. -/
def State.testing (k : PortNo) (b : BlockNo) (s : State) : State :=
  { s with cmd := { s.cmd with runNo := s.cmd.runNo + 1, exec := some (.loopback b (freshLoop k s.now)) } }.updTx k
    (fun t => { t with urgent := t.urgent ++ [UFrame.test (s.cmd.runNo + 1) 0] })

theorem loopback_starts {k : PortNo} {copy : List Byte} {s : State} (b : BlockNo) (named : byteAt copy 16 = k.val)
    (link : s.link[k] = true) (room : s.tx[k].urgent.length < 32)
    (off : ∀ q : PathNo, s.paths[q].port = k → s.paths[q].state = .off) :
    loopback b copy s = lineChoice k (s.testing k b) := by
  have unused : ¬ portInUse s k = true := by
    rw [portInUse_iff]
    rintro ⟨q, port, on⟩
    exact on (off q port)
  unfold loopback
  rw [indexOf_eq_some.mpr named]
  dsimp only
  rw [if_neg unused, if_pos link]
  exact congrArg (lineChoice k) (if_pos room)

theorem byteAt_drop (bs : List Byte) (a off : Nat) : byteAt (bs.drop a) off = byteAt bs (a + off) := by
  unfold byteAt
  rw [List.getD_eq_getElem?_getD, List.getD_eq_getElem?_getD, List.getElem?_drop]

theorem loopTimeBytes_length (s : State) (l : Loopback) : (loopTimeBytes s l).length = 8 := by
  unfold loopTimeBytes presentOr freeBytes
  split
  · rw [leBytes_length]
  · split <;> rw [leBytes_length]

theorem loopResults_eq {l : Loopback} (few : l.returned < 16) (s : State) : loopResults s false l =
    [(0, [if 1 ≤ l.mismatched then 5 else if 1 ≤ l.crcErrors then 4 else 3]), (1, [s.cmd.runNo]), (2, leBytes 1 l.sent),
     (3, leBytes 1 l.returned), (4, leBytes 1 l.mismatched), (6, leBytes 2 l.crcErrors),
     (8, [if 1 ≤ l.returned then 1 else 0]), (16, loopTimeBytes s l)] := by
  have code : (l.result false).code = if 1 ≤ l.mismatched then 5 else if 1 ≤ l.crcErrors then 4 else 3 := by
    unfold Loopback.result
    rw [if_neg Bool.false_ne_true, if_neg (by omega)]
    split
    · rfl
    · split <;> rfl
  have flag : flagByte (decide (1 ≤ l.returned)) = if 1 ≤ l.returned then 1 else 0 := by
    by_cases any : 1 ≤ l.returned
    · rw [if_pos any, decide_eq_true any]
      rfl
    · rw [if_neg any, decide_eq_false any]
      rfl
  unfold loopResults
  rw [code, flag]

/-- The start of a test's first frame is noted in its context. -/
theorem testStarted_first {k : PortNo} {run : Byte} {b : BlockNo} {l : Loopback} {s : State}
    (running : s.cmd.exec = some (.loopback b l)) (port : l.port = k) (now : run = s.cmd.runNo) :
    (testStarted k run 0 s).cmd.exec = some (.loopback b { l with egress0 := some s.tu.station }) := by
  unfold testStarted
  rw [running]
  dsimp only
  rw [if_pos ⟨port, now, rfl⟩]

/-- The bytes a test's completion writes from byte 16 on. -/
def loopBytes (b : BlockNo) (l : Loopback) (s : State) : List Byte :=
  (s.cmd.blocks[b].copy.drop 16).take 8 ++ layout 40 (loopResults s false l)

theorem endLoop_eq (b : BlockNo) (l : Loopback) (s : State) :
    endLoop b l false s = complete b .none 0 [(16, loopBytes b l s)] (spendFree (endExec s)) := rfl

theorem exec_loopbackTimerExpiry {s : State} {b : BlockNo} {l : Loopback} (waits : s.cmd.exec = some (.loopback b l))
    (due : l.due ≤ s.now) : exec .loopbackTimerExpiry s = .next (flush (endLoop b l false s.quiet)) := by
  rw [show exec .loopbackTimerExpiry s = execLoopbackTimerExpiry s from rfl, execLoopbackTimerExpiry, run_eq, State.quiet_cmd, waits]
  exact congrArg (fun u => Host.Outcome.next (flush u)) (if_pos due)

/-! ## The end of a save (R173) -/

theorem run_ofSave {s : State} {v : Save} (saving : s.cmd.save = some v) (f : Save → State → State) :
    run (ofSave f) s = .next (flush (f v s.quiet)) := by
  rw [run_eq, ofSave, State.quiet_cmd, saving]

theorem saved (s : State) (b : BlockNo) (e : ErrorCode) :
    s.Completes (flush (endSave b e s.quiet)) b e 0 [] ∧ (flush (endSave b e s.quiet)).cmd.save = none ∧
      (flush (endSave b e s.quiet)).outside = s.outside := by
  obtain ⟨u, hu⟩ : ∃ u, u = ({ s.quiet with cmd := { s.quiet.cmd with save := none } } : State) := ⟨_, rfl⟩
  have same : endSave b e s.quiet = complete b e 0 [] u := by rw [hu]; rfl
  obtain ⟨-, -, -, -, -, save, -⟩ := complete_cmd b e 0 [] u
  rw [same]
  refine ⟨complete_completes (s := s) (u := u) (by rw [hu]; rfl) (by rw [hu]; rfl) (fun _ _ _ owed => by rw [hu]; exact owed) e 0,
    by rw [flush_save, save, hu], ?_⟩
  rw [flush_complete_outside, hu]
  rfl

end Sys2Proof.Machine

open Sys2Proof Sys2Proof.Machine

/-- Settles O55: the test's first frame joins the urgent queue and the choice of what to send follows; the timer's end is
the command's, with the counts as they stand. -/
theorem loopbackRuns : Obligations.LoopbackRuns := by
  refine fun s b => ⟨fun rest p k takes named link room settled off => ?_, fun l waits due few => ?_⟩
  · have place : byteAt s.cmd.blocks[b].copy 16 = k.val := by
      rw [← named, ← takes.params, byteAt_drop]
    obtain ⟨u, hu⟩ : ∃ u, u = (s.taken b rest).testing k b := ⟨_, rfl⟩
    have runs : exec .loopback s = .next (flush (lineChoice k u)) := by
      refine (command_takes takes (· == 20) rfl loopback).trans ?_
      rw [loopback_starts (s := s.taken b rest) b place link room off, hu]
    obtain ⟨l, cmd, port⟩ : ∃ l, (lineChoice k u).cmd = { u.cmd with exec := some (.loopback b l) } ∧ l.port = k := by
      rcases lineChoice_started k u with same | ⟨b', l, running, same⟩
      · exact ⟨freshLoop k s.now, same.trans (by rw [hu]; rfl), rfl⟩
      · rw [hu] at running
        cases running
        exact ⟨_, same, rfl⟩
    have txK : u.tx[k] = { s.tx[k] with urgent := s.tx[k].urgent ++ [.test (s.cmd.runNo + 1) 0] } := by
      rw [hu]
      exact updTx_self ..
    refine ⟨_, l, runs, ?_, ?_, ?_, ?_, ?_, fun busy => ?_, fun free back probe urgent => ?_⟩
    · rw [flush_runNo, cmd, hu]
      rfl
    · unfold State.loopRequest
      rw [flush_exec, cmd]
      exact beq_iff_eq.mpr port
    · rw [flush_exec, cmd]
    · rw [flush_pending, cmd, hu]
      rfl
    · rw [flush_causes, cmd, hu]
      rfl
    · have stays : lineChoice k u = u := lineChoice_busy (by
        rw [← Bool.not_eq_true, lineFree_iff, txK]
        exact fun free => busy free.2)
      rw [stays] at cmd ⊢
      refine ⟨?_, by rw [flush_tx, txK], ?_⟩
      · have same := congrArg CommandUnit.exec cmd
        rw [hu] at same
        cases same
        rfl
      · rw [flush_outside, flush_tx, hu]
        rfl
    · have begins : lineChoice k u = testStarted k (s.cmd.runNo + 1) 0 (begun k (.test (s.cmd.runNo + 1) 0)
          (u.updTx k (fun t => { t with urgent := [] }))) := by
        refine lineChoice_urgent (u := .test (s.cmd.runNo + 1) 0) ?_ ?_ ?_ ?_
        · rw [lineFree_iff, txK]
          exact ⟨by rw [hu]; exact link, free⟩
        · rw [txK]
          exact back
        · rw [txK]
          exact probe
        · rw [txK, urgent]
          rfl
      have outside := (congrArg State.outside begins).trans (testStarted_outside ..)
      refine ⟨?_, ?_, ?_⟩
      · have takes := testStarted_first (k := k) (run := s.cmd.runNo + 1) (b := b) (l := freshLoop k s.now)
          (s := begun k (.test (s.cmd.runNo + 1) 0) (u.updTx k (fun t => { t with urgent := [] })))
          (by rw [hu]; rfl) rfl (by rw [hu]; rfl)
        rw [← begins, cmd] at takes
        cases takes
        rw [hu]
        rfl
      · rw [flush_tx, outside_tx_eq outside]
        refine (updTx_self ..).trans ?_
        have emptied : (u.updTx k (fun t => { t with urgent := [] })).tx[k] = s.tx[k] :=
          (updTx_self ..).trans (by rw [txK, ← urgent])
        refine (congrArg _ emptied).trans ?_
        rw [hu]
        rfl
      · rw [flush_outside, flush_tx, outside, outside_tx_eq outside, hu]
        rfl
  · have runs : exec .loopbackTimerExpiry s =
        .next (flush (complete b .none 0 [(16, loopBytes b l s.quiet)] (spendFree (endExec s.quiet)))) :=
      exec_loopbackTimerExpiry waits due
    refine ⟨_, runs, flush_complete_exec (results := _) .., flush_complete_pending (results := _) .., fun k => ?_,
      ⟨loopTimeBytes s.quiet l, loopTimeBytes_length .., fun none_ => ?_, fun e a some_ left back => ?_, ?_⟩, ?_⟩
    · unfold State.loopRequest
      rw [flush_complete_exec (results := _)]
      rfl
    · exact if_pos none_
    · unfold loopTimeBytes Loopback.loopTime
      rw [if_neg (by omega), left, back]
      rfl
    · have bytes : loopBytes b l s.quiet = _ := congrArg (fun x => (s.cmd.blocks[b].copy.drop 16).take 8 ++ layout 40 x)
        (loopResults_eq few s.quiet)
      rw [bytes]
      exact complete_completes (s := s) (u := spendFree (endExec s.quiet)) rfl rfl (fun _ _ _ => id) .none 0 _
    · obtain ⟨v, hv⟩ : ∃ v, v = flush (complete b .none 0 [(16, loopBytes b l s.quiet)] (spendFree (endExec s.quiet))) :=
        ⟨_, rfl⟩
      have ended : v.outside = (spendFree (endExec s.quiet)).outside := hv ▸ flush_complete_outside ..
      rw [← hv, ended, show v.freeCount = s.freeCount + 16 from congrArg (fun x : State => x.freeCount) ended]
      rfl

/-- Settles O56: the save's stages follow the flash's reports, and its end is its command's completion. -/
theorem configIsSaved : Obligations.ConfigIsSaved := by
  refine fun s b => ⟨fun rest p takes idle settled => ?_, fun v saving block => ⟨fun stage settled => ?_, fun stage settled => ?_,
    fun stage => ?_, ?_, fun due => ?_⟩⟩
  · obtain ⟨t, ht⟩ : ∃ t, t = saveConfig b s.cmd.blocks[b].copy (s.taken b rest) := ⟨_, rfl⟩
    have saves : t = eraseArea ({ s.taken b rest with cmd := { (s.taken b rest).cmd with
        save := some ⟨b, formImage s, .erase, s.now + 60000⟩ } }.updBlock b (fun x => { x with state := .saving })) := by
      rw [ht, saveConfig, if_neg (show ¬ (s.taken b rest).cmd.save.isSome = true by
        rw [show (s.taken b rest).cmd.save = none from idle]; exact nofun)]
      rfl
    have calm : t.Settled := by
      rw [saves]
      exact ⟨settled.changes, settled.summary, settled.low, settled.high⟩
    refine ⟨t, (command_takes takes (· == 21) rfl saveConfig).trans ?_, ?_, ?_, ?_, ?_, ?_, ?_, ?_⟩
    · rw [← ht, flush_settled calm]
    all_goals rw [saves]
    · exact congrArg Block.state (updAt_self ..)
    · exact takes.free
    all_goals rfl
  · refine (run_ofSave saving flashStage).trans ?_
    unfold flashStage
    rw [stage]
    exact congrArg Host.Outcome.next (flush_settled ⟨settled.changes, settled.summary, settled.low, settled.high⟩)
  · refine (run_ofSave saving flashStage).trans ?_
    unfold flashStage
    rw [stage]
    exact congrArg Host.Outcome.next (flush_settled ⟨settled.changes, settled.summary, settled.low, settled.high⟩)
  · refine ⟨_, (run_ofSave saving flashStage).trans (by unfold flashStage; rw [stage, block]), saved s b .none⟩
  · refine ⟨_, (run_ofSave saving _).trans (by rw [block]), saved s b .storeFail⟩
  · refine ⟨_, (run_ofSave saving _).trans ?_, saved s b .storeFail⟩
    rw [block]
    exact congrArg (fun u => Host.Outcome.next (flush u)) (if_pos due)

end

section
/-! SUPPORT. The first steps of the start-up order with no image to apply, and the station reset. -/

namespace Sys2Proof.Machine

-- One proof at a time: each would otherwise hold a thread of its own.
set_option Elab.async false

/-! ## An image that is not accepted (R169) -/

theorem readArea_front (bytes : List Byte) (long : 16 ≤ bytes.length) : ∃ more, readArea bytes = bytes ++ more := by
  unfold readArea
  rw [show 16 - bytes.length = 0 by omega, List.replicate_zero, List.append_nil]
  exact ⟨_, rfl⟩

/-- An image that the flash holds whole is read as it is. -/
theorem readArea_whole {bytes : List Byte} (long : 16 ≤ bytes.length) (held : min 65536 (field bytes 4 4) ≤ bytes.length) :
    readArea bytes = bytes := by
  have header : bytes ++ List.replicate (16 - bytes.length) (0xFF : Byte) = bytes := by
    rw [show 16 - bytes.length = 0 by omega, List.replicate_zero, List.append_nil]
  unfold readArea
  rw [header]
  dsimp only
  rw [show min imageArea (field bytes 4 4) - bytes.length = 0 by unfold imageArea; omega, List.replicate_zero, List.append_nil]

theorem take_drop_front {α : Type} (bytes more : List α) {off n : Nat} (within : off + n ≤ bytes.length) :
    ((bytes ++ more).drop off).take n = (bytes.drop off).take n := by
  rw [List.drop_append_of_le_length (by omega), List.take_append_of_le_length (by rw [List.length_drop]; omega)]

theorem field_front (bytes more : List Byte) {off n : Nat} (within : off + n ≤ bytes.length) :
    field (bytes ++ more) off n = field bytes off n := by
  unfold field
  rw [take_drop_front bytes more within]

theorem byteAt_front (bytes more : List Byte) {off : Nat} (within : off < bytes.length) :
    byteAt (bytes ++ more) off = byteAt bytes off := by
  unfold byteAt
  rw [List.getD_append _ _ _ _ within]

theorem judgeImage_fails {flash : Option (List Byte)} {result : ImageResult} (fails : FlashFails flash result) :
    judgeImage flash = result ∧ result ≠ .accepted := by
  cases fails with
  | silent => exact ⟨rfl, nofun⟩
  | signature image long bad =>
    obtain ⟨more, front⟩ := readArea_front image long
    refine ⟨?_, nofun⟩
    rw [judgeImage, front, judgeArea, List.take_append_of_le_length (by omega)]
    exact if_pos bad
  | length image long good bad =>
    obtain ⟨more, front⟩ := readArea_front image long
    refine ⟨?_, nofun⟩
    rw [judgeImage, front, judgeArea, List.take_append_of_le_length (by omega), field_front _ _ (by omega),
      byteAt_front _ _ (by omega)]
    exact (if_neg (not_not_intro good)).trans (if_pos bad)
  | crc image good fits held bad =>
    have whole : readArea image = image := readArea_whole (by omega) (by omega)
    refine ⟨?_, nofun⟩
    rw [judgeImage, whole, judgeArea]
    exact (if_neg (not_not_intro good)).trans ((if_neg (by unfold imageArea; omega)).trans (if_pos bad))

/-- The start-up status with an image that is not accepted. -/
def StartStatus.failed (result : ImageResult) (blocks : Nat) (x : StartStatus) : StartStatus :=
  { x with
    result := result, blocks := blocks, foreign := false, badType := none
    states := Vector.replicate 8 .absent, refused := Vector.replicate 8 0 }

theorem applyImage_fails {flash : Option (List Byte)} {result : ImageResult} (fails : FlashFails flash result) (s : State) :
    ∃ blocks, applyImage flash s = setHoldoverLimit 30
      { spendFree s with startUp := { s.startUp with status := s.startUp.status.failed result blocks } } := by
  obtain ⟨judged, bad⟩ := judgeImage_fails fails
  have none_ : (result == ImageResult.accepted) = false := by simpa using bad
  have states : Vector.ofFn (fun i : Fin 8 => (blockTypes[i.val]?.map (typeStateOf [] (field (readArea (flash.getD [])) 4 4))).getD
      .absent) = Vector.replicate 8 TypeState.absent := by
    refine Vector.ext fun i within => ?_
    rw [Vector.getElem_ofFn, Vector.getElem_replicate]
    interval_cases i <;> rfl
  unfold applyImage
  dsimp only
  rw [judged, none_]
  refine ⟨if result = .noFlash ∨ result = .badSignature then unknownCount s else byteAt (readArea (flash.getD [])) 8, ?_⟩
  simp only [if_neg Bool.false_ne_true, states]
  rfl

/-! ## Step 3 (R172) -/

theorem strapPage_lookup (straps : Fin 8) : [(0, 0x10), (1, 0x200), (2, 0x2000), (3, 0x20000), (4, 0x80000), (5, 0x200000),
    (6, 0x7FFF00), (7, 0xFFFF00)].lookup straps.val = some (strapPage straps) := by
  fin_cases straps <;> rfl

theorem windowsAt_control (page : Nat) : (windowsAt page)[14] = ⟨true, page, page, .control, 0, false, false⟩ := rfl

theorem windowsAt_descriptor (page : Nat) :
    (windowsAt page)[15] = ⟨true, page + 1, page + 1, .descriptor, 0, false, false⟩ := rfl

theorem windowsAt_other (page : Nat) {i : EntryNo} (low : i < 14) :
    (windowsAt page)[i] = ⟨false, 0, 0, .guard, 0, false, false⟩ := by
  have apart (j : Nat) (h : 14 ≤ j) : j ≠ i.val := by
    have := Fin.lt_def.mp low
    omega
  unfold windowsAt
  rw [Fin.getElem_fin, Vector.getElem_set_ne _ _ (apart 15 (by decide)), Vector.getElem_set_ne _ _ (apart 14 (by decide)),
    Vector.getElem_replicate]
  rfl

theorem linesFrom_plain (line : Nat) (bs : List Byte) : ∀ r ∈ linesFrom line bs, r.2.2.isMirror = false := by
  intro r mem
  obtain ⟨c, -, rfl⟩ := List.mem_map.mp mem
  rfl

theorem capabilityTable_congr {s t : State} (own : t.ownSite = s.ownSite) (count : t.startUp.count = s.startUp.count) :
    capabilityTable t = capabilityTable s := by
  unfold capabilityTable identityWords
  rw [own, count]

/-- The capability table's writes at a descriptor page. -/
def tableWrites (s : State) : List (Nat × Option WLine × OwnTag) :=
  linesFrom (s.mi.windows[15].base * 64) (capabilityTable s)

section
variable (v : State)

theorem stepThree_eq : stepThree v = formGroup (tableWrites v) .nothing (beginStep 3 (tableWrites v).length v) := rfl

theorem stepThree_outside : (flush (stepThree v)).outside = { v with startUp := { v.startUp with
    step := 3, left := (tableWrites v).length } }.outside := by
  rw [flush_outside, stepThree_eq, formGroup_outside _ _ _ (by decide)]
  rfl

theorem stepThree_cmd : (stepThree v).cmd = v.cmd := formGroup_cmd_same (linesFrom_plain _ _)

theorem stepThree_owes : ∀ x ∈ tableWrites v, (flush (stepThree v)).owes x.1 x.2.1 x.2.2 := fun x mem =>
  flush_keeps_owes (formGroup_owes mem (linesFrom_plain _ _ x mem))

end

/-! ## The start of the order with no image to apply (R169 to R172) -/

/-- The blocks have been reset, and the start-up status of an image that is not accepted recorded. -/
def State.restarted (straps : Fin 8) (result : ImageResult) (blocks : Nat) (s : State) : State :=
  { spendFree (restartBlocks straps s) with startUp := { (restartBlocks straps s).startUp with
      status := (restartBlocks straps s).startUp.status.failed result blocks } }

/-- What the start of the order leaves, outside the Time Unit and CMD. -/
structure Restarts (straps : Fin 8) (result : ImageResult) (s t : State) : Prop where
  windows : t.mi.windows = windowsAt (strapPage straps)
  phase : t.startUp.phase = .starting
  step : t.startUp.step = 3
  count : t.startUp.count = s.startUp.count
  verdict : t.startUp.status.result = result
  strap : t.startUp.status.straps = straps.val
  stationReset : t.startUp.status.stationReset = (s.startUp.phase == .resetting)
  states : ∀ i : Fin 8, t.startUp.status.states[i] = .absent ∧ t.startUp.status.refused[i] = 0
  left : t.startUp.left = (linesFrom ((strapPage straps + 1) * 64) (capabilityTable t)).length
  owes : ∀ x ∈ linesFrom ((strapPage straps + 1) * 64) (capabilityTable t), t.owes x.1 x.2.1 x.2.2
  clock : t.clock = s.clock
  ownSite : t.ownSite = 0
  hops : t.hops = State.reset.hops
  ports : t.ports = State.reset.ports
  paths : t.paths = State.reset.paths
  rs : t.rs = State.reset.rs
  tx : t.tx = State.reset.tx
  rx : t.rx = State.reset.rx
  cu : t.cu = State.reset.cu
  rmu : t.rmu = State.reset.rmu

theorem exec_startUpOrder_fails {s : State} {straps : Fin 8} {flash : Option (List Byte)} {result : ImageResult}
    (may : mayStart s = true) (fails : FlashFails flash result) : ∃ blocks,
      exec (.startUpOrder straps flash) s =
        .next (flush (stepThree (setHoldoverLimit 30 (s.quiet.restarted straps result blocks)))) := by
  obtain ⟨blocks, image⟩ := applyImage_fails fails (restartBlocks straps s.quiet)
  refine ⟨blocks, (run_eq (startUpOrder straps flash) s).trans (congrArg (fun u => Host.Outcome.next (flush u)) ?_)⟩
  unfold startUpOrder
  rw [if_pos (show mayStart s.quiet = true from may), image]
  rfl

theorem restarts (straps : Fin 8) (result : ImageResult) (blocks : Nat) (s : State) :
    Restarts straps result s (flush (stepThree (setHoldoverLimit 30 (s.quiet.restarted straps result blocks)))) := by
  obtain ⟨v, hv⟩ : ∃ v, v = setHoldoverLimit 30 (s.quiet.restarted straps result blocks) := ⟨_, rfl⟩
  rw [← hv]
  have first : v.outside = { s.quiet.restarted straps result blocks with tu := v.tu }.outside :=
    hv ▸ setHoldoverLimit_outside 30 _
  obtain ⟨t, ht⟩ : ∃ t, t = flush (stepThree v) := ⟨_, rfl⟩
  have outside := stepThree_outside v
  have owes := stepThree_owes v
  rw [← ht] at outside owes ⊢
  have startUp : t.startUp = { v.startUp with step := 3, left := (tableWrites v).length } := congrArg (·.startUp) outside
  have old : v.startUp = (s.quiet.restarted straps result blocks).startUp := congrArg (·.startUp) first
  have windows : v.mi.windows = windowsAt (strapPage straps) := congrArg (·.mi.windows) first
  have table : tableWrites v = linesFrom ((strapPage straps + 1) * 64) (capabilityTable t) := by
    unfold tableWrites
    rw [windows, capabilityTable_congr (s := v) (t := t) (congrArg (·.ownSite) outside) (by rw [startUp])]
    rfl
  rw [table] at owes startUp
  rw [old] at startUp
  constructor
  case windows => exact (congrArg (·.mi.windows) outside).trans windows
  case left => exact congrArg StartUp.left startUp
  case owes => exact owes
  case states =>
    intro i
    rw [startUp]
    exact ⟨Vector.getElem_replicate .., Vector.getElem_replicate ..⟩
  case clock => exact (congrArg (·.clock) outside).trans (congrArg (·.clock) first)
  case ownSite => exact (congrArg (·.ownSite) outside).trans (congrArg (·.ownSite) first)
  case hops => exact (congrArg (·.hops) outside).trans (congrArg (·.hops) first)
  case ports => exact (congrArg (·.ports) outside).trans (congrArg (·.ports) first)
  case paths => exact (congrArg (·.paths) outside).trans (congrArg (·.paths) first)
  case rs => exact (congrArg (·.rs) outside).trans (congrArg (·.rs) first)
  case tx => exact (congrArg (·.tx) outside).trans (congrArg (·.tx) first)
  case rx => exact (congrArg (·.rx) outside).trans (congrArg (·.rx) first)
  case cu => exact (congrArg (·.cu) outside).trans (congrArg (·.cu) first)
  case rmu => exact (congrArg (·.rmu) outside).trans (congrArg (·.rmu) first)
  case phase => exact congrArg StartUp.phase startUp
  case step => exact congrArg StartUp.step startUp
  case count => exact (congrArg StartUp.count startUp).trans rfl
  case verdict => exact congrArg (fun x : StartUp => x.status.result) startUp
  case strap => exact congrArg (fun x : StartUp => x.status.straps) startUp
  case stationReset => exact congrArg (fun x : StartUp => x.status.stationReset) startUp

/-! ## The start of a station reset (R110, R167) -/

/-- A record at a station reset: what is not settled is RESET. -/
def Record.cut (r : Record) : Record :=
  { r with dests := r.dests.map (fun d => if d.isSettled then d else .settled .reset) }

/-- Every record that one of the list names, or that is CLOSING already, is CLOSING once the list has been closed. -/
theorem cut_closes (l : List Record) {s : State}
    (all : ∀ x ∈ s.cu.records, x.phase = .closing ∨ ∃ r ∈ l, r.hdr = x.hdr) :
    ∀ x ∈ (overAll l (fun r s => closeRecord r.cut s) s).cu.records, x.phase = .closing := by
  induction l generalizing s with
  | nil => exact fun x mem => (all x mem).resolve_right fun ⟨r, none_, _⟩ => nomatch none_
  | cons r l ih =>
    refine ih (s := closeRecord r.cut s) fun x mem => ?_
    rw [closeRecord, formGroup_cu] at mem
    obtain ⟨y, was, rfl⟩ := List.mem_map.mp mem
    by_cases named : y.hdr = r.cut.hdr
    · rw [if_pos named]
      exact .inl rfl
    · rw [if_neg named]
      refine (all y was).imp_right fun ⟨r', mem', same⟩ => ?_
      rcases List.mem_cons.mp mem' with rfl | mem'
      · exact absurd same.symm named
      · exact ⟨r', mem', same⟩

theorem captureReset_eq (s : State) : captureReset s =
    overAll (s.cu.records.filter (fun r => decide (r.phase ≠ .closing))) (fun r s => closeRecord r.cut s) s := rfl

theorem captureReset_closes (s : State) : ∀ x ∈ (captureReset s).cu.records, x.phase = .closing := by
  rw [captureReset_eq]
  refine cut_closes _ fun x mem => ?_
  by_cases closing : x.phase = .closing
  · exact .inl closing
  · exact .inr ⟨x, List.mem_filter.mpr ⟨mem, decide_eq_true closing⟩, rfl⟩

theorem captureReset_sends (s : State) : Sends s (captureReset s) :=
  .overAll _ _ (fun _ _ => closeRecord_sends _ _) s

theorem captureReset_outside (s : State) : (captureReset s).outside = { s with cu := (captureReset s).cu }.outside := by
  rw [captureReset_eq]
  refine overAll_induct (fun u => u.outside = { s with cu := u.cu }.outside) _ _ (fun r _ u same => ?_) s rfl
  rw [closeRecord_outside]
  exact congrArg (fun y : State => { y with cu := (closeRecord r.cut u).cu }) same

/-- A part whose reset has begun: CMD has taken RESET_STATION, and the other parts have stopped. -/
def State.stopped (b : BlockNo) (s : State) : State := abandonCommands b (stopBlocks (formGroup
    [(s.blockLine b, some (partLine (statusBytes .none s.cmd.blocks[b].overrun 0)), .completion b)] .nothing
    (s.updBlock b (fun x => { x with state := .closing, error := .none, remaining := 0 }))))

theorem resetStation_eq (b : BlockNo) (copy : List Byte) (s : State) : resetStation b copy s =
    formGroup [((s.stopped b).controlLine + 2, some [], .summary)] .nothing (s.stopped b) := rfl

/-- What the start of a station reset leaves of the other parts and of CMD. -/
structure Stops (b : BlockNo) (s t : State) : Prop where
  phase : t.startUp.phase = .resetting
  owes : t.owes (s.blockLine b) (some (partLine (statusBytes .none s.cmd.blocks[b].overrun 0))) (.completion b)
  blocks : t.cmd.blocks = (updAt s.cmd.blocks b (fun x => { x with state := .closing, error := .none, remaining := 0 })).map
    Block.noteAborted
  cmd : t.cmd.pending = [] ∧ t.cmd.save = none ∧ t.cmd.causes = 0 ∧ t.cmd.enables = 0 ∧ t.cmd.exec = some (.reset b)
  tx : t.tx = s.tx.map Transmitter.emptied
  rx : t.rx = s.rx.map Receiver.dropped
  batches : t.rs.batches = []
  records : ∀ r ∈ t.cu.records, r.phase = .closing
  tu : t.tu = s.tu
  clock : t.clock = s.clock

theorem stopped_stops (b : BlockNo) (s : State) : Stops b s (s.stopped b) := by
  obtain ⟨v, hv⟩ : ∃ v, v = formGroup
    [(s.blockLine b, some (partLine (statusBytes .none s.cmd.blocks[b].overrun 0)), .completion b)] .nothing
    (s.updBlock b (fun x => { x with state := .closing, error := .none, remaining := 0 })) := ⟨_, rfl⟩
  obtain ⟨w, hw⟩ : ∃ w, w = captureReset { v with startUp := { v.startUp with phase := .resetting } } := ⟨_, rfl⟩
  have same : s.stopped b = abandonCommands b { w with
      out := w.out ++ cutLines w, rs := { w.rs with batches := [] }
      tx := w.tx.map Transmitter.emptied, rx := w.rx.map Receiver.dropped } := by
    rw [hw, hv]
    rfl
  have owes : v.owes (s.blockLine b) (some (partLine (statusBytes .none s.cmd.blocks[b].overrun 0))) (.completion b) := by
    rw [hv]
    exact formGroup_owes (r := (s.blockLine b, some (partLine (statusBytes .none s.cmd.blocks[b].overrun 0)), .completion b))
      (List.mem_singleton_self _) rfl
  have cmd : v.cmd = (s.updBlock b (fun x => { x with state := .closing, error := .none, remaining := 0 })).cmd :=
    hv ▸ formGroup_cmd_same (by simp [OwnTag.isMirror])
  have first : v.outside = s.outside := hv ▸ (formGroup_outside _ _ _ (by decide)).trans rfl
  have sends : Sends { v with startUp := { v.startUp with phase := .resetting } } w := hw ▸ captureReset_sends _
  have then_ : w.outside = { v with startUp := { v.startUp with phase := .resetting }, cu := w.cu }.outside :=
    hw ▸ captureReset_outside _
  rw [same]
  constructor
  case owes => exact sends.owes _ _ _ owes
  case blocks => exact congrArg (Vector.map Block.noteAborted) (sends.blocks.trans (by rw [cmd]; rfl))
  case cmd => exact ⟨rfl, rfl, rfl, rfl, rfl⟩
  case tx => exact congrArg (Vector.map _) ((outside_tx_eq then_).trans (show v.tx = s.tx from outside_tx_eq first))
  case rx => exact congrArg (Vector.map _) ((outside_rx_eq then_).trans (show v.rx = s.rx from outside_rx_eq first))
  case batches => rfl
  case records => exact hw ▸ captureReset_closes _
  case tu => exact (congrArg (·.tu) then_).trans (congrArg (·.tu) first)
  case clock => exact (congrArg (·.clock) then_).trans (congrArg (·.clock) first)
  case phase => exact (congrArg (·.startUp.phase) then_).trans rfl

theorem mayStart_resetting {s : State} (phase : s.startUp.phase = .resetting) : mayStart s = true ↔ s.Drained := by
  unfold mayStart
  rw [phase, ← Interposer.drained_iff]
  exact Iff.rfl

theorem setHoldoverLimit_plain {n : Nat} {s : State} (other : s.tu.state ≠ .holdover) :
    setHoldoverLimit n s = { s with tu := { s.tu with limit := n } } := by
  unfold setHoldoverLimit
  dsimp only
  split
  · next holdover _ => exact absurd holdover other
  · rfl

end Sys2Proof.Machine

open Sys2Proof Sys2Proof.Machine

/-- Settles O57: RESET_STATION stops the parts and empties CMD; the start-up order waits for the own requests, and then
begins with every block at its reset values. -/
theorem stationResetBegins : Obligations.StationResetBegins := by
  refine ⟨fun s b rest p takes => ?_, fun s straps flash phase waits settled => ?_,
    fun s straps flash result phase drained other fails => ?_⟩
  · obtain ⟨v, hv⟩ : ∃ v, v = (s.taken b rest).stopped b := ⟨_, rfl⟩
    obtain ⟨u, hu⟩ : ∃ u, u = formGroup [(v.controlLine + 2, some [], .summary)] .nothing v := ⟨_, rfl⟩
    have runs : exec .resetStation s = .next (flush u) :=
      (command_takes takes (· == 22) rfl resetStation).trans (by rw [resetStation_eq, hu, hv])
    obtain ⟨phase, owes, blocks, ⟨pending, save, causes, enables, exec⟩, tx, rx, batches, records, tu, clock⟩ :=
      hv ▸ stopped_stops b (s.taken b rest)
    have outside : (flush u).outside = v.outside := by rw [flush_outside, hu, formGroup_outside _ _ _ (by decide)]
    have fresh : u.cmd.fresh = v.cmd.fresh := hu ▸ formGroup_cmd _ _
    have causes' : (flush u).cmd.causes = 0 := by rw [flush_causes, fresh_causes fresh, causes]
    have blocks' : (flush u).cmd.blocks = v.cmd.blocks := by rw [flush_blocks, fresh_blocks fresh]
    refine ⟨_, runs, (congrArg (·.startUp.phase) outside).trans phase, ?_, ?_, causes', ?_, ?_, ?_, ?_, ?_,
      fun c differ waits => ?_, fun k => ?_, (congrArg (·.rs.batches) outside).trans batches, ?_,
      (congrArg (·.tu) outside).trans tu, (congrArg (·.clock) outside).trans clock⟩
    · rw [flush_pending, fresh_pending fresh, pending]
    · rw [flush_save, fresh_save fresh, save]
    · rw [flush_enables, fresh_enables fresh, enables]
    · unfold State.interrupt
      rw [causes', show (0 : BitVec 9) &&& (flush u).cmd.enables = 0 from BitVec.zero_and]
      rfl
    · rw [flush_exec, fresh_exec fresh, exec]
    · rw [hu]
      have before : (s.taken b rest).cmd.blocks[b].overrun = s.cmd.blocks[b].overrun :=
        (congrArg Block.overrun (updAt_self s.cmd.blocks b (fun x => { x with state := .executing })) :)
      rw [before] at owes
      exact flush_keeps_owes (formGroup_keeps_owes owes)
    · rw [blocks', blocks, Fin.getElem_fin, Vector.getElem_map, updAt_self]
      rfl
    · rw [blocks', blocks, Fin.getElem_fin, Vector.getElem_map, updAt_other _ _ _ _ differ,
        show (s.taken b rest).cmd.blocks[(c : Nat)] = s.cmd.blocks[c] from updAt_other _ _ _ _ differ, Block.noteAborted,
        if_pos waits]
    · have txK : (flush u).tx[k] = s.tx[k].emptied := by
        rw [outside_tx_eq outside, tx, Fin.getElem_fin, Vector.getElem_map]
        rfl
      have rxK : (flush u).rx[k] = s.rx[k].dropped := by
        rw [outside_rx_eq outside, rx, Fin.getElem_fin, Vector.getElem_map]
        rfl
      rw [txK, rxK]
      exact ⟨rfl, rfl, rfl, rfl, rfl, rfl, rfl, rfl, rfl, rfl, rfl⟩
    · rw [outside_cu_eq outside]
      exact records
  · refine (run_settled settled (t := s.quiet) ?_ rfl rfl).trans rfl
    exact if_neg fun may => waits ((mayStart_resetting phase).mp may)
  · obtain ⟨blocks, runs⟩ := exec_startUpOrder_fails ((mayStart_resetting phase).mpr drained) fails
    obtain ⟨windows, begins, step, count, verdict, strap, stationReset, states, left, owes, clock, ownSite, hops, ports,
      paths, rs, tx, rx, cu, rmu⟩ := restarts straps result blocks s
    have plain := setHoldoverLimit_plain (n := 30) (s := s.quiet.restarted straps result blocks) other
    have cmd : (stepThree (setHoldoverLimit 30 (s.quiet.restarted straps result blocks))).cmd = s.cmd.restart := by
      rw [stepThree_cmd, plain]
      rfl
    refine ⟨_, strapPage straps, runs, strapPage_lookup straps, ?_, ?_, fun i low => ?_, begins, step, count, ?_, strap, verdict,
      left, owes, ?_, clock, ?_, ?_, ?_, ?_, fun c => ?_, ownSite, hops, ports, paths, rs, tx, rx, cu, rmu⟩
    · rw [windows]
      rfl
    · rw [windows]
      rfl
    · rw [windows, windowsAt_other _ low]
    · rw [stationReset, phase]
      rfl
    · refine (congrArg (·.tu) (stepThree_outside _)).trans ?_
      rw [plain]
      rfl
    · rw [flush_causes, cmd]
      rfl
    · rw [flush_enables, cmd]
      rfl
    · rw [flush_pending, cmd]
      rfl
    · rw [flush_exec, cmd]
      rfl
    · rw [flush_blocks, cmd]
      have block : s.cmd.restart.blocks[c] = s.cmd.blocks[c].restart := Vector.getElem_map ..
      rw [block]
      exact ⟨rfl, rfl, rfl⟩

end

section
/-! SUPPORT. An image of four blocks: its judgement, its blocks, and what applying them does; the statement about the
start-up order's first steps. -/

namespace Sys2Proof.Machine

-- One proof at a time: each would otherwise hold a thread of its own.
set_option Elab.async false

/-! ## An image of four blocks (12.5) -/

/-- The descriptors of NOTIFY, TIMING, one HOPS record and IDENTITY, in that order. -/
def fourDescriptors : List Byte :=
  [8, 0, 0, 0, 48, 0, 2, 0, 7, 0, 0, 0, 50, 0, 48, 0, 4, 0, 0, 0, 98, 0, 8, 0, 1, 0, 0, 0, 106, 0, 16, 0]

/-- The first twelve bytes of such an image. -/
def fourHeader : List Byte := [0x56, 0x4A, 0x43, 0x31, 122, 0, 0, 0, 4, 0, 0, 0]

section
variable {causes timing hop identity : List Byte} (l₁ : causes.length = 2) (l₂ : timing.length = 48) (l₃ : hop.length = 8)
  (l₄ : identity.length = 16)

/-- What such an image holds behind its header. -/
def fourRest (causes timing hop identity : List Byte) : List Byte :=
  fourDescriptors ++ (causes ++ (timing ++ (hop ++ identity)))

/-- The image itself. -/
def fourArea (causes timing hop identity : List Byte) : List Byte :=
  fourHeader ++ (crcBytes (fourRest causes timing hop identity) ++ fourRest causes timing hop identity)

include l₁ l₂ l₃ l₄

theorem fourRest_length : (fourRest causes timing hop identity).length = 106 := by
  simp only [fourRest, fourDescriptors, List.length_append, List.length_cons, List.length_nil, l₁, l₂, l₃, l₄]

theorem imageOf_four : imageOf [(8, causes), (7, timing), (4, hop), (1, identity)] =
    fourArea causes timing hop identity := by
  simp [imageOf, l₁, l₂, l₃, l₄, fourArea, fourRest, fourDescriptors, fourHeader, leBytes]

end

theorem fourArea_drop (causes timing hop identity : List Byte) (k : Nat) : (fourArea causes timing hop identity).drop (16 + k) =
    (fourRest causes timing hop identity).drop k := by
  rw [← List.drop_drop, show (16 : Nat) = 12 + 4 from rfl, ← List.drop_drop]
  rfl

section
variable {causes timing hop identity : List Byte} (l₁ : causes.length = 2) (l₂ : timing.length = 48) (l₃ : hop.length = 8)
  (l₄ : identity.length = 16)
include l₁ l₂ l₃ l₄

theorem fourArea_length : (fourArea causes timing hop identity).length = 122 := by
  rw [fourArea, List.length_append, List.length_append, crcBytes_length, fourRest_length l₁ l₂ l₃ l₄, fourHeader]
  simp

theorem readArea_four : readArea (fourArea causes timing hop identity) = fourArea causes timing hop identity := by
  have length := fourArea_length l₁ l₂ l₃ l₄
  refine readArea_whole (by omega) ?_
  rw [length]
  exact (min_le_right ..).trans (show field (fourArea causes timing hop identity) 4 4 ≤ 122 from le_of_eq rfl)

theorem judgeImage_four : judgeImage (some (fourArea causes timing hop identity)) = .accepted := by
  have length := fourArea_length l₁ l₂ l₃ l₄
  have total : field (fourArea causes timing hop identity) 4 4 = 122 := rfl
  have blocks : byteAt (fourArea causes timing hop identity) 8 = 4 := rfl
  have check : ((fourArea causes timing hop identity).drop 12).take 4 = crcBytes (fourRest causes timing hop identity) :=
    List.take_left' (crcBytes_length _)
  rw [judgeImage, readArea_four l₁ l₂ l₃ l₄, judgeArea, total, blocks, check, List.take_of_length_le length.le,
    show (fourArea causes timing hop identity).drop 16 = fourRest causes timing hop identity from fourArea_drop _ _ _ _ 0,
    if_neg (not_not_intro (show (fourArea causes timing hop identity).take 4 = imageSignature from rfl)),
    if_neg (by unfold imageArea; omega), if_neg (not_not_intro rfl)]

omit l₁ l₂ l₃ l₄ in
theorem descriptors_four : descriptors (fourArea causes timing hop identity) =
    [⟨8, 48, 2⟩, ⟨7, 50, 48⟩, ⟨4, 98, 8⟩, ⟨1, 106, 16⟩] := rfl

/-- The blocks by their types. -/
def fourEntries (causes timing hop identity : List Byte) : BlockType → Option (List (List Byte))
  | .identity => some [identity]
  | .hops => some [hop]
  | .timing => some [timing]
  | .notify => some [causes]
  | _ => none

theorem entriesOfType_four : entriesOfType (fourArea causes timing hop identity)
    [⟨8, 48, 2⟩, ⟨7, 50, 48⟩, ⟨4, 98, 8⟩, ⟨1, 106, 16⟩] 122 = fourEntries causes timing hop identity := by
  have behind (k : Nat) : (fourArea causes timing hop identity).drop (48 + k) =
      (causes ++ (timing ++ (hop ++ identity))).drop k := by
    rw [show 48 + k = 16 + (32 + k) by omega, fourArea_drop, ← List.drop_drop]
    rfl
  have first : ((fourArea causes timing hop identity).drop 48).take 2 = causes := by
    rw [behind 0]
    exact List.take_left' l₁
  have second : ((fourArea causes timing hop identity).drop 50).take 48 = timing := by
    rw [behind 2, List.drop_left' l₁]
    exact List.take_left' l₂
  have third : ((fourArea causes timing hop identity).drop 98).take 8 = hop := by
    rw [behind 50, show 50 = 2 + 48 from rfl, ← List.drop_drop, List.drop_left' l₁, List.drop_left' l₂]
    exact List.take_left' l₃
  have fourth : ((fourArea causes timing hop identity).drop 106).take 16 = identity := by
    rw [behind 58, show 58 = 2 + (48 + 8) from rfl, ← List.drop_drop, ← List.drop_drop, List.drop_left' l₁, List.drop_left' l₂,
      List.drop_left' l₃, List.take_of_length_le l₄.le]
  funext t
  cases t with
  | identity => exact congrArg (fun x => some [x]) ((congrArg (List.take 16) fourth).trans (List.take_of_length_le l₄.le))
  | hops => exact congrArg (fun x => some [x]) ((congrArg (List.take 8) third).trans (List.take_of_length_le l₃.le))
  | timing => exact congrArg (fun x => some [x]) ((congrArg (List.take 48) second).trans (List.take_of_length_le l₂.le))
  | notify => exact congrArg (fun x => some [x]) ((congrArg (List.take 2) first).trans (List.take_of_length_le l₁.le))
  | windows => rfl
  | ports => rfl
  | paths => rfl
  | routes => rfl

/-! ## Applying it (R170) -/

omit l₁ l₂ l₃ l₄ in
/-- The start-up status of such an image, before its blocks have been applied. -/
def StartStatus.accepted (x : StartStatus) : StartStatus :=
  { x with
    result := .accepted, blocks := 4, foreign := false, badType := none
    states := #v[.applied, .absent, .absent, .applied, .absent, .absent, .applied, .applied]
    refused := Vector.replicate 8 0 }

/-- The block of a type that stands has been applied: what the start-up status records of it. -/
def State.recorded (t : BlockType) (refused : Nat) (foreign : Bool) (s : State) : State :=
  { s with startUp := { s.startUp with status := { s.startUp.status with
      refused := updAt s.startUp.status.refused t.index (fun _ => refused)
      foreign := s.startUp.status.foreign || foreign } } }

theorem applyImage_four (s : State) : applyImage (some (fourArea causes timing hop identity)) s =
    applyType (fourEntries causes timing hop identity) .notify (applyType (fourEntries causes timing hop identity) .timing
      (applyType (fourEntries causes timing hop identity) .hops (applyType (fourEntries causes timing hop identity) .identity
        { spendFree s with startUp := { s.startUp with status := s.startUp.status.accepted } }))) := by
  have total : field (fourArea causes timing hop identity) 4 4 = 122 := rfl
  have blocks : byteAt (fourArea causes timing hop identity) 8 = 4 := rfl
  have states : Vector.ofFn (fun i : Fin 8 => (blockTypes[i.val]?.map (typeStateOf
      [⟨8, 48, 2⟩, ⟨7, 50, 48⟩, ⟨4, 98, 8⟩, ⟨1, 106, 16⟩] 122)).getD .absent) = s.startUp.status.accepted.states := by
    refine Vector.ext fun i within => ?_
    rw [Vector.getElem_ofFn]
    interval_cases i <;> rfl
  have descs := descriptors_four (causes := causes) (timing := timing) (hop := hop) (identity := identity)
  unfold applyImage
  dsimp only
  rw [judgeImage_four l₁ l₂ l₃ l₄, Option.getD_some, readArea_four l₁ l₂ l₃ l₄, total, blocks, descs]
  rw [if_pos (show (ImageResult.accepted == ImageResult.accepted) = true from rfl), entriesOfType_four l₁ l₂ l₃ l₄, states,
    if_neg (show ¬ (ImageResult.accepted = .noFlash ∨ ImageResult.accepted = .badSignature) by decide)]
  rfl

omit l₁ l₂ l₃ l₄

theorem applyType_present {entries : BlockType → Option (List (List Byte))} {t : BlockType} {es : List (List Byte)}
    (stands : entries t = some es) (s : State) : applyType entries t s =
      (applyBlock t es s).1.recorded t (applyBlock t es s).2 (t == .identity && es.any foreignIdentity) := by
  unfold applyType
  rw [stands]
  rfl

theorem applyEntries_some {apply : List Byte → State → Option State} {e : List Byte} {s s' : State} (does : apply e s = some s') :
    applyEntries apply [] [e] s = (s', 0) := by
  unfold applyEntries
  dsimp only
  rw [if_neg (by simp), does]
  rfl

theorem applyEntries_none {apply : List Byte → State → Option State} {e : List Byte} {s : State} (refuses : apply e s = none) :
    applyEntries apply [] [e] s = (s, 1) := by
  unfold applyEntries
  dsimp only
  rw [if_neg (by simp), refuses]
  rfl

theorem applyType_identity {s : State} {own : Site} (start : s.ownSite = 0)
    (named : own.val = if byteAt identity 0 ≤ 7 then byteAt identity 0 else 0) :
    applyType (fourEntries causes timing hop identity) .identity s = ({ s with ownSite := own } : State).recorded .identity
      (if 7 < byteAt identity 0 then 1 else 0) (foreignIdentity identity) := by
  rw [applyType_present (es := [identity]) rfl]
  have applied : applyBlock .identity [identity] s = ({ s with ownSite := own }, if 7 < byteAt identity 0 then 1 else 0) := by
    by_cases low : byteAt identity 0 ≤ 7
    · rw [if_pos low] at named
      have does : applyIdentity identity s = some { s with ownSite := own } := by
        unfold applyIdentity
        rw [indexOf_eq_some.mpr named.symm]
        rfl
      rw [if_neg (by omega)]
      exact applyEntries_some does
    · rw [if_neg low] at named
      have same : ({ s with ownSite := own } : State) = s := by
        rw [show own = s.ownSite from start ▸ Fin.ext named]
      have refuses : applyIdentity identity s = none := by
        unfold applyIdentity
        rw [show indexOf 8 (byteAt identity 0) = none from dif_neg (by omega)]
        rfl
      rw [same, if_pos (by omega)]
      exact applyEntries_none refuses
  rw [applied]
  exact congrArg (State.recorded _ _ · _) (Bool.or_false _)

theorem applyType_hops {s : State} {h : HopNo} (named : byteAt hop 0 = h.val) :
    applyType (fourEntries causes timing hop identity) .hops s = (s.updHop h (HopRec.configure hop)).recorded .hops 0 false := by
  have does : applyHopEntry hop s = some (s.updHop h (HopRec.configure hop)) := by
    unfold applyHopEntry
    rw [indexOf_eq_some.mpr named]
    rfl
  rw [applyType_present (es := [hop]) rfl, show applyBlock .hops [hop] s = (s.updHop h (HopRec.configure hop), 0) from
    applyEntries_some does]
  rfl

theorem applyType_timing (s : State) :
    applyType (fourEntries causes timing hop identity) .timing s = (applyTiming timing s).recorded .timing 0 false :=
  applyType_present (es := [timing]) rfl s

theorem applyType_notify (s : State) : applyType (fourEntries causes timing hop identity) .notify s =
    ({ s with cmd := { s.cmd with enables := BitVec.ofNat 9 (field causes 0 2) } } : State).recorded .notify 0 false :=
  applyType_present (es := [causes]) rfl s

end

/-! ## Hole timeouts of windows at their reset values (R141) -/

theorem setWindow_congr {cls : MsgClass} {f g : RxWindow → RxWindow} {x : RxSite} (h : f (x.window cls) = g (x.window cls)) :
    x.setWindow cls f = x.setWindow cls g := by
  cases cls
  · exact congrArg (fun w => ({ x with urgent := w } : RxSite)) h
  · exact congrArg (fun w => ({ x with bulk := w } : RxSite)) h

theorem setHoleTimeout_fresh {s : State} {site : Site} {cls : MsgClass} (us : Nat)
    (fresh : s.rmu[site].window cls = RxWindow.reset) : setHoleTimeout site cls us s =
      s.updWindow site cls (fun _ => { RxWindow.reset with timeout := min 100000 (max 100 us) }) := by
  obtain ⟨u, hu⟩ : ∃ u, u = s.updWindow site cls (fun _ => { RxWindow.reset with timeout := min 100000 (max 100 us) }) := ⟨_, rfl⟩
  have timed : s.updWindow site cls (fun w => ({ w with timeout := clampNat 100 100000 us }).retime) = u := by
    rw [hu]
    have window := setWindow_congr (cls := cls) (x := s.rmu[site])
      (f := fun w => ({ w with timeout := clampNat 100 100000 us }).retime)
      (g := fun _ => { RxWindow.reset with timeout := min 100000 (max 100 us) }) (by rw [fresh]; rfl)
    exact congrArg (fun x => ({ s with rmu := s.rmu.set site x } : State)) window
  have quiet : (u.rmu[site].window cls).holeDue = none := by
    rw [hu, updWindow_self, setWindow_window]
    rfl
  unfold setHoleTimeout
  rw [timed, ← hu, expireHoles, quiet]
  rfl

/-- A site at its reset values but for its two timeouts, clamped. -/
def RxSite.timed (urgent bulk : Nat) : RxSite where
  urgent := { RxWindow.reset with timeout := min 100000 (max 100 urgent) }
  bulk := { RxWindow.reset with timeout := min 100000 (max 100 bulk) }
  ring := RxRing.reset

theorem bothTimeouts_fresh {s : State} {site : Site} (a b : Nat) (fresh : s.rmu[site] = RxSite.reset) :
    setHoleTimeout site .bulk b (setHoleTimeout site .urgent a s) =
      { s with rmu := updAt s.rmu site (fun _ => RxSite.timed a b) } := by
  obtain ⟨u, hu⟩ : ∃ u, u = s.updWindow site .urgent (fun _ => { RxWindow.reset with timeout := min 100000 (max 100 a) }) :=
    ⟨_, rfl⟩
  have self : u.rmu[site] = { RxSite.reset with urgent := { RxWindow.reset with timeout := min 100000 (max 100 a) } } := by
    rw [hu, updWindow_self, fresh]
    rfl
  rw [setHoleTimeout_fresh a (by rw [fresh]; rfl), ← hu, setHoleTimeout_fresh b (by rw [self]; rfl)]
  have site' : (u.rmu[site]).setWindow .bulk (fun _ => { RxWindow.reset with timeout := min 100000 (max 100 b) }) =
      RxSite.timed a b := by rw [self]; rfl
  refine (congrArg (fun x => ({ u with rmu := u.rmu.set site x } : State)) site').trans ?_
  rw [hu]
  refine congrArg (fun v => ({ s with rmu := v } : State)) ?_
  exact Vector.set_set ..

theorem allTimeouts_fresh (p : List Byte) {l : List (Site × Nat)} (once : (l.map Prod.fst).Nodup) {s : State}
    (fresh : ∀ r ∈ l.map Prod.fst, s.rmu[r] = RxSite.reset) : ∃ rmu : Vector RxSite 8,
      overAll l (fun x s => setHoleTimeout x.1 .bulk (field p (4 + 6 * x.2 + 3) 3)
        (setHoleTimeout x.1 .urgent (field p (4 + 6 * x.2) 3) s)) s = { s with rmu := rmu } ∧
      (∀ r : Site, r ∉ l.map Prod.fst → rmu[r] = s.rmu[r]) ∧
      ∀ x ∈ l, rmu[x.1] = RxSite.timed (field p (4 + 6 * x.2) 3) (field p (4 + 6 * x.2 + 3) 3) := by
  induction l generalizing s with
  | nil => exact ⟨s.rmu, rfl, fun _ _ => rfl, nofun⟩
  | cons a l ih =>
    obtain ⟨absent, once⟩ := List.nodup_cons.mp once
    have first := bothTimeouts_fresh (field p (4 + 6 * a.2) 3) (field p (4 + 6 * a.2 + 3) 3) (fresh a.1 List.mem_cons_self)
    obtain ⟨u, hu⟩ : ∃ u : State, u = { s with rmu := updAt s.rmu a.1 (fun _ =>
      RxSite.timed (field p (4 + 6 * a.2) 3) (field p (4 + 6 * a.2 + 3) 3)) } := ⟨_, rfl⟩
    have other (r : Site) (apart : r ≠ a.1) : u.rmu[r] = s.rmu[r] := by
      rw [hu]
      exact updAt_other _ _ _ _ apart
    obtain ⟨rmu, does, out, into⟩ := ih once (s := u) fun r mem => by
      rw [other r fun e => absent (e ▸ mem)]
      exact fresh r (List.mem_cons_of_mem _ mem)
    refine ⟨rmu, ?_, fun r apart => ?_, fun x mem => ?_⟩
    · refine (congrArg (overAll l _) first).trans ?_
      rw [← hu, does, hu]
    · obtain ⟨differ, apart⟩ := not_or.mp (List.mem_cons.not.mp apart)
      rw [out r apart, other r differ]
    · rcases List.mem_cons.mp mem with rfl | mem
      · rw [out x.1 absent, hu]
        exact updAt_self ..
      · exact into x mem

/-! ## The fields of the four blocks (12.5) -/

theorem field_leBytes {n v : Nat} (small : v < 256 ^ n) : field (leBytes n v) 0 n = v := by
  rw [field, List.drop_zero, List.take_of_length_le (leBytes_length ..).le, leNat_leBytes, Nat.mod_eq_of_lt small]

/-- The IDENTITY entry of an image of four blocks. -/
def fourIdentity (site : Byte) (serial : BitVec 64) : List Byte := layout 16 [(0, [site]), (8, leBytes 8 serial.toNat)]

theorem fourIdentity_site (site : Byte) (serial : BitVec 64) : byteAt (fourIdentity site serial) 0 = site.toNat := rfl

theorem fourIdentity_foreign (site : Byte) (serial : BitVec 64) :
    foreignIdentity (fourIdentity site serial) = (serial != Config.unitSerial) := by
  have bytes : ((fourIdentity site serial).drop 8).take 8 = leBytes 8 serial.toNat := rfl
  rw [foreignIdentity, field, bytes, leNat_leBytes, show 256 ^ 8 = 2 ^ 64 by norm_num, Nat.mod_eq_of_lt serial.isLt,
    BitVec.ofNat_toNat, BitVec.setWidth_eq]

/-- The TIMING entry of such an image. -/
def fourTiming (limit : Nat) (timeouts : Fin 14 → Nat) : List Byte :=
  layout 48 [(0, leBytes 2 limit), (4, (List.finRange 14).flatMap (fun i => leBytes 3 (timeouts i)))]

theorem fourTiming_limit {limit : Nat} (small : limit < 65536) (timeouts : Fin 14 → Nat) :
    field (fourTiming limit timeouts) 0 2 = limit := by
  have bytes : ((fourTiming limit timeouts).drop 0).take 2 = leBytes 2 limit := rfl
  rw [field, bytes, leNat_leBytes]
  exact Nat.mod_eq_of_lt small

theorem fourTiming_timeout (limit : Nat) {timeouts : Fin 14 → Nat} (i : Fin 14) (small : timeouts i < 16777216) :
    field (fourTiming limit timeouts) (4 + 3 * i.val) 3 = timeouts i := by
  have bytes : ((fourTiming limit timeouts).drop (4 + 3 * i.val)).take 3 = leBytes 3 (timeouts i) := by
    fin_cases i <;> rfl
  rw [field, bytes, leNat_leBytes]
  exact Nat.mod_eq_of_lt small

theorem fourBlockImage_eq (site : Byte) (serial : BitVec 64) (causes limit : Nat) (timeouts : Fin 14 → Nat) {hop : List Byte}
    (length : hop.length = 8) : fourBlockImage site serial causes limit timeouts hop =
      fourArea (leBytes 2 causes) (fourTiming limit timeouts) hop (fourIdentity site serial) :=
  imageOf_four (leBytes_length ..) rfl length rfl

theorem timeoutPlace_remote {own r : Site} (remote : r ≠ own) : ∃ i, timeoutPlace own r = 2 * i ∧
    (r, i) ∈ ((List.finRange 8).filter (· ≠ own)).zipIdx := by
  refine ⟨if r < own then r.val else r.val - 1, rfl, List.mem_zipIdx_iff_getElem?.mpr ?_⟩
  revert own r
  decide

/-! ## The start of the order with such an image -/

theorem exec_startUpOrder {s : State} (straps : Fin 8) (flash : Option (List Byte)) (may : mayStart s = true) :
    exec (.startUpOrder straps flash) s = .next (flush (stepThree (applyImage flash (restartBlocks straps s.quiet)))) :=
  (run_eq (startUpOrder straps flash) s).trans (congrArg (fun u => Host.Outcome.next (flush u)) (if_pos may))

theorem given_reset (rec : List Byte) : HopRec.reset.configure rec = HopRec.reset.given rec :=
  HopRec.configure_unknown rec HopRec.reset

/-- What applying an image of four blocks leaves, from a state whose own site is 0 and whose windows are at their reset
values. -/
structure FourApplied (own : Site) (refused : Nat) (foreign : Bool) (causes timing hop : List Byte) (h : HopNo)
    (s t : State) : Prop where
  status : t.startUp = { s.startUp with status := { s.startUp.status.accepted with
    refused := #v[refused, 0, 0, 0, 0, 0, 0, 0], foreign := foreign } }
  enables : t.cmd.enables = BitVec.ofNat 9 (field causes 0 2)
  limit : t.tu.limit = min 3600 (max 1 (field timing 0 2))
  hops : t.hops = updAt s.hops h (HopRec.configure hop)
  windows : ∀ (r : Site) (i : Nat), (r, i) ∈ ((List.finRange 8).filter (· ≠ own)).zipIdx →
    t.rmu[r] = RxSite.timed (field timing (4 + 6 * i) 3) (field timing (4 + 6 * i + 3) 3)
  ownSite : t.ownSite = own
  ownWindows : t.rmu[own] = s.rmu[own]
  mi : t.mi.windows = s.mi.windows
  ports : t.ports = s.ports
  paths : t.paths = s.paths
  rs : t.rs = s.rs
  tx : t.tx = s.tx

/-- A block recorded without a refused entry, where the count is 0 already. -/
theorem recorded_zero {t : BlockType} {s : State} (zero : s.startUp.status.refused[t.index] = 0) : s.recorded t 0 false = s := by
  have refused : updAt s.startUp.status.refused t.index (fun _ => 0) = s.startUp.status.refused := by
    refine Vector.ext fun i within => ?_
    by_cases here : i = t.index.val
    · subst here
      rw [updAt_self]
      exact zero.symm
    · exact updAt_other _ _ ⟨i, within⟩ _ fun e => here (congrArg Fin.val e)
  unfold State.recorded
  rw [refused, Bool.or_false]

theorem applyImage_applies {causes timing hop identity : List Byte} (l₁ : causes.length = 2) (l₂ : timing.length = 48)
    (l₃ : hop.length = 8) (l₄ : identity.length = 16) {s : State} {own : Site} {h : HopNo} (start : s.ownSite = 0)
    (named : own.val = if byteAt identity 0 ≤ 7 then byteAt identity 0 else 0) (place : byteAt hop 0 = h.val)
    (fresh : ∀ r : Site, s.rmu[r] = RxSite.reset) :
    FourApplied own (if 7 < byteAt identity 0 then 1 else 0) (foreignIdentity identity) causes timing hop h s
      (applyImage (some (fourArea causes timing hop identity)) s) := by
  obtain ⟨s₂, hs₂⟩ : ∃ x : State, x = { spendFree s with
      ownSite := own, hops := updAt s.hops h (HopRec.configure hop)
      startUp := { s.startUp with status := { s.startUp.status.accepted with
        refused := #v[if 7 < byteAt identity 0 then 1 else 0, 0, 0, 0, 0, 0, 0, 0], foreign := foreignIdentity identity } } } :=
    ⟨_, rfl⟩
  obtain ⟨h₃, hh₃⟩ : ∃ x, x = setHoldoverLimit (clampNat 1 3600 (field timing 0 2)) s₂ := ⟨_, rfl⟩
  have outside : h₃.outside = { s₂ with tu := h₃.tu }.outside := hh₃ ▸ setHoldoverLimit_outside _ _
  have remotes : h₃.remotes = (List.finRange 8).filter (· ≠ own) := by
    have same : h₃.ownSite = own := (congrArg (·.ownSite) outside).trans (by rw [hs₂]; rfl)
    rw [State.remotes, same]
  have rmu₃ : h₃.rmu = s.rmu := (congrArg (·.rmu) outside).trans (by rw [hs₂]; rfl)
  have once : (h₃.remotes.zipIdx.map Prod.fst).Nodup := by
    rw [List.zipIdx_map_fst]
    exact (List.nodup_finRange 8).filter _
  obtain ⟨rmu, times, out, into⟩ := allTimeouts_fresh timing once (s := h₃) fun r _ => by rw [rmu₃, fresh]
  have does : applyImage (some (fourArea causes timing hop identity)) s = { h₃ with
      rmu := rmu, cmd := { h₃.cmd with enables := BitVec.ofNat 9 (field causes 0 2) } } := by
    have refused : h₃.startUp.status.refused = #v[if 7 < byteAt identity 0 then 1 else 0, 0, 0, 0, 0, 0, 0, 0] :=
      (congrArg (·.startUp.status.refused) outside).trans (by rw [hs₂]; rfl)
    have two : ((({ ({ spendFree s with startUp := { s.startUp with status := s.startUp.status.accepted } } : State) with
        ownSite := own } : State).recorded .identity (if 7 < byteAt identity 0 then 1 else 0)
          (foreignIdentity identity)).updHop h (HopRec.configure hop)).recorded .hops 0 false = s₂ := by
      rw [recorded_zero (by rfl), hs₂]
      rfl
    have third : applyTiming timing s₂ = { h₃ with rmu := rmu } := by
      unfold applyTiming
      rw [← hh₃]
      exact times
    rw [applyImage_four l₁ l₂ l₃ l₄, applyType_identity (by exact start) named, applyType_hops place, two, applyType_timing, third,
      recorded_zero (by rw [refused]; rfl), applyType_notify, recorded_zero (by rw [refused]; rfl)]
  rw [does]
  constructor
  case status => exact (congrArg (·.startUp) outside).trans (by rw [hs₂])
  case enables => rfl
  case limit => exact (hh₃ ▸ setHoldoverLimit_limit _ _ : h₃.tu.limit = _)
  case hops => exact (congrArg (·.hops) outside).trans (by rw [hs₂])
  case windows =>
    intro r i mem
    exact into (r, i) (remotes ▸ mem)
  case ownSite => exact (congrArg (·.ownSite) outside).trans (by rw [hs₂])
  case ownWindows =>
    refine (out own ?_).trans (by rw [rmu₃])
    rw [List.zipIdx_map_fst, remotes]
    simp
  case mi => exact (congrArg (·.mi.windows) outside).trans (by rw [hs₂])
  case ports => exact (congrArg (·.ports) outside).trans (by rw [hs₂])
  case paths => exact (congrArg (·.paths) outside).trans (by rw [hs₂])
  case rs => exact (congrArg (·.rs) outside).trans (by rw [hs₂])
  case tx => exact (congrArg (·.tx) outside).trans (by rw [hs₂])

end Sys2Proof.Machine

open Sys2Proof Sys2Proof.Machine

/-- Settles O59: an image that is not accepted leaves every block at its reset values; one of four blocks is read back block by
block, and each is applied. -/
theorem startUpFromStraps : Obligations.StartUpFromStraps := by
  intro s straps phase
  have may : mayStart s = true := by
    unfold mayStart
    rw [phase]
    rfl
  refine ⟨fun flash result fails => ?_, fun site serial causes limit timeouts h hop own length place named => ?_⟩
  · obtain ⟨blocks, runs⟩ := exec_startUpOrder_fails may fails
    obtain ⟨windows, begins, step, count, verdict, strap, stationReset, states, left, owes, clock, ownSite, hops, ports,
      paths, rs, tx, rx, cu, rmu⟩ := restarts straps result blocks s
    refine ⟨_, strapPage straps, runs, strapPage_lookup straps, ?_, ?_, fun i low => ?_, begins, step, verdict, strap, ?_, states,
      count, left, owes, ownSite, ?_, ?_, hops, ports, paths, rs, tx, rx, cu, rmu, clock⟩
    · rw [windows]
      rfl
    · rw [windows]
      rfl
    · rw [windows, windowsAt_other _ low]
    · rw [stationReset, phase]
      rfl
    · rw [flush_enables, stepThree_cmd, (setHoldoverLimit_commands 30 _).enables]
      rfl
    · exact (congrArg (·.tu.limit) (stepThree_outside _)).trans (setHoldoverLimit_limit 30 _)
  · obtain ⟨t, ht⟩ : ∃ t, t = flush (stepThree (applyImage (some (fourArea (leBytes 2 causes.val)
        (fourTiming limit.val (fun i => (timeouts i).val)) hop (fourIdentity site serial))) (restartBlocks straps s.quiet))) :=
      ⟨_, rfl⟩
    have runs := exec_startUpOrder straps (some (fourBlockImage site serial causes.val limit.val (fun i => (timeouts i).val) hop))
      may
    rw [fourBlockImage_eq _ _ _ _ _ length, ← ht] at runs
    obtain ⟨status, enables, holdover, hops, timed, ownSite, ownWindows, windows, ports, paths, rs, tx⟩ :=
      applyImage_applies (causes := leBytes 2 causes.val) (timing := fourTiming limit.val (fun i => (timeouts i).val))
        (identity := fourIdentity site serial) (hop := hop) (s := restartBlocks straps s.quiet) (own := own) (h := h)
        (leBytes_length ..) rfl length rfl rfl named place fun r => Vector.getElem_replicate ..
    obtain ⟨v, hv⟩ : ∃ v, v = applyImage (some (fourArea (leBytes 2 causes.val)
      (fourTiming limit.val (fun i => (timeouts i).val)) hop (fourIdentity site serial))) (restartBlocks straps s.quiet) := ⟨_, rfl⟩
    rw [← hv] at ht status enables holdover hops timed ownSite ownWindows windows ports paths rs tx
    have outside := ht ▸ stepThree_outside v
    rw [fourBlockImage_eq _ _ _ _ _ length]
    have startUp : t.startUp.status = v.startUp.status := congrArg (·.startUp.status) outside
    have refused : t.startUp.status.refused = #v[if 7 < site.toNat then 1 else 0, 0, 0, 0, 0, 0, 0, 0] := by
      rw [startUp, status]
      rfl
    have hopsT : t.hops = updAt (Vector.replicate 96 HopRec.reset) h (HopRec.configure hop) :=
      (congrArg (·.hops) outside).trans hops
    have times (i : Fin 14) : field (fourTiming limit.val (fun i => (timeouts i).val)) (4 + 3 * i.val) 3 = (timeouts i).val :=
      fourTiming_timeout limit.val i (timeouts i).isLt
    refine ⟨t, _, _, runs, ?_, ?_, ?_, ?_, ?_, ?_, fun i => ⟨?_, ?_⟩, fun i low => ?_, ?_,
      fun r i j remote at_ next => ?_, ?_, rfl, rfl, ?_, fun g other => ?_, ?_, ?_, ?_, ?_⟩
    · rw [startUp, status]
      rfl
    · rw [startUp, status]
      rfl
    · rw [startUp, status]
      rfl
    · exact (congrArg (·.ownSite) outside).trans ownSite
    · rw [ht, flush_enables, stepThree_cmd, enables, field_leBytes causes.isLt]
    · have foreign : t.startUp.status.foreign = foreignIdentity (fourIdentity site serial) := by rw [startUp, status]
      rw [foreign, fourIdentity_foreign]
    · have states : t.startUp.status.states =
          #v[.applied, .absent, .absent, .applied, .absent, .absent, .applied, .applied] := by
        rw [startUp, status]
        rfl
      rw [states]
      revert i
      decide
    · rw [refused]
      fin_cases i <;> simp
    · rw [show t.mi.windows = windowsAt (strapPage straps) from (congrArg (·.mi.windows) outside).trans windows,
        windowsAt_other _ low]
    · refine (congrArg (·.tu.limit) outside).trans (holdover.trans ?_)
      rw [fourTiming_limit limit.isLt]
    · obtain ⟨n, twice, mem⟩ := timeoutPlace_remote remote
      have rmu : t.rmu[r] = RxSite.timed (timeouts i).val (timeouts j).val := by
        rw [outside_rmu_eq outside]
        refine (timed r n mem).trans ?_
        rw [← times i, ← times j, show 4 + 3 * i.val = 4 + 6 * n by omega, show 4 + 3 * j.val = 4 + 6 * n + 3 by omega]
      rw [rmu]
      exact ⟨rfl, rfl, rfl⟩
    · rw [outside_rmu_eq outside]
      exact ownWindows.trans (Vector.getElem_replicate ..)
    · rw [hopsT, Fin.getElem_fin, updAt_self, Vector.getElem_replicate, given_reset]
      rfl
    · rw [hopsT, Fin.getElem_fin, updAt_other _ _ _ _ other, Vector.getElem_replicate]
    · exact (congrArg (·.ports) outside).trans ports
    · exact (congrArg (·.paths) outside).trans paths
    · exact (congrArg (·.rs) outside).trans rs
    · exact (congrArg (·.tx) outside).trans tx

end

section
/-! SUPPORT. A start-up order at step 8 with two TRANSMIT entries whose parameters agree modulo 4; the statement about the
start-up order. -/

namespace Sys2Proof.Machine

-- One proof at a time: each would otherwise hold a thread of its own.
set_option Elab.async false

/-- The start-up order waits for READY, two TRANSMIT entries enabled: entry 0 names ring 0 with page 32, and entry 1 has the
parameter 4, which names no ring, with page 33. -/
def twoTransmit : State :=
  { State.reset with
    startUp := { State.reset.startUp with phase := .starting, step := 8 }
    mi := { State.reset.mi with
      windows := (State.reset.mi.windows.set 0 ⟨true, 32, 32, .transmit, 0, false, false⟩).set 1
        ⟨true, 33, 33, .transmit, 4, false, false⟩ } }

/-- No other entry names ring 0. -/
theorem twoTransmit_alone : ¬ twoTransmit.namesToo 0 .transmit 0 := by
  rintro ⟨i, other, on, kind, param⟩
  revert i
  decide +kernel

/-- READY hands CU the entries in turn, a ring for each parameter modulo 4: entry 1's table stands where entry 0's was. -/
theorem twoTransmit_ready : (match exec .ready twoTransmit with
    | .next t => (t.cu.rings[(0 : RingNo)]).map RingTable.base
    | _ => none) = some 33 := by
  decide +kernel

end Sys2Proof.Machine

open Sys2Proof Sys2Proof.Machine

/-- Refutes O60: a TRANSMIT entry's parameter may be 4 or more, and READY then builds its table for the parameter modulo 4,
over that of the one entry that names the ring. -/
theorem not_readyIsSet : ¬ Obligations.ReadyIsSet := by
  unfold Obligations.ReadyIsSet
  rintro ⟨ready, -⟩
  obtain ⟨t, -, runs, -, -, -, -, -, -, rings, -⟩ := ready twoTransmit rfl rfl rfl (by decide)
  have table := rings 0 0 rfl rfl rfl twoTransmit_alone rfl
  have built := twoTransmit_ready
  rw [runs] at built
  simp only [table, Option.map_some, Option.some.injEq] at built
  exact absurd built (by decide)

end

section
/-! SUPPORT. What SET_WINDOW's checks give and what storing an entry tells CU and RMU, each said once; the statement about
SET_WINDOW. -/

namespace Sys2Proof.Machine

-- One proof at a time: each would otherwise hold a thread of its own.
set_option Elab.async false

/-! ## The checks (R82) -/

section
variable {s : State} {e : EntryNo} {w : Window} {p : List Byte} {ring : RingNo} {r : Site}

/-- Only entries 14 and 15 have a fixed role. -/
theorem roleRefused_low (low : e < 14) (image : Bool) (w : Window) : roleRefused image e w = false := by
  have not14 : e ≠ 14 := by rintro rfl; exact absurd low (by decide)
  have not15 : e ≠ 15 := by rintro rfl; exact absurd low (by decide)
  simp [roleRefused, not14, not15]

/-- An enabled TRANSMIT or RECEIVE entry given another range, kind or parameter is in use. -/
theorem windowCheck_inUse (role : roleRefused false e w = false) (used : windowInUse s.mi.windows[e] w = true) :
    windowCheck false e w s = .notOff := by
  unfold windowCheck
  rw [if_neg (ne_true_of_eq_false role), if_pos used]

theorem windowCheck_disabled (role : roleRefused false e w = false) (free : windowInUse s.mi.windows[e] w = false)
    (off : w.enabled = false) : windowCheck false e w s = .none := by
  unfold windowCheck
  rw [if_neg (ne_true_of_eq_false role), if_neg (ne_true_of_eq_false free), off]
  rfl

theorem windowCheck_bad (free : windowInUse s.mi.windows[e] w = false) (on : w.enabled = true)
    (bad : roleRefused false e w = true ∨ windowBad s e w = true) : windowCheck false e w s = .badParam := by
  unfold windowCheck
  by_cases role : roleRefused false e w = true
  · rw [if_pos role]
  · rw [if_neg role, if_neg (ne_true_of_eq_false free), on, if_neg (by decide), if_pos (bad.resolve_left role)]

/-- An enabled entry that passes the checks of its range and kind is refused only for an open record. -/
theorem windowCheck_good (role : roleRefused false e w = false) (free : windowInUse s.mi.windows[e] w = false)
    (on : w.enabled = true) (good : windowBad s e w = false) :
    windowCheck false e w s = if recordOutside s w then .notOff else .none := by
  unfold windowCheck
  rw [if_neg (ne_true_of_eq_false role), if_neg (ne_true_of_eq_false free), on, if_neg (by decide),
    if_neg (ne_true_of_eq_false good)]

theorem ofCode_eq_descriptor {c : Byte} : WinKind.ofCode c = .descriptor ↔ c = 4 := by
  unfold WinKind.ofCode
  grind

theorem recordOutside_iff : recordOutside s w = true ↔ w.kind = .transmit ∧
    ∃ x ∈ s.cu.records, x.ring.val = w.param ∧ (x.hdr / 64 < w.base ∨ w.limit < x.hdr / 64) := by
  simp [recordOutside]

/-- An entry fails a BAD_PARAM check of the statements whatever its kind. -/
theorem windowBad_of_badWindow {kind : Byte} (not14 : e ≠ 14) (code : w.kind = WinKind.ofCode kind)
    (bad : s.badWindow e kind w.param w.base w.limit) : windowBad s e w = true := by
  by_cases known : kind = 1 ∨ kind = 2 ∨ kind = 3 ∨ kind = 4 ∨ kind = 5
  · exact (windowBad_iff not14 code known).2 bad
  · have range : w.limit < w.base ∨ 16777215 < w.base ∨ 16777215 < w.limit ∨
        w.base ≤ s.mi.windows[14].limit ∧ s.mi.windows[14].base ≤ w.limit := by
      unfold State.badWindow at bad
      tauto
    rcases range with h | h | h | h <;> simp [windowBad, Window.overlaps, not14, h]

/-! Entries clear of what stands pass. -/

/-- A range clear of a sort of entries shares no page with one. -/
theorem not_sharesWith_of_clearOf {sort : Window → Prop} {lo hi : Nat} (clear : s.clearOf e sort lo hi) :
    ¬ s.sharesWith e sort lo hi ∧ ¬ (lo ≤ s.mi.windows[14].limit ∧ s.mi.windows[14].base ≤ hi) := by
  refine ⟨fun ⟨i, other, on, sorted, below, above⟩ => ?_, fun ⟨below, above⟩ => ?_⟩
  · have := clear.2 i other on sorted
    omega
  · have := clear.1
    omega

theorem guard_good {param lo hi : Nat} (order : lo ≤ hi) (last : hi ≤ 16777215)
    (clear : s.clearOf e (fun w => w.kind ≠ .guard) lo hi) : ¬ s.badWindow e 5 param lo hi := by
  obtain ⟨alone, control⟩ := not_sharesWith_of_clearOf clear
  simp only [State.badWindow, alone, control]
  simp
  omega

theorem transmit_good {lo hi : Nat} (order : lo ≤ hi) (few : hi < lo + 8) (last : hi ≤ 16777215)
    (clear : s.clearOf e (fun _ => True) lo hi) (once : ¬ s.namesToo e .transmit ring.val) :
    ¬ s.badWindow e 1 ring.val lo hi := by
  obtain ⟨alone, control⟩ := not_sharesWith_of_clearOf clear
  simp only [State.badWindow, alone, control, once]
  simp
  omega

theorem receive_good {lo hi : Nat} (remote : r ≠ s.ownSite) (order : lo ≤ hi) (few : hi < lo + 8) (last : hi ≤ 16777215)
    (clear : s.clearOf e (fun _ => True) lo hi) (once : ¬ s.namesToo e .receive r.val) :
    ¬ s.badWindow e 2 r.val lo hi := by
  obtain ⟨alone, control⟩ := not_sharesWith_of_clearOf clear
  have other : r.val ≠ s.ownSite.val := fun same => remote (Fin.ext same)
  simp only [State.badWindow, alone, control, once, other]
  simp
  omega

theorem descriptor_good {param page : Nat} (last : page ≤ 16777215)
    (clear : s.clearOf 15 (fun _ => True) page page) : ¬ s.badWindow 15 4 param page page := by
  obtain ⟨alone, control⟩ := not_sharesWith_of_clearOf clear
  simp only [State.badWindow, alone, control]
  simp
  omega

end

/-! ## What storing an entry tells CU and RMU (R81, R96, R109, R144) -/

section
variable {old w : Window} {u : State}

theorem isOn_eq_false {k : WinKind} (h : w.enabled = true → w.kind ≠ k) : w.isOn k = false := by
  unfold Window.isOn
  cases on : w.enabled
  · rfl
  · simpa using h on

theorem isOn_eq_true {k : WinKind} : w.isOn k = true ↔ w.enabled = true ∧ w.kind = k := by
  simp [Window.isOn]

/-- Nobody is told where neither the entry as it stood nor as it is stored is an enabled TRANSMIT or RECEIVE one. -/
theorem windowNotice_quiet (was : old.enabled = true → old.kind ≠ .transmit ∧ old.kind ≠ .receive)
    (is : w.enabled = true → w.kind ≠ .transmit ∧ w.kind ≠ .receive) : windowNotice old w u = u := by
  simp [windowNotice, isOn_eq_false fun h => (was h).1, isOn_eq_false fun h => (was h).2,
    isOn_eq_false fun h => (is h).1, isOn_eq_false fun h => (is h).2]

/-- A TRANSMIT entry that stays enabled, or an entry stored as it stood, is handed to nobody. -/
theorem windowNotice_stays (on : old.enabled = true) (still : w.enabled = true) (kind : w.kind = old.kind)
    (same : old.kind = .transmit ∨ w = old) : windowNotice old w u = u := by
  rcases same with tx | rfl
  · simp [windowNotice, Window.isOn, on, still, kind, tx]
  · simp [windowNotice, Window.isOn, on]

theorem windowNotice_dropsRing (on : old.enabled = true) (tx : old.kind = .transmit) (off : w.enabled = false) :
    windowNotice old w u = dropRing (Fin.ofNat 4 old.param) old u := by
  simp [windowNotice, Window.isOn, on, tx, off]

theorem windowNotice_stopsRing (on : old.enabled = true) (rx : old.kind = .receive) (off : w.enabled = false) :
    windowNotice old w u = stopRxRing (Fin.ofNat 8 old.param) u := by
  simp [windowNotice, Window.isOn, on, rx, off]

theorem windowNotice_startsRing (was : old.enabled = true → old.kind ≠ .transmit ∧ old.kind ≠ .receive)
    (on : w.enabled = true) (tx : w.kind = .transmit) :
    windowNotice old w u = startRing (Fin.ofNat 4 w.param) w u := by
  simp [windowNotice, isOn_eq_false fun h => (was h).1, isOn_eq_false fun h => (was h).2, isOn_eq_true.2 ⟨on, tx⟩]

/-- A RECEIVE entry that was none, or is stored otherwise than it stood, starts its ring. -/
theorem windowNotice_startsRxRing (on : w.enabled = true) (rx : w.kind = .receive) (changed : old ≠ w)
    (was : old.isOn .transmit = false) : windowNotice old w u = startRxRing (Fin.ofNat 8 w.param) w .ringStart u := by
  simp [windowNotice, Window.isOn, on, rx, changed, was]

end

/-! ## Starting a receive ring (R144) -/

/-- A receive ring at its start in a range of pages. -/
def RxRing.startedAt (base limit : Nat) : RxRing := ⟨some (base * 64, 32 * (limit + 1 - base) - 1), 0, true, 0, []⟩

/-- The own request that writes a starting ring's control line. -/
def startRequest (base : Nat) : Nat × Option WLine × OwnTag :=
  (base * 64, some (partLine [(0, [0, 0, 0, 0, 0xA1, 0, 0, 0, 0, 0, 0, 0])]), .ringStart)

/-- With nothing pending a ring's start sets its indices and forms the write of its control line. -/
theorem startRxRing_empty {site : Site} {w : Window} {u : State} (nothing : u.rmu[site].ring.pending = []) :
    startRxRing site w .ringStart u = formGroup [startRequest w.base] .nothing
      (u.updSite site (fun x => { x with ring := .startedAt w.base w.limit })) := by
  have starts : u.updSite site (fun x => { x with ring := { x.ring with
      place := some (w.base * 64, rxSlots w.base w.limit), producer := 0, lap := true, consumer := 0 } }) =
      u.updSite site (fun x => { x with ring := .startedAt w.base w.limit }) := by
    unfold State.updSite
    rw [updAt_congr (g := fun x => { x with ring := .startedAt w.base w.limit })]
    unfold RxRing.startedAt
    rw [← nothing]
    rfl
  have stays : (formGroup [startRequest w.base] .nothing
      (u.updSite site (fun x => { x with ring := .startedAt w.base w.limit }))).rmu[site].ring.pending = [] := by
    rw [outside_rmu_eq (formGroup_outside _ .nothing _ (by decide))]
    simp [RxRing.startedAt]
  unfold startRxRing drainAll
  dsimp only
  rw [starts]
  exact drain_none (.inl stays)

/-! ## SET_WINDOW carried out -/

section
variable {s u : State} {b : BlockNo} {rest : List BlockNo} {p : List Byte} {e : EntryNo}

/-- An entry is stored for a command that was taken: nothing but the entry changes outside CMD. -/
def State.placed (s : State) (b : BlockNo) (rest : List BlockNo) (e : EntryNo) (w : Window) : State :=
  storeWindow e w (s.taken b rest)

theorem placed_commands (not14 : e ≠ 14) (w : Window) : Commands (s.taken b rest) (s.placed b rest e w) :=
  .of_cmd rfl rfl rfl (congrArg Window.base (updAt_other s.mi.windows e 14 (fun _ => w) (Ne.symm not14)))

theorem setWindow_entry (entry : byteAt p 0 = e.val) : indexOf 16 (byteAt p 0) = some e := indexOf_eq_some.2 entry

/-- A SET_WINDOW whose entry fails a check is refused with its error. -/
theorem setWindow_refuses (takes : s.Takes b rest 1 p) (entry : byteAt p 0 = e.val) {err : ErrorCode} (bad : err ≠ .none)
    (check : windowCheck false e (windowOf p) s = err) : ∃ t, exec .setWindow s = .next t ∧ s.Refuses t b rest err := by
  refine immediate_refuses takes ?_
  have checked : windowCheck false e (windowOf p) (s.taken b rest) = err := check
  unfold setWindow
  rw [setWindow_entry entry]
  dsimp only
  rw [checked]
  cases err <;> first | rfl | exact absurd rfl bad

/-- A SET_WINDOW whose entry passes the checks stores it, tells CU and RMU, and is Done. -/
theorem setWindow_done (takes : s.Takes b rest 1 p) (entry : byteAt p 0 = e.val) (not14 : e ≠ 14)
    (check : windowCheck false e (windowOf p) s = .none)
    (told : windowNotice s.mi.windows[e] (windowOf p) (s.placed b rest e (windowOf p)) = u)
    (kept : Commands (s.placed b rest e (windowOf p)) u) (causes : u.cmd.causes = s.cmd.causes) :
    ∃ t, exec .setWindow s = .next t ∧ s.Done t b rest .none [] ∧ s.raisedNothing t ∧ t.outside = u.outside ∧
      ∀ l w g, u.owes l w g → t.owes l w g := by
  have does : setWindow p (s.taken b rest) = (u, .none, []) := by
    have checked : windowCheck false e (windowOf p) (s.taken b rest) = .none := check
    unfold setWindow
    rw [setWindow_entry entry]
    dsimp only
    rw [checked, ← told]
    rfl
  obtain ⟨runs, done, outside⟩ := immediate_done takes does ((placed_commands not14 _).trans kept)
  exact ⟨_, runs, done, ended_raisedNothing causes, outside, fun _ _ _ => ended_owes⟩

/-- Where what is told is outside CMD and the Memory Interposer, the part ends as it is left. -/
theorem setWindow_told (takes : s.Takes b rest 1 p) (entry : byteAt p 0 = e.val) (not14 : e ≠ 14) {w : Window}
    (given : windowOf p = w) (check : windowCheck false e w s = .none)
    (told : windowNotice s.mi.windows[e] w (s.placed b rest e w) = u)
    (mi : u.mi = (s.placed b rest e w).mi) (cmd : u.cmd = (s.placed b rest e w).cmd) :
    ∃ t, exec .setWindow s = .next t ∧ s.Done t b rest .none [] ∧ s.raisedNothing t ∧
      t.mi.windows = s.mi.windows.set e w ∧ t.cu = u.cu ∧ t.rmu = u.rmu ∧ t.outside = u.outside := by
  subst given
  have kept : Commands (s.placed b rest e (windowOf p)) u := .of_cmd cmd (by rw [mi]) (by rw [mi]) (by rw [mi])
  obtain ⟨t, runs, done, nothing, outside, -⟩ := setWindow_done takes entry not14 check told kept (by rw [cmd]; rfl)
  exact ⟨t, runs, done, nothing, (outside_windows_eq outside).trans (by rw [mi]; rfl), outside_cu_eq outside,
    outside_rmu_eq outside, outside⟩

/-- Where nobody is told, the entry alone is stored. -/
theorem setWindow_quiet (takes : s.Takes b rest 1 p) (entry : byteAt p 0 = e.val) (not14 : e ≠ 14) {w : Window}
    (given : windowOf p = w) (check : windowCheck false e w s = .none)
    (told : windowNotice s.mi.windows[e] w (s.placed b rest e w) = s.placed b rest e w) :
    ∃ t, exec .setWindow s = .next t ∧ s.Done t b rest .none [] ∧ s.raisedNothing t ∧
      t.mi.windows = s.mi.windows.set e w ∧ t.rmu = s.rmu ∧
      t.outside = { s with mi := { s.mi with windows := t.mi.windows } }.outside := by
  obtain ⟨t, runs, done, nothing, windows, -, rmu, outside⟩ := setWindow_told takes entry not14 given check told rfl rfl
  exact ⟨t, runs, done, nothing, windows, rmu, by rw [windows]; exact outside⟩

/-- Where a receive ring with nothing pending is started, its control line is written. -/
theorem setWindow_starts {w : Window} {r : Site} (takes : s.Takes b rest 1 p) (entry : byteAt p 0 = e.val) (not14 : e ≠ 14)
    (given : windowOf p = w) (check : windowCheck false e w s = .none)
    (told : windowNotice s.mi.windows[e] w (s.placed b rest e w) = startRxRing r w .ringStart (s.placed b rest e w))
    (empty : s.rmu[r].ring.pending = []) :
    ∃ t, exec .setWindow s = .next t ∧ s.Done t b rest .none [] ∧ s.raisedNothing t ∧
      t.mi.windows = s.mi.windows.set e w ∧ t.rmu[r] = { s.rmu[r] with ring := .startedAt w.base w.limit } ∧
      (∀ x : Site, x ≠ r → t.rmu[x] = s.rmu[x]) ∧
      t.owes (startRequest w.base).1 (startRequest w.base).2.1 .ringStart ∧
      t.outside = { s with rmu := t.rmu, mi := { s.mi with windows := t.mi.windows } }.outside := by
  subst given
  rw [startRxRing_empty (show (s.placed b rest e (windowOf p)).rmu[r].ring.pending = [] from empty)] at told
  obtain ⟨v, started⟩ : ∃ v, v = (s.placed b rest e (windowOf p)).updSite r
    (fun x => { x with ring := .startedAt (windowOf p).base (windowOf p).limit }) := ⟨_, rfl⟩
  rw [← started] at told
  have kept : Commands (s.placed b rest e (windowOf p)) v := started ▸ .of_cmd
  have causes : (formGroup [startRequest (windowOf p).base] .nothing v).cmd.causes = s.cmd.causes := by
    rw [fresh_causes (formGroup_cmd _ _), started]
    rfl
  obtain ⟨t, runs, done, nothing, outside, owes⟩ :=
    setWindow_done takes entry not14 check told (kept.trans (formGroup_commands _ _)) causes
  rw [formGroup_outside _ _ _ (by decide)] at outside
  have windows : t.mi.windows = s.mi.windows.set e (windowOf p) := by rw [outside_windows_eq outside, started]; rfl
  have rmu : t.rmu = updAt s.rmu r (fun x => { x with ring := .startedAt (windowOf p).base (windowOf p).limit }) := by
    rw [outside_rmu_eq outside, started]; rfl
  refine ⟨t, runs, done, nothing, windows, ?_, fun x other => ?_,
    owes _ _ _ (formGroup_owes (r := startRequest _) List.mem_cons_self rfl), ?_⟩
  · rw [rmu]; simp
  · rw [rmu]; exact updAt_other _ _ _ _ other
  · rw [windows, rmu, outside, started]; rfl

end

/-! ## Disabling an entry as it stands (R109, R144) -/

section
variable {s : State} {b : BlockNo} {rest : List BlockNo} {p : List Byte} {e : EntryNo} {w : Window}

theorem windows_set_self (w : Window) : (s.mi.windows.set e w)[e] = w := updAt_self s.mi.windows e (fun _ => w)

/-- Storing an entry leaves the others. -/
theorem windows_set_other {i : EntryNo} (other : i ≠ e) (w : Window) :
    (s.mi.windows.set e w)[i] = s.mi.windows[i] := updAt_other s.mi.windows e i (fun _ => w) other

/-- Disabling a TRANSMIT entry discards its ring's slot table and the bodies buffered from its range. -/
theorem setWindow_drops (takes : s.Takes b rest 1 p) (entry : byteAt p 0 = e.val) (not14 : e ≠ 14)
    (given : windowOf p = w) (check : windowCheck false e w s = .none) (off : w.enabled = false)
    (was : s.mi.windows[e].enabled = true) (tx : s.mi.windows[e].kind = .transmit) :
    ∃ t, exec .setWindow s = .next t ∧ s.Done t b rest .none [] ∧ s.raisedNothing t ∧
      t.mi.windows = s.mi.windows.set e w ∧
      t.cu = { s.cu with
        rings := updAt s.cu.rings (Fin.ofNat 4 s.mi.windows[e].param) (fun _ => none)
        buffer := s.cu.buffer.filter (fun x =>
          decide (x.line / 64 < s.mi.windows[e].base ∨ s.mi.windows[e].limit < x.line / 64)) } ∧ t.rmu = s.rmu ∧
      t.outside = { s with cu := t.cu, rmu := t.rmu, mi := { s.mi with windows := t.mi.windows } }.outside := by
  obtain ⟨t, runs, done, nothing, windows, cu, rmu, outside⟩ :=
    setWindow_told takes entry not14 given check (windowNotice_dropsRing was tx off) rfl rfl
  exact ⟨t, runs, done, nothing, windows, cu, rmu, by rw [windows, cu, rmu]; exact outside⟩

/-- Disabling a RECEIVE entry leaves its ring not present. -/
theorem setWindow_stops (takes : s.Takes b rest 1 p) (entry : byteAt p 0 = e.val) (not14 : e ≠ 14)
    (given : windowOf p = w) (check : windowCheck false e w s = .none) (off : w.enabled = false)
    (was : s.mi.windows[e].enabled = true) (rx : s.mi.windows[e].kind = .receive) :
    ∃ t, exec .setWindow s = .next t ∧ s.Done t b rest .none [] ∧ s.raisedNothing t ∧
      t.mi.windows = s.mi.windows.set e w ∧ t.cu = s.cu ∧
      t.rmu = updAt s.rmu (Fin.ofNat 8 s.mi.windows[e].param) (fun x => { x with ring := { x.ring with place := none } }) ∧
      t.outside = { s with cu := t.cu, rmu := t.rmu, mi := { s.mi with windows := t.mi.windows } }.outside := by
  obtain ⟨t, runs, done, nothing, windows, cu, rmu, outside⟩ :=
    setWindow_told takes entry not14 given check (windowNotice_stopsRing was rx off) rfl rfl
  exact ⟨t, runs, done, nothing, windows, cu, rmu, by rw [windows, cu, rmu]; exact outside⟩

end

/-! ## The entry a SET_WINDOW gives -/

section
variable {s : State} {e : EntryNo} {w : Window} {p : List Byte} {kind : Byte} {param : Nat}

theorem windowOf_enabled (on : byteAt p 1 ≠ 0) (code : p.getD 2 0 = kind) (given : byteAt p 3 = param) :
    windowOf p =
      { enabled := true, base := field p 8 4, limit := field p 12 4, kind := WinKind.ofCode kind, param := param,
        readBlock := (p.getD 4 0).getLsbD 0, writeBlock := (p.getD 4 0).getLsbD 1 } := by
  rw [← code, ← given]
  simp [windowOf, on]

theorem windowOf_disabled (off : byteAt p 1 = 0) :
    windowOf p =
      { enabled := false, base := field p 8 4, limit := field p 12 4, kind := WinKind.ofCode (p.getD 2 0),
        param := byteAt p 3, readBlock := (p.getD 4 0).getLsbD 0, writeBlock := (p.getD 4 0).getLsbD 1 } := by
  simp [windowOf, off]

/-- An enabled entry of one of the five kinds that passes the BAD_PARAM checks is refused only for an open record. -/
theorem windowCheck_known (role : roleRefused false e w = false) (free : windowInUse s.mi.windows[e] w = false)
    (on : w.enabled = true) (not14 : e ≠ 14) (code : w.kind = WinKind.ofCode kind)
    (known : kind = 1 ∨ kind = 2 ∨ kind = 3 ∨ kind = 4 ∨ kind = 5)
    (good : ¬ s.badWindow e kind w.param w.base w.limit) :
    windowCheck false e w s = if recordOutside s w then .notOff else .none :=
  windowCheck_good role free on (Bool.eq_false_iff.2 (mt (windowBad_iff not14 code known).1 good))

theorem ne14_of_low (low : e < 14) : e ≠ 14 := by
  rintro rfl
  exact absurd low (by decide)

/-- A TRANSMIT or RECEIVE entry with another range, kind or parameter is a change of it. -/
theorem windowInUse_iff {old : Window} (on : old.enabled = true) (used : old.kind = .transmit ∨ old.kind = .receive) :
    windowInUse old (windowOf p) = true ↔ field p 8 4 ≠ old.base ∨ field p 12 4 ≠ old.limit ∨
      p.getD 2 0 ≠ old.kind.code ∨ byteAt p 3 ≠ old.param := by
  have coded : WinKind.ofCode (p.getD 2 0) = old.kind ↔ p.getD 2 0 = old.kind.code := by
    unfold WinKind.ofCode
    rcases used with h | h <;> rw [h] <;> simp only [WinKind.code] <;> grind
  have inUse : windowInUse old (windowOf p) = true ↔ ¬ (old.base = field p 8 4 ∧ old.limit = field p 12 4 ∧
      old.kind = WinKind.ofCode (p.getD 2 0) ∧ old.param = byteAt p 3) := by
    simp only [windowInUse, windowOf, on, used, beq_iff_eq, Bool.not_eq_true', Bool.and_eq_true, Bool.or_eq_true,
      ← Bool.not_eq_true, and_assoc, true_and]
  rw [inUse, eq_comm (a := old.kind), coded]
  tauto

/-- An entry with the GUARD flags of a SET_WINDOW's parameters. -/
def Window.reflagged (p : List Byte) (old : Window) : Window :=
  { old with readBlock := (p.getD 4 0).getLsbD 0, writeBlock := (p.getD 4 0).getLsbD 1 }

/-- A TRANSMIT or RECEIVE entry given as it stands has but its GUARD flags changed. -/
theorem windowOf_reflagged {old : Window} (was : old.enabled = true) (used : old.kind = .transmit ∨ old.kind = .receive)
    (on : byteAt p 1 ≠ 0) (base : field p 8 4 = old.base) (limit : field p 12 4 = old.limit)
    (code : p.getD 2 0 = old.kind.code) (given : byteAt p 3 = old.param) : windowOf p = old.reflagged p := by
  have coded : WinKind.ofCode old.kind.code = old.kind := by
    rcases used with h | h <;> rw [h] <;> rfl
  rw [windowOf_enabled on code given, base, limit, coded, ← was, Window.reflagged]

end

/-! ## A transmit ring's table (R96) -/

/-- A table built afresh: 32 slots a page, each expecting lap 1 and FREE but where a record is open. -/
theorem buildTable_slots (base limit : Nat) (s : State) : (buildTable base limit s).slots.length = 32 * (limit + 1 - base) ∧
    ∀ (j : Nat) (slot : Slot), (buildTable base limit s).slots[j]? = some slot → slot.lap = true ∧
      (slot.inFlight = true ↔ ∃ x ∈ s.cu.records, x.hdr = base * 64 + 2 * j) := by
  refine ⟨by simp [buildTable, slotCount], fun j slot there => ?_⟩
  obtain ⟨i, at', rfl⟩ : ∃ i, (List.range (slotCount base limit))[j]? = some i ∧
      (⟨(s.recordOf (base * 64 + 2 * i)).isSome, true⟩ : Slot) = slot := by
    simpa [buildTable, List.getElem?_map] using there
  obtain ⟨-, rfl⟩ := List.getElem?_eq_some_iff.1 at'
  refine ⟨rfl, ?_⟩
  simp [State.recordOf]

/-! ## Each way a SET_WINDOW ends -/

section
variable {s : State} {b : BlockNo} {rest : List BlockNo} {p : List Byte} {e : EntryNo}

/-- An entry given as it stands is not a change of one in use. -/
theorem windowInUse_asItStands {old : Window} (was : old.enabled = true) (used : old.kind = .transmit ∨ old.kind = .receive)
    (base : field p 8 4 = old.base) (limit : field p 12 4 = old.limit) (code : p.getD 2 0 = old.kind.code)
    (param : byteAt p 3 = old.param) : windowInUse old (windowOf p) = false := by
  rw [Bool.eq_false_iff, Ne, windowInUse_iff was used]
  simp only [base, limit, code, param, ne_eq, not_true, or_self, not_false_eq_true]

/-- A low entry that may be changed and passes the BAD_PARAM checks of its kind is refused only for an open record. -/
theorem windowCheck_mayChange {w : Window} {kind : Byte} (low : e < 14) (may : s.mayChange e) (on : w.enabled = true)
    (code : w.kind = WinKind.ofCode kind) (known : kind = 1 ∨ kind = 2 ∨ kind = 3 ∨ kind = 4 ∨ kind = 5)
    (good : ¬ s.badWindow e kind w.param w.base w.limit) :
    windowCheck false e w s = if recordOutside s w then .notOff else .none :=
  windowCheck_known (roleRefused_low low _ _) (windowInUse_of_mayChange may) on (ne14_of_low low) code known good

/-- An enabled TRANSMIT entry that passes its checks is stored, and its ring's table built afresh. -/
theorem setWindow_builds {w : Window} {ring : RingNo} (takes : s.Takes b rest 1 p) (entry : byteAt p 0 = e.val)
    (not14 : e ≠ 14) (may : s.mayChange e) (given : windowOf p = w) (check : windowCheck false e w s = .none)
    (on : w.enabled = true) (tx : w.kind = .transmit) (named : w.param = ring.val) :
    ∃ t, exec .setWindow s = .next t ∧ s.Done t b rest .none [] ∧ s.raisedNothing t ∧
      t.mi.windows = s.mi.windows.set e w ∧
      t.cu = { s.cu with rings := s.cu.rings.set ring (some (buildTable w.base w.limit s)) } ∧
      t.outside = { s with cu := t.cu, mi := { s.mi with windows := t.mi.windows } }.outside := by
  have told := windowNotice_startsRing (u := s.placed b rest e w) may on tx
  rw [named, Fin.ofNat_val_eq_self] at told
  obtain ⟨t, runs, done, nothing, windows, cu, -, outside⟩ := setWindow_told takes entry not14 given check told rfl rfl
  exact ⟨t, runs, done, nothing, windows, cu, by rw [windows, cu]; exact outside⟩

/-- An enabled TRANSMIT or RECEIVE entry given with other GUARD flags alone, or as it stood, passes the checks it passed
before. -/
theorem windowCheck_reflagged (low : e < 14) (was : s.mi.windows[e].enabled = true)
    (used : s.mi.windows[e].kind = .transmit ∨ s.mi.windows[e].kind = .receive) (on : byteAt p 1 ≠ 0)
    (base : field p 8 4 = s.mi.windows[e].base) (limit : field p 12 4 = s.mi.windows[e].limit)
    (code : p.getD 2 0 = s.mi.windows[e].kind.code) (param : byteAt p 3 = s.mi.windows[e].param)
    (good : ¬ s.badWindow e (p.getD 2 0) (byteAt p 3) (field p 8 4) (field p 12 4))
    (inside : ∀ x ∈ s.cu.records, x.ring.val = byteAt p 3 → field p 8 4 ≤ x.hdr / 64 ∧ x.hdr / 64 ≤ field p 12 4) :
    windowCheck false e (windowOf p) s = .none := by
  have known : p.getD 2 0 = 1 ∨ p.getD 2 0 = 2 := by
    rw [code]
    exact used.imp (fun h => by rw [h]; rfl) (fun h => by rw [h]; rfl)
  have kept : recordOutside s (windowOf p) = false := by
    rw [Bool.eq_false_iff, Ne, recordOutside_iff]
    rintro ⟨-, x, open', same, out⟩
    have within : field p 8 4 ≤ x.hdr / 64 ∧ x.hdr / 64 ≤ field p 12 4 := inside x open' same
    have without : x.hdr / 64 < field p 8 4 ∨ field p 12 4 < x.hdr / 64 := out
    omega
  rw [windowCheck_known (roleRefused_low low _ _) (windowInUse_asItStands was used base limit code param)
    (by simp [windowOf, on]) (ne14_of_low low) rfl (known.elim .inl fun h => .inr (.inl h)) good, kept]
  rfl

/-- A RECEIVE entry that passes the BAD_PARAM checks names a site. -/
theorem site_of_good {param lo hi : Nat} (good : ¬ s.badWindow e 2 param lo hi) : ∃ r : Site, r.val = param := by
  refine ⟨⟨param, ?_⟩, rfl⟩
  by_contra above
  exact good (.inr (.inr (.inr (.inr (.inr (.inr (.inl ⟨rfl, .inl (by omega)⟩)))))))

/-- A RECEIVE entry stored with other GUARD flags starts its ring again. -/
theorem setWindow_restarts {r : Site} (takes : s.Takes b rest 1 p) (entry : byteAt p 0 = e.val) (not14 : e ≠ 14)
    (given : windowOf p = s.mi.windows[e].reflagged p) (check : windowCheck false e (s.mi.windows[e].reflagged p) s = .none)
    (was : s.mi.windows[e].enabled = true) (rx : s.mi.windows[e].kind = .receive) (named : s.mi.windows[e].param = r.val)
    (changed : s.mi.windows[e].reflagged p ≠ s.mi.windows[e]) (empty : s.rmu[r].ring.pending = []) :
    ∃ t, exec .setWindow s = .next t ∧ s.Done t b rest .none [] ∧ s.raisedNothing t ∧
      t.mi.windows = s.mi.windows.set e (s.mi.windows[e].reflagged p) ∧
      t.rmu[r] = { s.rmu[r] with ring := .startedAt s.mi.windows[e].base s.mi.windows[e].limit } ∧
      (∀ x : Site, x ≠ r → t.rmu[x] = s.rmu[x]) ∧
      t.owes (startRequest s.mi.windows[e].base).1 (startRequest s.mi.windows[e].base).2.1 .ringStart ∧
      t.outside = { s with rmu := t.rmu, mi := { s.mi with windows := t.mi.windows } }.outside := by
  have told := windowNotice_startsRxRing (u := s.placed b rest e (s.mi.windows[e].reflagged p))
    (w := s.mi.windows[e].reflagged p) was rx (Ne.symm changed) (isOn_eq_false fun _ => by rw [rx]; decide)
  have site : Fin.ofNat 8 (s.mi.windows[e].reflagged p).param = r := (congrArg _ named).trans (Fin.ofNat_val_eq_self r)
  rw [site] at told
  exact setWindow_starts takes entry not14 given check told empty

/-- An entry above 15, entry 14, and entry 15 disabled or of another kind than DESCRIPTOR are refused. -/
theorem setWindow_roles (takes : s.Takes b rest 1 p)
    (bad : 15 < byteAt p 0 ∨ byteAt p 0 = 14 ∨ byteAt p 0 = 15 ∧ (byteAt p 1 = 0 ∨ p.getD 2 0 ≠ 4)) :
    ∃ t, exec .setWindow s = .next t ∧ s.Refuses t b rest .badParam := by
  rcases bad with above | control | ⟨entry, other⟩
  · have none_ : indexOf 16 (byteAt p 0) = none := by unfold indexOf; rw [dif_neg (by omega)]
    refine immediate_refuses takes ?_
    unfold setWindow
    rw [none_]
  · exact setWindow_refuses (e := 14) takes control (by decide) rfl
  · refine setWindow_refuses (e := 15) takes entry (by decide) ?_
    have role : roleRefused false 15 (windowOf p) = true := by
      rcases other with off | code
      · simp [roleRefused, windowOf, off]
      · have kind : (windowOf p).kind ≠ .descriptor := mt ofCode_eq_descriptor.1 code
        simp [roleRefused, kind]
    unfold windowCheck
    rw [if_pos role]

end

end Sys2Proof.Machine

open Sys2Proof Sys2Proof.Machine

/-- Settles O42: an entry is checked, stored and handed on; each clause is one outcome of the checks. -/
theorem guardEntryIsStored : Obligations.GuardEntryIsStored := by
  intro s b rest p takes
  refine ⟨fun e entry low on code may order last clear => ?_,
    fun e ring entry low on code param may order few last clear once => ?_,
    fun e r entry low on code param remote may order few last clear once empty => ?_,
    fun e entry low was used => ⟨fun changed => ?_, fun off base limit code param => ?_⟩,
    fun entry on code page last clear may => ?_,
    fun e entry low on may base limit code param good inside empty => ?_,
    fun e entry low off may => ?_, fun e entry low on may bad => ?_, setWindow_roles takes⟩
  · have given : windowOf p = _ := windowOf_enabled on code rfl
    have check := windowCheck_mayChange low may (w := windowOf p) (kind := 5) (by rw [given]) (by rw [given]) (by simp)
      (guard_good order last clear)
    rw [given] at check
    obtain ⟨t, runs, done, nothing, windows, -, outside⟩ := setWindow_quiet takes entry (ne14_of_low low) given
      check (windowNotice_quiet may fun _ => ⟨nofun, nofun⟩)
    exact ⟨t, runs, done, nothing, windows, outside⟩
  · have given : windowOf p = _ := windowOf_enabled on code param
    have once' : ¬ s.namesToo e .transmit ring.val := fun ⟨i, other, on, kind, same⟩ => once i other on kind same
    have check := windowCheck_mayChange low may (w := windowOf p) (kind := 1) (by rw [given]) (by rw [given]) (by simp)
      (by rw [given]; exact transmit_good order few last clear once')
    have outside_iff := recordOutside_iff (s := s) (w := windowOf p)
    rw [given] at check outside_iff
    refine ⟨fun inside => ?_, fun ⟨x, open', same, out⟩ => ?_⟩
    · rw [if_neg] at check
      · obtain ⟨t, runs, done, nothing, windows, cu, outside⟩ :=
          setWindow_builds takes entry (ne14_of_low low) may given check rfl rfl rfl
        obtain ⟨many, each⟩ := buildTable_slots (field p 8 4) (field p 12 4) s
        exact ⟨t, _, runs, done, nothing, windows, cu, many, each, outside⟩
      · rw [outside_iff]
        rintro ⟨-, x, open', same, out⟩
        have within := inside x open' (Fin.ext same)
        dsimp only at out
        omega
    · refine setWindow_refuses takes entry (by decide) ?_
      rw [given, check, if_pos]
      rw [outside_iff]
      exact ⟨rfl, x, open', congrArg Fin.val same, out⟩
  · have given : windowOf p = _ := windowOf_enabled on code param
    have once' : ¬ s.namesToo e .receive r.val := fun ⟨i, other, on, kind, same⟩ => once i other on kind same
    have check := windowCheck_mayChange low may (w := windowOf p) (kind := 2) (by rw [given]) (by rw [given]) (by simp)
      (by rw [given]; exact receive_good remote order few last clear once')
    have changed : s.mi.windows[e] ≠ windowOf p := by
      intro same
      exact (may (by rw [same, given])).2 (by rw [same, given]; rfl)
    have told := windowNotice_startsRxRing (u := s.placed b rest e (windowOf p)) (by rw [given]) (by rw [given]; rfl) changed
      (isOn_eq_false fun on => (may on).1)
    rw [given] at told check
    dsimp only at told
    rw [Fin.ofNat_val_eq_self] at told
    exact setWindow_starts takes entry (ne14_of_low low) given check told empty
  · exact setWindow_refuses takes entry (by decide)
      (windowCheck_inUse (roleRefused_low low _ _) ((windowInUse_iff was used).2 changed))
  · have is := windowOf_disabled off
    have check := windowCheck_disabled (s := s) (roleRefused_low low false (windowOf p))
      (windowInUse_asItStands was used base limit code param) (by rw [is])
    have stored : (s.mi.windows.set e (windowOf p))[e].enabled = false := by rw [windows_set_self, is]
    rcases used with tx | rx
    · obtain ⟨t, runs, done, nothing, windows, cu, rmu, outside⟩ :=
        setWindow_drops takes entry (ne14_of_low low) rfl check (by rw [is]) was tx
      refine ⟨t, runs, done, nothing, windows ▸ stored, fun i other => windows ▸ windows_set_other other _,
        fun ring _ named => ?_, fun r rx => absurd (tx.symm.trans rx) (by decide), outside⟩
      have number : Fin.ofNat 4 s.mi.windows[e].param = ring := by rw [named, Fin.ofNat_val_eq_self]
      rw [cu, number]
      exact ⟨rfl, rfl, rfl, rmu⟩
    · obtain ⟨t, runs, done, nothing, windows, cu, rmu, outside⟩ :=
        setWindow_stops takes entry (ne14_of_low low) rfl check (by rw [is]) was rx
      refine ⟨t, runs, done, nothing, windows ▸ stored, fun i other => windows ▸ windows_set_other other _,
        fun ring tx => absurd (tx.symm.trans rx) (by decide), fun r _ named => ?_, outside⟩
      have number : Fin.ofNat 8 s.mi.windows[e].param = r := by rw [named, Fin.ofNat_val_eq_self]
      rw [rmu, number]
      exact ⟨updAt_self _ _ _, fun x other => updAt_other _ _ _ _ other, cu⟩
  · have given : windowOf p = _ := windowOf_enabled on code rfl
    rw [← page] at clear last
    have check : windowCheck false 15 (windowOf p) s = .none := by
      rw [given, windowCheck_known (kind := 4) rfl (windowInUse_of_mayChange may) rfl (by decide)
        rfl (by simp) (by rw [← page]; exact descriptor_good last clear)]
      rfl
    obtain ⟨t, runs, done, nothing, windows, -, outside⟩ := setWindow_quiet (e := 15) takes entry (by decide) given
      (given ▸ check) (windowNotice_quiet may fun _ => ⟨nofun, nofun⟩)
    have stored : t.mi.windows[15] = _ := (congrArg (·[15]) windows).trans (windows_set_self (e := 15) _)
    refine ⟨t, runs, done, nothing, ?_, ?_, ?_, ?_, fun i other => ?_, outside⟩
    · rw [stored]
    · rw [stored]; exact page.symm
    · rw [stored]
    · rw [stored]; rfl
    · rw [windows]; exact windows_set_other other _
  · obtain ⟨was, used⟩ : s.mi.windows[e].enabled = true ∧
        (s.mi.windows[e].kind = .transmit ∨ s.mi.windows[e].kind = .receive) := by
      unfold State.mayChange at may
      tauto
    have given := windowOf_reflagged was used on base limit code param
    have check := windowCheck_reflagged low was used on base limit code param good inside
    rw [given] at check
    by_cases quiet : s.mi.windows[e].kind = .transmit ∨ s.mi.windows[e].reflagged p = s.mi.windows[e]
    · obtain ⟨t, runs, done, nothing, windows, rmu, outside⟩ := setWindow_quiet takes entry (ne14_of_low low) given check
        (windowNotice_stays was was rfl quiet)
      refine ⟨t, _, runs, done, nothing, rfl, windows, fun _ => rmu, fun r rx changed _ => ?_, by rw [rmu]; exact outside⟩
      exact (quiet.elim (fun tx => absurd (tx.symm.trans rx) (by decide)) changed).elim
    · obtain ⟨notTx, changed⟩ := not_or.1 quiet
      have rx := used.resolve_left notTx
      rw [code, rx] at good
      obtain ⟨r, named⟩ := site_of_good good
      obtain ⟨t, runs, done, nothing, windows, rmu, others, owes, outside⟩ :=
        setWindow_restarts takes entry (ne14_of_low low) given check was rx (param.symm.trans named.symm) changed
          (empty r named)
      refine ⟨t, _, runs, done, nothing, rfl, windows, fun same => absurd same quiet, fun x _ _ its => ?_, outside⟩
      obtain rfl : x = r := Fin.ext (its.trans named.symm)
      exact ⟨rmu, others, owes⟩
  · obtain ⟨t, runs, done, nothing, windows, -, outside⟩ := setWindow_quiet takes entry (ne14_of_low low)
      (windowOf_disabled off) (windowCheck_disabled (roleRefused_low low _ _) (windowInUse_of_mayChange may) rfl)
      (windowNotice_quiet may nofun)
    exact ⟨t, runs, done, nothing, windows, outside⟩
  · have not14 : e ≠ 14 := low.elim ne14_of_low (by rintro rfl; decide)
    exact setWindow_refuses takes entry (by decide) (windowCheck_bad (windowInUse_of_mayChange may) (by simp [windowOf, on])
      (.inr (windowBad_of_badWindow not14 rfl bad)))

end
